-- ==== Sys2Proof/Word.lean ====
section
/-!
DEFINITION. The word types of the S4032 (spec/00_scope.md R8: little-endian, bit 0 least significant).
-/
namespace Sys2Proof

/-- A 64-bit general register value. -/
abbrev Word := BitVec 64

/-- A 32-bit instruction word or FP32 pattern. -/
abbrev W32 := BitVec 32

/-- A byte of memory. -/
abbrev Byte := BitVec 8

/-- A register number (R12). -/
abbrev RegNo := BitVec 6

/-- A tile-descriptor number (R12). -/
abbrev TileNo := BitVec 5

end Sys2Proof
end

