-- ==== Sys2Proof/Config.lean ====
section
/-!
DEFINITION. Values the spec leaves open, as constants without a body: nothing can be proved about what they are.
-/
namespace Sys2Proof.Config

/-- Clock cycles that pass in the step numbered by the tick (log 2). -/
opaque freeClk : Nat → Nat

/-- Nanoseconds of package time that pass in the step numbered by the tick (log 2). -/
opaque freeNs : Nat → Nat

/-- Events of a timing code of 22 Table 116 (dual-issued pairs, bank splits, scoreboard holds) in a step: tick, code (log 2). -/
opaque freeEvents : Nat → Nat → Nat

/-- A byte of a GLOBAL line no one has written, read under a key at a PA (12 R234; log 7). -/
opaque zeroCipherByte : Nat → Nat → Byte

/-- A stored byte read under another key than it was stored under: stored key, reading key, PA, and the plaintext of what
decrypts together with it, a 16-byte unit of a raw block or a whole encoded block (12 R234; log 8). -/
opaque foreignByte : Nat → Nat → Nat → List Byte → Byte

/-- Whether a wrapped key passes the integrity check of RFC 3394 under the device's key (25 R403; log 9). -/
opaque wrapValid : BitVec 576 → Bool

/-- Whether an element, scale or state element keeps its old value after an uncorrectable read of an engine's operands:
tick, element (08 R167, 09 R173; log 19). -/
opaque keepsOld : Nat → Nat → Bool

/-- The size class the encoder gives a compressible block that is not all zero (12 R232; log 20). -/
opaque sizeClass : List Byte → Fin 5

/-- Energy in nJ that work takes by the firmware's activity model: tick, cluster or context (16 R278; log 21). -/
opaque energyUse : Nat → Nat → Nat

/-- The pointer that becomes the head of a continuation pool when the NEXT field of its top object cannot be read (10 R201, 24
R387; log 138). -/
opaque lostNext : Nat → Word

/-- Which of the units of transfer that may land next does, where their order is free (11 R223; log 18). -/
opaque anyBeat : Nat → Nat

/-- Whether the firmware's signature is good at a reset through the pin, by the tick (25 R406; log 147). -/
opaque signatureGood : Nat → Bool

/-- Cores that the register test of a reset through the pin finds wanting, by the tick (25 R406; log 147). -/
opaque failedCores : Nat → List Nat

end Sys2Proof.Config
end

