-- ==== Sys2Proof/Syntax.lean ====
section
/-!
DEFINITION. Abstract syntax of Amiuf: one constructor per row of spec/opcode_table.json, the encoded words first, then
the operations and events of the part that have no encoding (spec/95_what_each_step_holds.md). Fields of encoded words
carry the widths of spec/01_encoding.md R11–R16 and the names of the opcode table.
-/
namespace Sys2Proof

/-- The three engine queues of a core (05 R106). -/
inductive EngId where
  | cpe
  | mat
  | vec
deriving DecidableEq, Repr, Inhabited

/-- Host atomic operations (05 Table 31). -/
inductive HostAtomicOp where
  | fetchAdd
  | swap
  | compareSwap
deriving DecidableEq, Repr, Inhabited

/-- The atomics of 02 Tables 15 and 16 as a fabric request names them. -/
inductive FabricAmo where
  | swap
  | add
  | band
  | bor
  | bxor
  | smin
  | smax
  | umin
  | umax
  | cas
  | fadd
deriving DecidableEq, Repr, Inhabited

/-- What a request arriving over the scale-up fabric asks for (21 R347, R349), with the attributes of its page that its home
acts on (04 R83). -/
inductive FabricOp where
  | load (ctx key pa size pol : Nat)
  | store (ctx key pa pol : Nat) (logged compress : Bool) (bytes : List Byte)
  | atomic (ctx key pa size : Nat) (logged compress : Bool) (op : FabricAmo) (operand compare : Nat)
deriving DecidableEq, Repr, Inhabited

/-- The instructions, operations and events. -/
inductive Instr where
  | add (d : BitVec 6) (a : BitVec 6) (b : BitVec 6)
  | sub (d : BitVec 6) (a : BitVec 6) (b : BitVec 6)
  | andR (d : BitVec 6) (a : BitVec 6) (b : BitVec 6)
  | orR (d : BitVec 6) (a : BitVec 6) (b : BitVec 6)
  | xorR (d : BitVec 6) (a : BitVec 6) (b : BitVec 6)
  | andn (d : BitVec 6) (a : BitVec 6) (b : BitVec 6)
  | sll (d : BitVec 6) (a : BitVec 6) (b : BitVec 6)
  | srl (d : BitVec 6) (a : BitVec 6) (b : BitVec 6)
  | sra (d : BitVec 6) (a : BitVec 6) (b : BitVec 6)
  | ror (d : BitVec 6) (a : BitVec 6) (b : BitVec 6)
  | slt (d : BitVec 6) (a : BitVec 6) (b : BitVec 6)
  | sltu (d : BitVec 6) (a : BitVec 6) (b : BitVec 6)
  | minS (d : BitVec 6) (a : BitVec 6) (b : BitVec 6)
  | maxS (d : BitVec 6) (a : BitVec 6) (b : BitVec 6)
  | minu (d : BitVec 6) (a : BitVec 6) (b : BitVec 6)
  | maxu (d : BitVec 6) (a : BitVec 6) (b : BitVec 6)
  | addw (d : BitVec 6) (a : BitVec 6) (b : BitVec 6)
  | subw (d : BitVec 6) (a : BitVec 6) (b : BitVec 6)
  | sllw (d : BitVec 6) (a : BitVec 6) (b : BitVec 6)
  | srlw (d : BitVec 6) (a : BitVec 6) (b : BitVec 6)
  | sraw (d : BitVec 6) (a : BitVec 6) (b : BitVec 6)
  | clz (d : BitVec 6) (a : BitVec 6)
  | ctz (d : BitVec 6) (a : BitVec 6)
  | popc (d : BitVec 6) (a : BitVec 6)
  | sextb (d : BitVec 6) (a : BitVec 6)
  | sexth (d : BitVec 6) (a : BitVec 6)
  | sextw (d : BitVec 6) (a : BitVec 6)
  | zextw (d : BitVec 6) (a : BitVec 6)
  | mul (d : BitVec 6) (a : BitVec 6) (b : BitVec 6)
  | mulh (d : BitVec 6) (a : BitVec 6) (b : BitVec 6)
  | mulhu (d : BitVec 6) (a : BitVec 6) (b : BitVec 6)
  | mulw (d : BitVec 6) (a : BitVec 6) (b : BitVec 6)
  | div (d : BitVec 6) (a : BitVec 6) (b : BitVec 6)
  | divu (d : BitVec 6) (a : BitVec 6) (b : BitVec 6)
  | rem (d : BitVec 6) (a : BitVec 6) (b : BitVec 6)
  | remu (d : BitVec 6) (a : BitVec 6) (b : BitVec 6)
  | divw (d : BitVec 6) (a : BitVec 6) (b : BitVec 6)
  | divuw (d : BitVec 6) (a : BitVec 6) (b : BitVec 6)
  | remw (d : BitVec 6) (a : BitVec 6) (b : BitVec 6)
  | remuw (d : BitVec 6) (a : BitVec 6) (b : BitVec 6)
  | addi (d : BitVec 6) (a : BitVec 6) (i : BitVec 14)
  | andi (d : BitVec 6) (a : BitVec 6) (i : BitVec 14)
  | ori (d : BitVec 6) (a : BitVec 6) (i : BitVec 14)
  | xori (d : BitVec 6) (a : BitVec 6) (i : BitVec 14)
  | slti (d : BitVec 6) (a : BitVec 6) (i : BitVec 14)
  | sltiu (d : BitVec 6) (a : BitVec 6) (i : BitVec 14)
  | slli (d : BitVec 6) (a : BitVec 6) (s : BitVec 6)
  | srli (d : BitVec 6) (a : BitVec 6) (s : BitVec 6)
  | srai (d : BitVec 6) (a : BitVec 6) (s : BitVec 6)
  | rori (d : BitVec 6) (a : BitVec 6) (s : BitVec 6)
  | lui (d : BitVec 6) (i : BitVec 20)
  | lim (d : BitVec 6) (i : BitVec 16)
  | lih (d : BitVec 6) (i : BitVec 16)
  | addpc (d : BitVec 6) (i : BitVec 20)
  | ptag (d : BitVec 6) (a : BitVec 6) (b : BitVec 6)
  | prank (d : BitVec 6) (a : BitVec 6) (b : BitVec 6)
  | pspace (d : BitVec 6) (a : BitVec 6)
  | poff (d : BitVec 6) (a : BitVec 6)
  | padd (d : BitVec 6) (a : BitVec 6) (b : BitVec 6)
  | beq (a : BitVec 6) (b : BitVec 6) (o : BitVec 14)
  | bne (a : BitVec 6) (b : BitVec 6) (o : BitVec 14)
  | blt (a : BitVec 6) (b : BitVec 6) (o : BitVec 14)
  | bge (a : BitVec 6) (b : BitVec 6) (o : BitVec 14)
  | bltu (a : BitVec 6) (b : BitVec 6) (o : BitVec 14)
  | bgeu (a : BitVec 6) (b : BitVec 6) (o : BitVec 14)
  | jal (d : BitVec 6) (o : BitVec 20)
  | jalr (d : BitVec 6) (a : BitVec 6) (i : BitVec 14)
  | hwLoop (a : BitVec 6) (l : BitVec 2) (o : BitVec 14)
  | ldb (d : BitVec 6) (b : BitVec 6) (c : BitVec 4) (p : BitVec 2) (r : BitVec 2) (o : BitVec 6)
  | ldh (d : BitVec 6) (b : BitVec 6) (c : BitVec 4) (p : BitVec 2) (r : BitVec 2) (o : BitVec 6)
  | ldw (d : BitVec 6) (b : BitVec 6) (c : BitVec 4) (p : BitVec 2) (r : BitVec 2) (o : BitVec 6)
  | ldd (d : BitVec 6) (b : BitVec 6) (c : BitVec 4) (p : BitVec 2) (r : BitVec 2) (o : BitVec 6)
  | ldsb (d : BitVec 6) (b : BitVec 6) (c : BitVec 4) (p : BitVec 2) (r : BitVec 2) (o : BitVec 6)
  | ldsh (d : BitVec 6) (b : BitVec 6) (c : BitVec 4) (p : BitVec 2) (r : BitVec 2) (o : BitVec 6)
  | ldsw (d : BitVec 6) (b : BitVec 6) (c : BitVec 4) (p : BitVec 2) (r : BitVec 2) (o : BitVec 6)
  | stb (d : BitVec 6) (b : BitVec 6) (c : BitVec 4) (p : BitVec 2) (r : BitVec 2) (o : BitVec 6)
  | sth (d : BitVec 6) (b : BitVec 6) (c : BitVec 4) (p : BitVec 2) (r : BitVec 2) (o : BitVec 6)
  | stw (d : BitVec 6) (b : BitVec 6) (c : BitVec 4) (p : BitVec 2) (r : BitVec 2) (o : BitVec 6)
  | std (d : BitVec 6) (b : BitVec 6) (c : BitVec 4) (p : BitVec 2) (r : BitVec 2) (o : BitVec 6)
  | pushm (f : BitVec 6) (l : BitVec 6)
  | popm (f : BitVec 6) (l : BitVec 6)
  | fence (k : BitVec 2) (s : BitVec 3) (m : BitVec 16)
  | tdld (t : BitVec 5) (b : BitVec 6) (c : BitVec 4) (o : BitVec 8)
  | tdst (t : BitVec 5) (b : BitVec 6) (c : BitVec 4) (o : BitVec 8)
  | amoswapW (r : BitVec 2) (d : BitVec 6) (a : BitVec 6) (b : BitVec 6) (c : BitVec 4)
  | amoswapD (r : BitVec 2) (d : BitVec 6) (a : BitVec 6) (b : BitVec 6) (c : BitVec 4)
  | amoaddW (r : BitVec 2) (d : BitVec 6) (a : BitVec 6) (b : BitVec 6) (c : BitVec 4)
  | amoaddD (r : BitVec 2) (d : BitVec 6) (a : BitVec 6) (b : BitVec 6) (c : BitVec 4)
  | amoandW (r : BitVec 2) (d : BitVec 6) (a : BitVec 6) (b : BitVec 6) (c : BitVec 4)
  | amoandD (r : BitVec 2) (d : BitVec 6) (a : BitVec 6) (b : BitVec 6) (c : BitVec 4)
  | amoorW (r : BitVec 2) (d : BitVec 6) (a : BitVec 6) (b : BitVec 6) (c : BitVec 4)
  | amoorD (r : BitVec 2) (d : BitVec 6) (a : BitVec 6) (b : BitVec 6) (c : BitVec 4)
  | amoxorW (r : BitVec 2) (d : BitVec 6) (a : BitVec 6) (b : BitVec 6) (c : BitVec 4)
  | amoxorD (r : BitVec 2) (d : BitVec 6) (a : BitVec 6) (b : BitVec 6) (c : BitVec 4)
  | amominW (r : BitVec 2) (d : BitVec 6) (a : BitVec 6) (b : BitVec 6) (c : BitVec 4)
  | amominD (r : BitVec 2) (d : BitVec 6) (a : BitVec 6) (b : BitVec 6) (c : BitVec 4)
  | amomaxW (r : BitVec 2) (d : BitVec 6) (a : BitVec 6) (b : BitVec 6) (c : BitVec 4)
  | amomaxD (r : BitVec 2) (d : BitVec 6) (a : BitVec 6) (b : BitVec 6) (c : BitVec 4)
  | amominuW (r : BitVec 2) (d : BitVec 6) (a : BitVec 6) (b : BitVec 6) (c : BitVec 4)
  | amominuD (r : BitVec 2) (d : BitVec 6) (a : BitVec 6) (b : BitVec 6) (c : BitVec 4)
  | amomaxuW (r : BitVec 2) (d : BitVec 6) (a : BitVec 6) (b : BitVec 6) (c : BitVec 4)
  | amomaxuD (r : BitVec 2) (d : BitVec 6) (a : BitVec 6) (b : BitVec 6) (c : BitVec 4)
  | casW (r : BitVec 2) (d : BitVec 6) (a : BitVec 6) (b : BitVec 6) (c : BitVec 4)
  | casD (r : BitVec 2) (d : BitVec 6) (a : BitVec 6) (b : BitVec 6) (c : BitVec 4)
  | cas2 (r : BitVec 2) (d : BitVec 5) (a : BitVec 6) (b : BitVec 5) (c : BitVec 4)
  | amofadd (r : BitVec 2) (d : BitVec 6) (a : BitVec 6) (b : BitVec 6) (c : BitVec 4)
  | ctrinit (a : BitVec 6) (b : BitVec 6)
  | ctrsig (d : BitVec 6) (a : BitVec 6) (b : BitVec 6)
  | ctrrd (d : BitVec 6) (a : BitVec 6)
  | ctrwait (a : BitVec 6)
  | barinit (a : BitVec 6) (b : BitVec 6)
  | bararv (d : BitVec 6) (a : BitVec 6) (w : BitVec 1)
  | barwait (a : BitVec 6) (b : BitVec 6)
  | tlwait (s : BitVec 6) (a : BitVec 6) (b : BitVec 6) (e : BitVec 2)
  | tlrd (d : BitVec 6) (b : BitVec 6) (e : BitVec 2)
  | arinit (a : BitVec 6) (b : BitVec 6)
  | arwait (a : BitVec 6) (b : BitVec 6)
  | spawn (d : BitVec 6) (a : BitVec 6) (b : BitVec 5) (e : BitVec 2)
  | spawnd (d : BitVec 6) (a : BitVec 6) (b : BitVec 5) (e : BitVec 2)
  | yield
  | stepend
  | chkopen (a : BitVec 6)
  | chkclose
  | suspend (d : BitVec 6) (a : BitVec 6) (b : BitVec 6)
  | resume (a : BitVec 6) (b : BitVec 5) (n : BitVec 1)
  | ccopy (d : BitVec 6) (a : BitVec 6) (b : BitVec 6)
  | cdiscard (a : BitVec 6) (b : BitVec 6)
  | cquery (d : BitVec 6) (a : BitVec 6) (b : BitVec 6)
  | crights (a : BitVec 6) (b : BitVec 5)
  | cpin (d : BitVec 5) (b : BitVec 6) (f : BitVec 1)
  | cpout (a : BitVec 5) (b : BitVec 6)
  | cptin (d : BitVec 5) (b : BitVec 5) (f : BitVec 1)
  | cptout (a : BitVec 5) (b : BitVec 5)
  | cpll (d : BitVec 5) (a : BitVec 5) (f : BitVec 1)
  | gather (d : BitVec 5) (x : BitVec 3) (b : BitVec 5) (f : BitVec 1) (k : BitVec 3)
  | scatter (x : BitVec 3) (a : BitVec 5) (b : BitVec 5) (k : BitVec 3)
  | idxld (x : BitVec 3) (b : BitVec 5)
  | fill (d : BitVec 5) (b : BitVec 6)
  | promote (b : BitVec 4)
  | subscr (d : BitVec 5) (b : BitVec 5) (s : BitVec 2)
  | slotret (b : BitVec 6) (s : BitVec 2)
  | mma (d : BitVec 5) (a : BitVec 5) (b : BitVec 5) (s : BitVec 6) (w : BitVec 1)
  | mmapLead (d : BitVec 5) (a : BitVec 5) (b : BitVec 5) (s : BitVec 6)
  | mmapFol (d : BitVec 5) (b : BitVec 5) (s : BitVec 6)
  | wbld (d : BitVec 5) (a : BitVec 5)
  | cbld (a : BitVec 5)
  | mvm (d : BitVec 5) (a : BitVec 5) (b : BitVec 5) (s : BitVec 6) (w : BitVec 1)
  | mzero (d : BitVec 5)
  | vadd (d : BitVec 5) (a : BitVec 5) (b : BitVec 6) (m : BitVec 2)
  | vsub (d : BitVec 5) (a : BitVec 5) (b : BitVec 6) (m : BitVec 2)
  | vmul (d : BitVec 5) (a : BitVec 5) (b : BitVec 6) (m : BitVec 2)
  | vfma (d : BitVec 5) (a : BitVec 5) (b : BitVec 6) (m : BitVec 2)
  | vmin (d : BitVec 5) (a : BitVec 5) (b : BitVec 6) (m : BitVec 2)
  | vmax (d : BitVec 5) (a : BitVec 5) (b : BitVec 6) (m : BitVec 2)
  | vabs (d : BitVec 5) (a : BitVec 5)
  | vneg (d : BitVec 5) (a : BitVec 5)
  | vscl (d : BitVec 5) (a : BitVec 5) (b : BitVec 6)
  | vadds (d : BitVec 5) (a : BitVec 5) (b : BitVec 6) (m : BitVec 2)
  | vand (d : BitVec 5) (a : BitVec 5) (b : BitVec 6) (m : BitVec 2)
  | vor (d : BitVec 5) (a : BitVec 5) (b : BitVec 6) (m : BitVec 2)
  | vxor (d : BitVec 5) (a : BitVec 5) (b : BitVec 6) (m : BitVec 2)
  | vshl (d : BitVec 5) (a : BitVec 5) (b : BitVec 6) (m : BitVec 2)
  | vshr (d : BitVec 5) (a : BitVec 5) (b : BitVec 6) (m : BitVec 2)
  | vcmpeq (d : BitVec 5) (a : BitVec 5) (b : BitVec 6) (m : BitVec 2)
  | vcmplt (d : BitVec 5) (a : BitVec 5) (b : BitVec 6) (m : BitVec 2)
  | vcmple (d : BitVec 5) (a : BitVec 5) (b : BitVec 6) (m : BitVec 2)
  | vsel (d : BitVec 5) (a : BitVec 5) (b : BitVec 6) (m : BitVec 2)
  | vmov (d : BitVec 5) (a : BitVec 5)
  | vbcast (d : BitVec 5) (a : BitVec 5) (k : BitVec 2)
  | vbcastScalar (d : BitVec 5) (b : BitVec 6)
  | vtrans (d : BitVec 5) (a : BitVec 5)
  | vexp (d : BitVec 5) (a : BitVec 5)
  | vexp2 (d : BitVec 5) (a : BitVec 5)
  | vlog2 (d : BitVec 5) (a : BitVec 5)
  | vrcp (d : BitVec 5) (a : BitVec 5)
  | vrsqrt (d : BitVec 5) (a : BitVec 5)
  | vsqrt (d : BitVec 5) (a : BitVec 5)
  | vtanh (d : BitVec 5) (a : BitVec 5)
  | vsigm (d : BitVec 5) (a : BitVec 5)
  | vsilu (d : BitVec 5) (a : BitVec 5)
  | vgelu (d : BitVec 5) (a : BitVec 5)
  | vcvt (d : BitVec 5) (a : BitVec 5) (o : BitVec 1)
  | vquant (d : BitVec 5) (a : BitVec 5)
  | vdquant (d : BitVec 5) (a : BitVec 5)
  | vrsum (d : BitVec 5) (a : BitVec 5) (c : BitVec 1)
  | vrmax (d : BitVec 5) (a : BitVec 5)
  | vrmin (d : BitVec 5) (a : BitVec 5)
  | vsmaxo (d : BitVec 5) (a : BitVec 5) (b : BitVec 6)
  | vsmaxf (d : BitVec 5) (a : BitVec 5) (b : BitVec 6)
  | vrot (d : BitVec 5) (a : BitVec 5) (b : BitVec 5) (h : BitVec 1)
  | vrng (d : BitVec 5) (b : BitVec 5)
  | vsample (d : BitVec 5) (a : BitVec 5) (b : BitVec 5)
  | vargmax (d : BitVec 5) (a : BitVec 5)
  | curadvG (d : BitVec 6) (a : BitVec 6) (b : BitVec 6)
  | curadvP (d : BitVec 6) (a : BitVec 6) (b : BitVec 6)
  | fracc (d : BitVec 6) (a : BitVec 6) (b : BitVec 6)
  | strunc (d : BitVec 6) (a : BitVec 6) (b : BitVec 6)
  | scommit (d : BitVec 6) (a : BitVec 6) (b : BitVec 5)
  | ssnap (d : BitVec 6) (a : BitVec 6) (b : BitVec 6)
  | kvalloc (d : BitVec 6) (a : BitVec 6) (b : BitVec 6)
  | kvfree (d : BitVec 6) (a : BitVec 6) (b : BitVec 6)
  | kvborrow (d : BitVec 6) (a : BitVec 6) (b : BitVec 6)
  | slsend (d : BitVec 6) (a : BitVec 6) (b : BitVec 6)
  | slcancel (d : BitVec 6) (a : BitVec 6) (b : BitVec 6)
  | nop
  | trapCode (n : BitVec 12)
  | trapRestartStep
  | trapRollBack
  | trapKillContext
  | trapEndUnit
  | tret
  | crr (d : BitVec 6) (n : BitVec 12)
  | crw (d : BitVec 6) (n : BitVec 12)
  | crx (d : BitVec 6) (n : BitVec 12)
  | brk
  | dictld (a : BitVec 6) (b : BitVec 6)
  | ifence
  | dictionaryPair (j : BitVec 10) (i : BitVec 10)
  | splitWrite (value : Word)
  | splitTakesEffect (die : Nat)
  | tinv (value : Word)
  | watchpointArm (n : BitVec 2) (value : Word)
  | watchpointDisarm (n : BitVec 2) (value : Word)
  | fetchLine (va : Word)
  | scalarAccessPerform (rank index : Nat)
  | scalarAccessReply (rank index : Nat)
  | translationWalk (die : Nat)
  | walkReadReturn (die index : Nat)
  | engineCommandStart (rank : Nat) (eng : EngId) (num : Nat)
  | cpeBeat (rank num : Nat)
  | engineCommandComplete (rank : Nat) (eng : EngId) (num : Nat)
  | engineFaultTrap (rank : Nat)
  | pairMeet (rank : Nat)
  | pairCommit (rank : Nat)
  | pairAbandon (rank : Nat)
  | pushLand (index : Nat)
  | promoteHeadgateStep (rank num : Nat)
  | rampStep (die : Nat) (high : Bool)
  | syncEngineOperation (die : Nat)
  | waitSatisfied (rank : Nat)
  | spinLimitExpiry (rank : Nat)
  | spawnPacketAccept (index : Nat)
  | workDispatch (rank : Nat)
  | continuationStart (rank : Nat)
  | sweepAdmission (sweep : Nat)
  | walkerExpand (die sweep : Nat)
  | sweepDieReport (die sweep : Nat)
  | stepRestart (rank cause : Nat)
  | coreOutOfService (rank : Nat)
  | groupStart (die sweep : Nat)
  | groupRestore (die index : Nat)
  | groupReserve (die index : Nat)
  | preemptionRequest (die : Nat)
  | forcedSave (rank : Nat)
  | lineTransfer (stack line : Nat)
  | laneTest (stack pch : Nat)
  | evacuationLineMove (stack line : Nat)
  | cacheLineReplacement (stack line : Nat)
  | sensorSample (readings : List (Nat × Int))
  | epochEnd
  | marketResultsArrive
  | railSwitch (die cluster : Nat)
  | energyMeterExhausted (die cluster : Nat)
  | launch (queue : Nat)
  | streamOpen (queue : Nat)
  | frame (queue : Nat)
  | playbackReport (queue : Nat)
  | streamClose (queue : Nat)
  | batchOpen (queue : Nat)
  | batchClose (queue : Nat)
  | batchTick (index : Nat)
  | killContext (queue : Nat)
  | saveContext (queue : Nat)
  | restoreContext (queue : Nat)
  | snapshotCopyDone (index : Nat)
  | blockSend (die channel : Nat)
  | blockArrival (index : Nat)
  | blockLandingCheck (die channel : Nat)
  | blockCommit (die channel : Nat)
  | committedAckArrival (index : Nat)
  | cancelProcess (die channel : Nat)
  | cancelAckArrival (index : Nat)
  | retransmitTimeout (die channel seq : Nat)
  | sluiceStop (die channel : Nat)
  | sluiceGo (die channel : Nat)
  | packageLost (package : Nat)
  | fabricRequestArrival (port source seq : Nat) (op : FabricOp)
  | fabricReplayTimeout (port seq : Nat)
  | fabricRequestExpiry (port seq : Nat)
  | planeFailure (plane : Nat)
  | retrainFailure (dieA dieB : Nat)
  | trapRecordLand (ctx : Nat)
  | contextKill (ctx cause : Nat)
  | rollback (ctx cause : Nat)
  | memrd (port ctx : Nat) (va : Word) (size : Nat)
  | memwr (port ctx : Nat) (va : Word) (data : List Byte)
  | hostAtomic (port ctx : Nat) (va : Word) (op : HostAtomicOp) (wide : Bool) (operand compare : Word)
  | qwrite (port queue : Nat) (packet : List Byte)
  | qbind (port queue ctx : Nat)
  | ctxset (port ctx pa : Nat)
  | ctxdrop (port ctx : Nat)
  | pooladd (port ctx die : Nat) (list : Word) (count : Nat)
  | spgrant (port die : Nat) (ctx : Option Nat) (first count : Nat)
  | keyload (port slot : Nat) (wrapped : BitVec 576)
  | keyzap (port slot : Nat)
  | keySlotFlushDone (slot : Nat)
  | mgmtrd (port address : Nat)
  | mgmtwr (port address : Nat) (value : Word)
  | pbudget (port : Nat) (value : Word)
  | rampt (port die : Nat) (value : Word)
  | elogSelect (port stack : Nat) (value : Word)
  | energySelect (port : Nat) (value : Word)
  | sensclr (port : Nat) (value : Word)
  | portLosesLink (port : Nat)
  | powerOn (signatureOk : Bool) (retired : List Nat)
  | resetPin
  | spgrantTakesEffect (die : Nat)
deriving DecidableEq, Repr

end Sys2Proof
end

