-- ==== Sys2Proof/WellFormed.lean ====
section
/-!
DEFINITION. The conditions of spec/01_encoding.md Table 7, and of the words' own tables, on operand values: an
instruction is well-formed when it meets none of them.
-/
namespace Sys2Proof

/-- Why an instruction's operand values make it illegal. -/
inductive Illegal where
  | policyReserved      -- an M word with pol = 3
  | fenceFields         -- FENCE with kind 0, scope 6 or 7, or an empty mask
  | registerRange       -- PUSHM or POPM with first > last
  | loopOffset          -- LOOP with off14 < 1
  | tileOperand         -- an opB that names a tile outside 0–31
  | reservedValue       -- a field that the word leaves reserved for these operands
  | otherName           -- words that belong to another row of the table
deriving DecidableEq, Repr

/-- opB of a word with modes names a tile except in mode 3 (R171, Table 50). -/
def modeOk (b : BitVec 6) (m : BitVec 2) : Bool := m == 3#2 || decide (b.toNat < 32)

/-- No reason when the condition holds. -/
def needs (c : Bool) (r : Illegal) : Option Illegal := if c then none else some r

/-- The reason an instruction's operands make it illegal, if any. -/
def Instr.illegality : Instr → Option Illegal
  | .ldb _ _ _ p _ _ | .ldh _ _ _ p _ _ | .ldw _ _ _ p _ _ | .ldd _ _ _ p _ _ | .ldsb _ _ _ p _ _
  | .ldsh _ _ _ p _ _ | .ldsw _ _ _ p _ _ | .stb _ _ _ p _ _ | .sth _ _ _ p _ _ | .stw _ _ _ p _ _
  | .std _ _ _ p _ _ => needs (p != 3#2) .policyReserved
  | .fence k s m => needs (k != 0#2 && decide (s.toNat < 6) && m != 0#16) .fenceFields
  | .pushm f l | .popm f l => needs (decide (f.toNat ≤ l.toNat)) .registerRange
  | .hwLoop _ _ o => needs (decide (1 ≤ o.toNat ∧ o.toNat < 8192)) .loopOffset
  | .tlwait s _ b e => needs (decide (s.toNat ≤ 5) && (e == 3#2 || b == 0#6)) .reservedValue
  | .tlrd _ b e => needs (e == 3#2 || b == 0#6) .reservedValue
  | .spawn d _ _ e | .spawnd d _ _ e => needs (e != 3#2 || d == 0#6) .reservedValue
  | .vadd _ _ b m | .vsub _ _ b m | .vmul _ _ b m | .vfma _ _ b m | .vmin _ _ b m | .vmax _ _ b m
  | .vadds _ _ b m | .vand _ _ b m | .vor _ _ b m | .vxor _ _ b m | .vshl _ _ b m | .vshr _ _ b m
  | .vcmpeq _ _ b m | .vcmplt _ _ b m | .vcmple _ _ b m | .vsel _ _ b m => needs (modeOk b m) .tileOperand
  | .vsmaxo _ _ b | .vsmaxf _ _ b => needs (decide (b.toNat < 32)) .tileOperand
  | .vbcast _ _ k => needs (k != 3#2) .otherName
  | .trapCode n => needs (n.toNat / 4 != 0x3FC) .otherName
  | _ => none

/-- An instruction that its operands do not make illegal. -/
def Instr.wellFormed (i : Instr) : Bool := i.illegality.isNone

end Sys2Proof
end

