-- ==== Sys2Proof/Decode.lean ====
section
/-!
DEFINITION. The encoding of spec/01_encoding.md: fields of a word, a total decoder that rejects by name, and the encoder.
-/
namespace Sys2Proof

/-- Why a word is no instruction (R17, Table 7). -/
inductive DecodeError where
  | unassignedMajor
  | unassignedFunction
  | reservedBits
  | atomicSize
  | illegal (r : Illegal)
deriving DecidableEq, Repr

/-- Bits lo … lo+n−1 of a word. -/
def fld (w : W32) (lo n : Nat) : BitVec n := w.extractLsb' lo n

/-- Bits lo … lo+k−1 of a field. -/
def subFld {n : Nat} (f : BitVec n) (lo k : Nat) : BitVec k := f.extractLsb' lo k

/-- A sub-field placed at bit lo of a field whose other bits are zero. -/
def part (n lo : Nat) {k : Nat} (v : BitVec k) : BitVec n := BitVec.ofNat n (v.toNat * 2 ^ lo)

/-- Every bit of the field outside lo … lo+k−1 is zero. -/
def onlyBits {n : Nat} (f : BitVec n) (lo k : Nat) : Bool := f.toNat == f.toNat / 2 ^ lo % 2 ^ k * 2 ^ lo

/-- A word accepted when its reserved bits are zero (R17). -/
def okIf (c : Bool) (i : Instr) : Except DecodeError Instr := if c then .ok i else .error .reservedBits

/-- The major of an atomic word (R13): 0x28 + 4·sz + ar. -/
def atomOp (base : Nat) (r : BitVec 2) : BitVec 6 := BitVec.ofNat 6 (base + r.toNat)

/-- The immediate of a SHI word (R12). -/
def shiImm (kind : Nat) (s : BitVec 6) : BitVec 14 := BitVec.ofNat 14 (kind * 4096 + s.toNat)

/-- TRAP (R352): codes 0xFF0 to 0xFF3 are the four ending actions (24 R374), each a row of its own. -/
def trapWord (n : BitVec 12) : Instr :=
  match n.toNat with
  | 0xFF0 => .trapRestartStep
  | 0xFF1 => .trapRollBack
  | 0xFF2 => .trapKillContext
  | 0xFF3 => .trapEndUnit
  | _ => .trapCode n

/-- The m field of GATHER (Table 39): FO in bit 3, k in bits 2:0. -/
def gatherM (f : BitVec 1) (k : BitVec 3) : BitVec 4 := BitVec.ofNat 4 (f.toNat * 8 + k.toNat)

/-- Alu words: the function codes of major 0x01 (Table 6). -/
def parseAlu (d : BitVec 6) (a : BitVec 6) (b : BitVec 6) : Nat → Except DecodeError Instr
  | 0x00 => .ok (.add d a b)
  | 0x01 => .ok (.sub d a b)
  | 0x02 => .ok (.andR d a b)
  | 0x03 => .ok (.orR d a b)
  | 0x04 => .ok (.xorR d a b)
  | 0x05 => .ok (.andn d a b)
  | 0x06 => .ok (.sll d a b)
  | 0x07 => .ok (.srl d a b)
  | 0x08 => .ok (.sra d a b)
  | 0x09 => .ok (.ror d a b)
  | 0x0a => .ok (.slt d a b)
  | 0x0b => .ok (.sltu d a b)
  | 0x0c => .ok (.minS d a b)
  | 0x0d => .ok (.maxS d a b)
  | 0x0e => .ok (.minu d a b)
  | 0x0f => .ok (.maxu d a b)
  | 0x10 => .ok (.addw d a b)
  | 0x11 => .ok (.subw d a b)
  | 0x12 => .ok (.sllw d a b)
  | 0x13 => .ok (.srlw d a b)
  | 0x14 => .ok (.sraw d a b)
  | 0x15 => okIf (b == 0#6) (.clz d a)
  | 0x16 => okIf (b == 0#6) (.ctz d a)
  | 0x17 => okIf (b == 0#6) (.popc d a)
  | 0x18 => okIf (b == 0#6) (.sextb d a)
  | 0x19 => okIf (b == 0#6) (.sexth d a)
  | 0x1a => okIf (b == 0#6) (.sextw d a)
  | 0x1b => okIf (b == 0#6) (.zextw d a)
  | _ => .error .unassignedFunction

/-- MulDiv words: the function codes of major 0x02 (Table 6). -/
def parseMulDiv (d : BitVec 6) (a : BitVec 6) (b : BitVec 6) : Nat → Except DecodeError Instr
  | 0x00 => .ok (.mul d a b)
  | 0x01 => .ok (.mulh d a b)
  | 0x02 => .ok (.mulhu d a b)
  | 0x03 => .ok (.mulw d a b)
  | 0x04 => .ok (.div d a b)
  | 0x05 => .ok (.divu d a b)
  | 0x06 => .ok (.rem d a b)
  | 0x07 => .ok (.remu d a b)
  | 0x08 => .ok (.divw d a b)
  | 0x09 => .ok (.divuw d a b)
  | 0x0a => .ok (.remw d a b)
  | 0x0b => .ok (.remuw d a b)
  | _ => .error .unassignedFunction

/-- SHI (R12): kind in bits 13:12, bits 11:6 reserved. -/
def parseShi (d : BitVec 6) (a : BitVec 6) (imm : BitVec 14) : Except DecodeError Instr :=
  if (subFld imm 6 6).toNat = 0 then
    match (subFld imm 12 2).toNat with
    | 0 => .ok (.slli d a (subFld imm 0 6))
    | 1 => .ok (.srli d a (subFld imm 0 6))
    | 2 => .ok (.srai d a (subFld imm 0 6))
    | _ => .ok (.rori d a (subFld imm 0 6))
  else .error .reservedBits

/-- Tag words: the function codes of major 0x0c (Table 6). -/
def parseTag (d : BitVec 6) (a : BitVec 6) (b : BitVec 6) : Nat → Except DecodeError Instr
  | 0x00 => .ok (.ptag d a b)
  | 0x01 => .ok (.prank d a b)
  | 0x02 => okIf (b == 0#6) (.pspace d a)
  | 0x03 => okIf (b == 0#6) (.poff d a)
  | 0x04 => .ok (.padd d a b)
  | _ => .error .unassignedFunction

/-- PUSHM and POPM (R11). -/
def parseMulti (first : BitVec 6) (last : BitVec 6) (rsv : BitVec 13) (dir : BitVec 1) : Except DecodeError Instr :=
  okIf (rsv == 0#13) (if dir == 0#1 then .pushm first last else .popm first last)

/-- TDLD and TDST (R11). -/
def parseTd (td : BitVec 5) (rsv : BitVec 1) (base : BitVec 6) (fn : BitVec 2) (cls : BitVec 4) (off : BitVec 8) : Except DecodeError Instr :=
  match fn.toNat with
  | 0 => okIf (rsv == 0#1) (.tdld td base cls off)
  | 1 => okIf (rsv == 0#1) (.tdst td base cls off)
  | _ => .error .unassignedFunction

/-- Atomic words (R13, R16): size in bit 2 of the major, acquire-release scope in its low bits. -/
def parseAtomic (wide : Bool) (r : BitVec 2) (d base b : BitVec 6) (cls : BitVec 4) (fn : Nat) : Except DecodeError Instr :=
  match wide, fn with
  | false, 0x0 => .ok (.amoswapW r d base b cls)
  | true, 0x0 => .ok (.amoswapD r d base b cls)
  | false, 0x1 => .ok (.amoaddW r d base b cls)
  | true, 0x1 => .ok (.amoaddD r d base b cls)
  | false, 0x2 => .ok (.amoandW r d base b cls)
  | true, 0x2 => .ok (.amoandD r d base b cls)
  | false, 0x3 => .ok (.amoorW r d base b cls)
  | true, 0x3 => .ok (.amoorD r d base b cls)
  | false, 0x4 => .ok (.amoxorW r d base b cls)
  | true, 0x4 => .ok (.amoxorD r d base b cls)
  | false, 0x5 => .ok (.amominW r d base b cls)
  | true, 0x5 => .ok (.amominD r d base b cls)
  | false, 0x6 => .ok (.amomaxW r d base b cls)
  | true, 0x6 => .ok (.amomaxD r d base b cls)
  | false, 0x7 => .ok (.amominuW r d base b cls)
  | true, 0x7 => .ok (.amominuD r d base b cls)
  | false, 0x8 => .ok (.amomaxuW r d base b cls)
  | true, 0x8 => .ok (.amomaxuD r d base b cls)
  | false, 0x9 => .ok (.casW r d base b cls)
  | true, 0x9 => .ok (.casD r d base b cls)
  | true, 0xa => okIf (onlyBits d 1 5 && onlyBits b 1 5) (.cas2 r (subFld d 1 5) base (subFld b 1 5) cls)
  | false, 0xb => .ok (.amofadd r d base b cls)
  | _, 0xA => .error .atomicSize
  | _, 0xB => .error .atomicSize
  | _, _ => .error .unassignedFunction

/-- Sync words: the function codes of major 0x30 (Table 6). -/
def parseSync (d : BitVec 6) (a : BitVec 6) (b : BitVec 6) (m : BitVec 2) : Nat → Except DecodeError Instr
  | 0x00 => okIf (d == 0#6 && m == 0#2) (.ctrinit a b)
  | 0x01 => okIf (m == 0#2) (.ctrsig d a b)
  | 0x02 => okIf (b == 0#6 && m == 0#2) (.ctrrd d a)
  | 0x03 => okIf (d == 0#6 && b == 0#6 && m == 0#2) (.ctrwait a)
  | 0x04 => okIf (d == 0#6 && m == 0#2) (.barinit a b)
  | 0x05 => okIf (b == 0#6 && onlyBits m 0 1) (.bararv d a (subFld m 0 1))
  | 0x06 => okIf (d == 0#6 && m == 0#2) (.barwait a b)
  | 0x07 => .ok (.tlwait d a b m)
  | 0x08 => okIf (a == 0#6) (.tlrd d b m)
  | 0x09 => okIf (d == 0#6 && m == 0#2) (.arinit a b)
  | 0x0a => okIf (d == 0#6 && m == 0#2) (.arwait a b)
  | 0x0b => okIf (onlyBits b 1 5) (.spawn d a (subFld b 1 5) m)
  | 0x0c => okIf (onlyBits b 1 5) (.spawnd d a (subFld b 1 5) m)
  | 0x0d => okIf (d == 0#6 && a == 0#6 && b == 0#6 && m == 0#2) (.yield)
  | 0x0e => okIf (d == 0#6 && a == 0#6 && b == 0#6 && m == 0#2) (.stepend)
  | 0x0f => okIf (d == 0#6 && b == 0#6 && m == 0#2) (.chkopen a)
  | 0x10 => okIf (d == 0#6 && a == 0#6 && b == 0#6 && m == 0#2) (.chkclose)
  | _ => .error .unassignedFunction

/-- Cont words: the function codes of major 0x31 (Table 6). -/
def parseCont (d : BitVec 6) (a : BitVec 6) (b : BitVec 6) (m : BitVec 2) : Nat → Except DecodeError Instr
  | 0x00 => okIf (m == 0#2) (.suspend d a b)
  | 0x01 => okIf (d == 0#6 && onlyBits b 1 5 && onlyBits m 0 1) (.resume a (subFld b 1 5) (subFld m 0 1))
  | 0x02 => okIf (m == 0#2) (.ccopy d a b)
  | 0x03 => okIf (d == 0#6 && m == 0#2) (.cdiscard a b)
  | 0x04 => okIf (m == 0#2) (.cquery d a b)
  | 0x05 => okIf (d == 0#6 && onlyBits b 1 5 && m == 0#2) (.crights a (subFld b 1 5))
  | _ => .error .unassignedFunction

/-- Cpe words: the function codes of major 0x32 (Table 6). -/
def parseCpe (tdD : BitVec 5) (tdA : BitVec 5) (opB : BitVec 6) (m : BitVec 4) : Nat → Except DecodeError Instr
  | 0x00 => okIf (tdA == 0#5 && onlyBits m 3 1) (.cpin tdD opB (subFld m 3 1))
  | 0x01 => okIf (tdD == 0#5 && m == 0#4) (.cpout tdA opB)
  | 0x02 => okIf (tdA == 0#5 && onlyBits opB 1 5 && onlyBits m 3 1) (.cptin tdD (subFld opB 1 5) (subFld m 3 1))
  | 0x03 => okIf (tdD == 0#5 && onlyBits opB 1 5 && m == 0#4) (.cptout tdA (subFld opB 1 5))
  | 0x04 => okIf (opB == 0#6 && onlyBits m 3 1) (.cpll tdD tdA (subFld m 3 1))
  | 0x05 => okIf (onlyBits tdA 0 3 && onlyBits opB 1 5) (.gather tdD (subFld tdA 0 3) (subFld opB 1 5) (subFld m 3 1) (subFld m 0 3))
  | 0x06 => okIf (onlyBits tdD 0 3 && onlyBits opB 1 5 && onlyBits m 0 3) (.scatter (subFld tdD 0 3) tdA (subFld opB 1 5) (subFld m 0 3))
  | 0x07 => okIf (onlyBits tdD 0 3 && tdA == 0#5 && onlyBits opB 1 5 && m == 0#4) (.idxld (subFld tdD 0 3) (subFld opB 1 5))
  | 0x08 => okIf (tdA == 0#5 && m == 0#4) (.fill tdD opB)
  | 0x09 => okIf (tdD == 0#5 && tdA == 0#5 && onlyBits opB 2 4 && m == 0#4) (.promote (subFld opB 2 4))
  | 0x0a => okIf (tdA == 0#5 && onlyBits opB 1 5 && onlyBits m 0 2) (.subscr tdD (subFld opB 1 5) (subFld m 0 2))
  | 0x0b => okIf (tdD == 0#5 && tdA == 0#5 && onlyBits m 0 2) (.slotret opB (subFld m 0 2))
  | _ => .error .unassignedFunction

/-- Mat words: the function codes of major 0x33 (Table 6). -/
def parseMat (tdD : BitVec 5) (tdA : BitVec 5) (tdB : BitVec 5) (gS : BitVec 6) (f : BitVec 1) : Nat → Except DecodeError Instr
  | 0x00 => .ok (.mma tdD tdA tdB gS f)
  | 0x01 => if f == 0#1 then .ok (.mmapLead tdD tdA tdB gS) else okIf (tdA == 0#5) (.mmapFol tdD tdB gS)
  | 0x02 => okIf (tdB == 0#5 && gS == 0#6 && f == 0#1) (.wbld tdD tdA)
  | 0x03 => okIf (tdD == 0#5 && tdB == 0#5 && gS == 0#6 && f == 0#1) (.cbld tdA)
  | 0x04 => .ok (.mvm tdD tdA tdB gS f)
  | 0x05 => okIf (tdA == 0#5 && tdB == 0#5 && gS == 0#6 && f == 0#1) (.mzero tdD)
  | _ => .error .unassignedFunction

/-- Vec0 words: the function codes of major 0x34 (Table 6). -/
def parseVec0 (tdD : BitVec 5) (tdA : BitVec 5) (opB : BitVec 6) (m : BitVec 4) : Nat → Except DecodeError Instr
  | 0x00 => okIf (onlyBits m 0 2) (.vadd tdD tdA opB (subFld m 0 2))
  | 0x01 => okIf (onlyBits m 0 2) (.vsub tdD tdA opB (subFld m 0 2))
  | 0x02 => okIf (onlyBits m 0 2) (.vmul tdD tdA opB (subFld m 0 2))
  | 0x03 => okIf (onlyBits m 0 2) (.vfma tdD tdA opB (subFld m 0 2))
  | 0x04 => okIf (onlyBits m 0 2) (.vmin tdD tdA opB (subFld m 0 2))
  | 0x05 => okIf (onlyBits m 0 2) (.vmax tdD tdA opB (subFld m 0 2))
  | 0x06 => okIf (opB == 0#6 && m == 0#4) (.vabs tdD tdA)
  | 0x07 => okIf (opB == 0#6 && m == 0#4) (.vneg tdD tdA)
  | 0x08 => okIf (m == 0#4) (.vscl tdD tdA opB)
  | 0x09 => okIf (onlyBits m 0 2) (.vadds tdD tdA opB (subFld m 0 2))
  | 0x0a => okIf (onlyBits m 0 2) (.vand tdD tdA opB (subFld m 0 2))
  | 0x0b => okIf (onlyBits m 0 2) (.vor tdD tdA opB (subFld m 0 2))
  | 0x0c => okIf (onlyBits m 0 2) (.vxor tdD tdA opB (subFld m 0 2))
  | 0x0d => okIf (onlyBits m 0 2) (.vshl tdD tdA opB (subFld m 0 2))
  | 0x0e => okIf (onlyBits m 0 2) (.vshr tdD tdA opB (subFld m 0 2))
  | 0x0f => okIf (onlyBits m 0 2) (.vcmpeq tdD tdA opB (subFld m 0 2))
  | 0x10 => okIf (onlyBits m 0 2) (.vcmplt tdD tdA opB (subFld m 0 2))
  | 0x11 => okIf (onlyBits m 0 2) (.vcmple tdD tdA opB (subFld m 0 2))
  | 0x12 => okIf (onlyBits m 0 2) (.vsel tdD tdA opB (subFld m 0 2))
  | 0x13 => okIf (opB == 0#6 && m == 0#4) (.vmov tdD tdA)
  | 0x14 => if m == 3#4 then okIf (tdA == 0#5) (.vbcastScalar tdD opB) else okIf (opB == 0#6 && onlyBits m 0 2) (.vbcast tdD tdA (subFld m 0 2))
  | 0x15 => okIf (opB == 0#6 && m == 0#4) (.vtrans tdD tdA)
  | _ => .error .unassignedFunction

/-- Vec1 words: the function codes of major 0x35 (Table 6). -/
def parseVec1 (tdD : BitVec 5) (tdA : BitVec 5) (opB : BitVec 6) (m : BitVec 4) : Nat → Except DecodeError Instr
  | 0x00 => okIf (opB == 0#6 && m == 0#4) (.vexp tdD tdA)
  | 0x01 => okIf (opB == 0#6 && m == 0#4) (.vexp2 tdD tdA)
  | 0x02 => okIf (opB == 0#6 && m == 0#4) (.vlog2 tdD tdA)
  | 0x03 => okIf (opB == 0#6 && m == 0#4) (.vrcp tdD tdA)
  | 0x04 => okIf (opB == 0#6 && m == 0#4) (.vrsqrt tdD tdA)
  | 0x05 => okIf (opB == 0#6 && m == 0#4) (.vsqrt tdD tdA)
  | 0x06 => okIf (opB == 0#6 && m == 0#4) (.vtanh tdD tdA)
  | 0x07 => okIf (opB == 0#6 && m == 0#4) (.vsigm tdD tdA)
  | 0x08 => okIf (opB == 0#6 && m == 0#4) (.vsilu tdD tdA)
  | 0x09 => okIf (opB == 0#6 && m == 0#4) (.vgelu tdD tdA)
  | 0x0a => okIf (opB == 0#6 && onlyBits m 0 1) (.vcvt tdD tdA (subFld m 0 1))
  | 0x0b => okIf (opB == 0#6 && m == 0#4) (.vquant tdD tdA)
  | 0x0c => okIf (opB == 0#6 && m == 0#4) (.vdquant tdD tdA)
  | 0x0d => okIf (opB == 0#6 && onlyBits m 0 1) (.vrsum tdD tdA (subFld m 0 1))
  | 0x0e => okIf (opB == 0#6 && m == 0#4) (.vrmax tdD tdA)
  | 0x0f => okIf (opB == 0#6 && m == 0#4) (.vrmin tdD tdA)
  | 0x10 => okIf (m == 0#4) (.vsmaxo tdD tdA opB)
  | 0x11 => okIf (m == 0#4) (.vsmaxf tdD tdA opB)
  | 0x12 => okIf (onlyBits opB 1 5 && onlyBits m 0 1) (.vrot tdD tdA (subFld opB 1 5) (subFld m 0 1))
  | 0x13 => okIf (tdA == 0#5 && onlyBits opB 1 5 && m == 0#4) (.vrng tdD (subFld opB 1 5))
  | 0x14 => okIf (onlyBits opB 1 5 && m == 0#4) (.vsample tdD tdA (subFld opB 1 5))
  | 0x15 => okIf (opB == 0#6 && m == 0#4) (.vargmax tdD tdA)
  | _ => .error .unassignedFunction

/-- Strm words: the function codes of major 0x36 (Table 6). -/
def parseStrm (d : BitVec 6) (a : BitVec 6) (b : BitVec 6) (m : BitVec 2) : Nat → Except DecodeError Instr
  | 0x00 => if m == 0#2 then .ok (.curadvG d a b) else okIf (m == 1#2) (.curadvP d a b)
  | 0x01 => okIf (m == 0#2) (.fracc d a b)
  | 0x02 => okIf (m == 0#2) (.strunc d a b)
  | 0x03 => okIf (onlyBits b 1 5 && m == 0#2) (.scommit d a (subFld b 1 5))
  | 0x04 => okIf (m == 0#2) (.ssnap d a b)
  | 0x05 => okIf (m == 0#2) (.kvalloc d a b)
  | 0x06 => okIf (m == 0#2) (.kvfree d a b)
  | 0x07 => okIf (m == 0#2) (.kvborrow d a b)
  | 0x08 => okIf (m == 0#2) (.slsend d a b)
  | 0x09 => okIf (m == 0#2) (.slcancel d a b)
  | _ => .error .unassignedFunction

/-- Sys words: the function codes of major 0x37 (Table 6). -/
def parseSys (d a b : BitVec 6) (m : BitVec 2) (n12 : BitVec 12) : Nat → Except DecodeError Instr
  | 0x00 => okIf (d == 0#6 && a == 0#6 && b == 0#6 && m == 0#2) (.nop)
  | 0x01 => okIf (d == 0#6 && m == 0#2) (trapWord n12)
  | 0x02 => okIf (d == 0#6 && a == 0#6 && b == 0#6 && m == 0#2) (.tret)
  | 0x03 => okIf (m == 0#2) (.crr d n12)
  | 0x04 => okIf (m == 0#2) (.crw d n12)
  | 0x05 => okIf (m == 0#2) (.crx d n12)
  | 0x06 => okIf (d == 0#6 && a == 0#6 && b == 0#6 && m == 0#2) (.brk)
  | 0x07 => okIf (d == 0#6 && m == 0#2) (.dictld a b)
  | 0x08 => okIf (d == 0#6 && a == 0#6 && b == 0#6 && m == 0#2) (.ifence)
  | _ => .error .unassignedFunction

/-- The instruction a word's fields name, before the conditions of Table 7 on operand values. -/
def parse (w : W32) : Except DecodeError Instr :=
  if (fld w 26 6).toNat / 8 = 5 then
    parseAtomic ((fld w 26 6).toNat / 4 % 2 == 1) (subFld (fld w 26 6) 0 2) (fld w 20 6) (fld w 14 6) (fld w 8 6) (fld w 0 4) (fld w 4 4).toNat
  else
  match (fld w 26 6).toNat with
  | 0x01 => parseAlu (fld w 20 6) (fld w 14 6) (fld w 8 6) (fld w 0 8).toNat
  | 0x02 => parseMulDiv (fld w 20 6) (fld w 14 6) (fld w 8 6) (fld w 0 8).toNat
  | 0x03 => .ok (.addi (fld w 20 6) (fld w 14 6) (fld w 0 14))
  | 0x04 => .ok (.andi (fld w 20 6) (fld w 14 6) (fld w 0 14))
  | 0x05 => .ok (.ori (fld w 20 6) (fld w 14 6) (fld w 0 14))
  | 0x06 => .ok (.xori (fld w 20 6) (fld w 14 6) (fld w 0 14))
  | 0x07 => .ok (.slti (fld w 20 6) (fld w 14 6) (fld w 0 14))
  | 0x08 => .ok (.sltiu (fld w 20 6) (fld w 14 6) (fld w 0 14))
  | 0x09 => parseShi (fld w 20 6) (fld w 14 6) (fld w 0 14)
  | 0x0a => .ok (.lui (fld w 20 6) (fld w 0 20))
  | 0x0b => okIf (onlyBits (fld w 0 20) 0 16) (.lim (fld w 20 6) (subFld (fld w 0 20) 0 16))
  | 0x0d => okIf (onlyBits (fld w 0 20) 0 16) (.lih (fld w 20 6) (subFld (fld w 0 20) 0 16))
  | 0x0e => .ok (.addpc (fld w 20 6) (fld w 0 20))
  | 0x0c => parseTag (fld w 20 6) (fld w 14 6) (fld w 8 6) (fld w 0 8).toNat
  | 0x10 => .ok (.beq (fld w 20 6) (fld w 14 6) (fld w 0 14))
  | 0x11 => .ok (.bne (fld w 20 6) (fld w 14 6) (fld w 0 14))
  | 0x12 => .ok (.blt (fld w 20 6) (fld w 14 6) (fld w 0 14))
  | 0x13 => .ok (.bge (fld w 20 6) (fld w 14 6) (fld w 0 14))
  | 0x14 => .ok (.bltu (fld w 20 6) (fld w 14 6) (fld w 0 14))
  | 0x15 => .ok (.bgeu (fld w 20 6) (fld w 14 6) (fld w 0 14))
  | 0x16 => .ok (.jal (fld w 20 6) (fld w 0 20))
  | 0x17 => .ok (.jalr (fld w 20 6) (fld w 14 6) (fld w 0 14))
  | 0x18 => okIf ((fld w 14 4) == 0#4) (.hwLoop (fld w 20 6) (fld w 18 2) (fld w 0 14))
  | 0x1a => .ok (.ldb (fld w 20 6) (fld w 14 6) (fld w 10 4) (fld w 8 2) (fld w 6 2) (fld w 0 6))
  | 0x1b => .ok (.ldh (fld w 20 6) (fld w 14 6) (fld w 10 4) (fld w 8 2) (fld w 6 2) (fld w 0 6))
  | 0x1c => .ok (.ldw (fld w 20 6) (fld w 14 6) (fld w 10 4) (fld w 8 2) (fld w 6 2) (fld w 0 6))
  | 0x1d => .ok (.ldd (fld w 20 6) (fld w 14 6) (fld w 10 4) (fld w 8 2) (fld w 6 2) (fld w 0 6))
  | 0x1e => .ok (.ldsb (fld w 20 6) (fld w 14 6) (fld w 10 4) (fld w 8 2) (fld w 6 2) (fld w 0 6))
  | 0x1f => .ok (.ldsh (fld w 20 6) (fld w 14 6) (fld w 10 4) (fld w 8 2) (fld w 6 2) (fld w 0 6))
  | 0x20 => .ok (.ldsw (fld w 20 6) (fld w 14 6) (fld w 10 4) (fld w 8 2) (fld w 6 2) (fld w 0 6))
  | 0x21 => .ok (.stb (fld w 20 6) (fld w 14 6) (fld w 10 4) (fld w 8 2) (fld w 6 2) (fld w 0 6))
  | 0x22 => .ok (.sth (fld w 20 6) (fld w 14 6) (fld w 10 4) (fld w 8 2) (fld w 6 2) (fld w 0 6))
  | 0x23 => .ok (.stw (fld w 20 6) (fld w 14 6) (fld w 10 4) (fld w 8 2) (fld w 6 2) (fld w 0 6))
  | 0x24 => .ok (.std (fld w 20 6) (fld w 14 6) (fld w 10 4) (fld w 8 2) (fld w 6 2) (fld w 0 6))
  | 0x25 => parseMulti (fld w 20 6) (fld w 14 6) (fld w 1 13) (fld w 0 1)
  | 0x26 => okIf ((fld w 16 5) == 0#5) (.fence (fld w 24 2) (fld w 21 3) (fld w 0 16))
  | 0x27 => parseTd (fld w 21 5) (fld w 20 1) (fld w 14 6) (fld w 12 2) (fld w 8 4) (fld w 0 8)
  | 0x30 => parseSync (fld w 14 6) (fld w 8 6) (fld w 2 6) (fld w 0 2) (fld w 20 6).toNat
  | 0x31 => parseCont (fld w 14 6) (fld w 8 6) (fld w 2 6) (fld w 0 2) (fld w 20 6).toNat
  | 0x32 => parseCpe (fld w 15 5) (fld w 10 5) (fld w 4 6) (fld w 0 4) (fld w 20 6).toNat
  | 0x33 => parseMat (fld w 17 5) (fld w 12 5) (fld w 7 5) (fld w 1 6) (fld w 0 1) (fld w 22 4).toNat
  | 0x34 => parseVec0 (fld w 15 5) (fld w 10 5) (fld w 4 6) (fld w 0 4) (fld w 20 6).toNat
  | 0x35 => parseVec1 (fld w 15 5) (fld w 10 5) (fld w 4 6) (fld w 0 4) (fld w 20 6).toNat
  | 0x36 => parseStrm (fld w 14 6) (fld w 8 6) (fld w 2 6) (fld w 0 2) (fld w 20 6).toNat
  | 0x37 => parseSys (fld w 14 6) (fld w 8 6) (fld w 2 6) (fld w 0 2) (fld w 2 12) (fld w 20 6).toNat
  | 0x3f => okIf ((fld w 10 6) == 63#6) (.dictionaryPair (fld w 16 10) (fld w 0 10))
  | _ => .error .unassignedMajor

/-- Decode one word (R10–R17, R20): total, every other word refused by name. -/
def decode (w : W32) : Except DecodeError Instr :=
  match parse w with
  | .error e => .error e
  | .ok i =>
    match i.illegality with
    | some r => .error (.illegal r)
    | none => .ok i

/-- The word of format R (R11, Table 4). -/
def packR (op : BitVec 6) (d : BitVec 6) (a : BitVec 6) (b : BitVec 6) (fn : BitVec 8) : W32 :=
  BitVec.ofNat 32 (op.toNat * 67108864 + d.toNat * 1048576 + a.toNat * 16384 + b.toNat * 256 + fn.toNat)

/-- The word of format I (R11, Table 4). -/
def packI (op : BitVec 6) (d : BitVec 6) (a : BitVec 6) (imm : BitVec 14) : W32 :=
  BitVec.ofNat 32 (op.toNat * 67108864 + d.toNat * 1048576 + a.toNat * 16384 + imm.toNat)

/-- The word of format U (R11, Table 4). -/
def packU (op : BitVec 6) (d : BitVec 6) (imm : BitVec 20) : W32 :=
  BitVec.ofNat 32 (op.toNat * 67108864 + d.toNat * 1048576 + imm.toNat)

/-- The word of format B (R11, Table 4). -/
def packB (op : BitVec 6) (a : BitVec 6) (b : BitVec 6) (off : BitVec 14) : W32 :=
  BitVec.ofNat 32 (op.toNat * 67108864 + a.toNat * 1048576 + b.toNat * 16384 + off.toNat)

/-- The word of format J (R11, Table 4). -/
def packJ (op : BitVec 6) (d : BitVec 6) (off : BitVec 20) : W32 :=
  BitVec.ofNat 32 (op.toNat * 67108864 + d.toNat * 1048576 + off.toNat)

/-- The word of format L (R11, Table 4). -/
def packL (op : BitVec 6) (a : BitVec 6) (lvl : BitVec 2) (rsv : BitVec 4) (off : BitVec 14) : W32 :=
  BitVec.ofNat 32 (op.toNat * 67108864 + a.toNat * 1048576 + lvl.toNat * 262144 + rsv.toNat * 16384 + off.toNat)

/-- The word of format M (R11, Table 4). -/
def packM (op : BitVec 6) (d : BitVec 6) (base : BitVec 6) (cls : BitVec 4) (pol : BitVec 2) (ar : BitVec 2) (off : BitVec 6) : W32 :=
  BitVec.ofNat 32 (op.toNat * 67108864 + d.toNat * 1048576 + base.toNat * 16384 + cls.toNat * 1024 + pol.toNat * 256 + ar.toNat * 64 + off.toNat)

/-- The word of format P (R11, Table 4). -/
def packP (op : BitVec 6) (first : BitVec 6) (last : BitVec 6) (rsv : BitVec 13) (dir : BitVec 1) : W32 :=
  BitVec.ofNat 32 (op.toNat * 67108864 + first.toNat * 1048576 + last.toNat * 16384 + rsv.toNat * 2 + dir.toNat)

/-- The word of format F (R11, Table 4). -/
def packF (op : BitVec 6) (kind : BitVec 2) (scope : BitVec 3) (rsv : BitVec 5) (mask : BitVec 16) : W32 :=
  BitVec.ofNat 32 (op.toNat * 67108864 + kind.toNat * 16777216 + scope.toNat * 2097152 + rsv.toNat * 65536 + mask.toNat)

/-- The word of format T (R11, Table 4). -/
def packT (op : BitVec 6) (td : BitVec 5) (rsv : BitVec 1) (base : BitVec 6) (fn : BitVec 2) (cls : BitVec 4) (off : BitVec 8) : W32 :=
  BitVec.ofNat 32 (op.toNat * 67108864 + td.toNat * 2097152 + rsv.toNat * 1048576 + base.toNat * 16384 + fn.toNat * 4096 + cls.toNat * 256 + off.toNat)

/-- The word of format A (R11, Table 4). -/
def packA (op : BitVec 6) (d : BitVec 6) (base : BitVec 6) (b : BitVec 6) (fn : BitVec 4) (cls : BitVec 4) : W32 :=
  BitVec.ofNat 32 (op.toNat * 67108864 + d.toNat * 1048576 + base.toNat * 16384 + b.toNat * 256 + fn.toNat * 16 + cls.toNat)

/-- The word of format S (R11, Table 4). -/
def packS (op : BitVec 6) (fn : BitVec 6) (d : BitVec 6) (a : BitVec 6) (b : BitVec 6) (m : BitVec 2) : W32 :=
  BitVec.ofNat 32 (op.toNat * 67108864 + fn.toNat * 1048576 + d.toNat * 16384 + a.toNat * 256 + b.toNat * 4 + m.toNat)

/-- The word of format SC (R11, Table 4). -/
def packSC (op : BitVec 6) (fn : BitVec 6) (d : BitVec 6) (n12 : BitVec 12) (m : BitVec 2) : W32 :=
  BitVec.ofNat 32 (op.toNat * 67108864 + fn.toNat * 1048576 + d.toNat * 16384 + n12.toNat * 4 + m.toNat)

/-- The word of format E (R11, Table 4). -/
def packE (op : BitVec 6) (fn : BitVec 6) (tdD : BitVec 5) (tdA : BitVec 5) (opB : BitVec 6) (m : BitVec 4) : W32 :=
  BitVec.ofNat 32 (op.toNat * 67108864 + fn.toNat * 1048576 + tdD.toNat * 32768 + tdA.toNat * 1024 + opB.toNat * 16 + m.toNat)

/-- The word of format EM (R11, Table 4). -/
def packEM (op : BitVec 6) (fn : BitVec 4) (tdD : BitVec 5) (tdA : BitVec 5) (tdB : BitVec 5) (gS : BitVec 6) (f : BitVec 1) : W32 :=
  BitVec.ofNat 32 (op.toNat * 67108864 + fn.toNat * 4194304 + tdD.toNat * 131072 + tdA.toNat * 4096 + tdB.toNat * 128 + gS.toNat * 2 + f.toNat)

/-- The word of format DP (R11, Table 4). -/
def packDP (op : BitVec 6) (idx2 : BitVec 10) (mark : BitVec 6) (idx1 : BitVec 10) : W32 :=
  BitVec.ofNat 32 (op.toNat * 67108864 + idx2.toNat * 65536 + mark.toNat * 1024 + idx1.toNat)

/-- The word of an instruction (R11–R16); an operation or event without encoding has none. -/
def encode : Instr → Option W32
  | .add d a b => some (packR 0x1#6 d a b 0x0#8)
  | .sub d a b => some (packR 0x1#6 d a b 0x1#8)
  | .andR d a b => some (packR 0x1#6 d a b 0x2#8)
  | .orR d a b => some (packR 0x1#6 d a b 0x3#8)
  | .xorR d a b => some (packR 0x1#6 d a b 0x4#8)
  | .andn d a b => some (packR 0x1#6 d a b 0x5#8)
  | .sll d a b => some (packR 0x1#6 d a b 0x6#8)
  | .srl d a b => some (packR 0x1#6 d a b 0x7#8)
  | .sra d a b => some (packR 0x1#6 d a b 0x8#8)
  | .ror d a b => some (packR 0x1#6 d a b 0x9#8)
  | .slt d a b => some (packR 0x1#6 d a b 0xa#8)
  | .sltu d a b => some (packR 0x1#6 d a b 0xb#8)
  | .minS d a b => some (packR 0x1#6 d a b 0xc#8)
  | .maxS d a b => some (packR 0x1#6 d a b 0xd#8)
  | .minu d a b => some (packR 0x1#6 d a b 0xe#8)
  | .maxu d a b => some (packR 0x1#6 d a b 0xf#8)
  | .addw d a b => some (packR 0x1#6 d a b 0x10#8)
  | .subw d a b => some (packR 0x1#6 d a b 0x11#8)
  | .sllw d a b => some (packR 0x1#6 d a b 0x12#8)
  | .srlw d a b => some (packR 0x1#6 d a b 0x13#8)
  | .sraw d a b => some (packR 0x1#6 d a b 0x14#8)
  | .clz d a => some (packR 0x1#6 d a 0x0#6 0x15#8)
  | .ctz d a => some (packR 0x1#6 d a 0x0#6 0x16#8)
  | .popc d a => some (packR 0x1#6 d a 0x0#6 0x17#8)
  | .sextb d a => some (packR 0x1#6 d a 0x0#6 0x18#8)
  | .sexth d a => some (packR 0x1#6 d a 0x0#6 0x19#8)
  | .sextw d a => some (packR 0x1#6 d a 0x0#6 0x1a#8)
  | .zextw d a => some (packR 0x1#6 d a 0x0#6 0x1b#8)
  | .mul d a b => some (packR 0x2#6 d a b 0x0#8)
  | .mulh d a b => some (packR 0x2#6 d a b 0x1#8)
  | .mulhu d a b => some (packR 0x2#6 d a b 0x2#8)
  | .mulw d a b => some (packR 0x2#6 d a b 0x3#8)
  | .div d a b => some (packR 0x2#6 d a b 0x4#8)
  | .divu d a b => some (packR 0x2#6 d a b 0x5#8)
  | .rem d a b => some (packR 0x2#6 d a b 0x6#8)
  | .remu d a b => some (packR 0x2#6 d a b 0x7#8)
  | .divw d a b => some (packR 0x2#6 d a b 0x8#8)
  | .divuw d a b => some (packR 0x2#6 d a b 0x9#8)
  | .remw d a b => some (packR 0x2#6 d a b 0xa#8)
  | .remuw d a b => some (packR 0x2#6 d a b 0xb#8)
  | .addi d a i => some (packI 0x3#6 d a i)
  | .andi d a i => some (packI 0x4#6 d a i)
  | .ori d a i => some (packI 0x5#6 d a i)
  | .xori d a i => some (packI 0x6#6 d a i)
  | .slti d a i => some (packI 0x7#6 d a i)
  | .sltiu d a i => some (packI 0x8#6 d a i)
  | .slli d a s => some (packI 0x9#6 d a (shiImm 0 s))
  | .srli d a s => some (packI 0x9#6 d a (shiImm 1 s))
  | .srai d a s => some (packI 0x9#6 d a (shiImm 2 s))
  | .rori d a s => some (packI 0x9#6 d a (shiImm 3 s))
  | .lui d i => some (packU 0xa#6 d i)
  | .lim d i => some (packU 0xb#6 d (part 20 0 i))
  | .lih d i => some (packU 0xd#6 d (part 20 0 i))
  | .addpc d i => some (packU 0xe#6 d i)
  | .ptag d a b => some (packR 0xc#6 d a b 0x0#8)
  | .prank d a b => some (packR 0xc#6 d a b 0x1#8)
  | .pspace d a => some (packR 0xc#6 d a 0x0#6 0x2#8)
  | .poff d a => some (packR 0xc#6 d a 0x0#6 0x3#8)
  | .padd d a b => some (packR 0xc#6 d a b 0x4#8)
  | .beq a b o => some (packB 0x10#6 a b o)
  | .bne a b o => some (packB 0x11#6 a b o)
  | .blt a b o => some (packB 0x12#6 a b o)
  | .bge a b o => some (packB 0x13#6 a b o)
  | .bltu a b o => some (packB 0x14#6 a b o)
  | .bgeu a b o => some (packB 0x15#6 a b o)
  | .jal d o => some (packJ 0x16#6 d o)
  | .jalr d a i => some (packI 0x17#6 d a i)
  | .hwLoop a l o => some (packL 0x18#6 a l 0#4 o)
  | .ldb d b c p r o => some (packM 0x1a#6 d b c p r o)
  | .ldh d b c p r o => some (packM 0x1b#6 d b c p r o)
  | .ldw d b c p r o => some (packM 0x1c#6 d b c p r o)
  | .ldd d b c p r o => some (packM 0x1d#6 d b c p r o)
  | .ldsb d b c p r o => some (packM 0x1e#6 d b c p r o)
  | .ldsh d b c p r o => some (packM 0x1f#6 d b c p r o)
  | .ldsw d b c p r o => some (packM 0x20#6 d b c p r o)
  | .stb d b c p r o => some (packM 0x21#6 d b c p r o)
  | .sth d b c p r o => some (packM 0x22#6 d b c p r o)
  | .stw d b c p r o => some (packM 0x23#6 d b c p r o)
  | .std d b c p r o => some (packM 0x24#6 d b c p r o)
  | .pushm f l => some (packP 0x25#6 f l 0x0#13 0#1)
  | .popm f l => some (packP 0x25#6 f l 0x0#13 1#1)
  | .fence k s m => some (packF 0x26#6 k s 0x0#5 m)
  | .tdld t b c o => some (packT 0x27#6 t 0#1 b 0#2 c o)
  | .tdst t b c o => some (packT 0x27#6 t 0#1 b 1#2 c o)
  | .amoswapW r d a b c => some (packA (atomOp 40 r) d a b 0#4 c)
  | .amoswapD r d a b c => some (packA (atomOp 44 r) d a b 0#4 c)
  | .amoaddW r d a b c => some (packA (atomOp 40 r) d a b 1#4 c)
  | .amoaddD r d a b c => some (packA (atomOp 44 r) d a b 1#4 c)
  | .amoandW r d a b c => some (packA (atomOp 40 r) d a b 2#4 c)
  | .amoandD r d a b c => some (packA (atomOp 44 r) d a b 2#4 c)
  | .amoorW r d a b c => some (packA (atomOp 40 r) d a b 3#4 c)
  | .amoorD r d a b c => some (packA (atomOp 44 r) d a b 3#4 c)
  | .amoxorW r d a b c => some (packA (atomOp 40 r) d a b 4#4 c)
  | .amoxorD r d a b c => some (packA (atomOp 44 r) d a b 4#4 c)
  | .amominW r d a b c => some (packA (atomOp 40 r) d a b 5#4 c)
  | .amominD r d a b c => some (packA (atomOp 44 r) d a b 5#4 c)
  | .amomaxW r d a b c => some (packA (atomOp 40 r) d a b 6#4 c)
  | .amomaxD r d a b c => some (packA (atomOp 44 r) d a b 6#4 c)
  | .amominuW r d a b c => some (packA (atomOp 40 r) d a b 7#4 c)
  | .amominuD r d a b c => some (packA (atomOp 44 r) d a b 7#4 c)
  | .amomaxuW r d a b c => some (packA (atomOp 40 r) d a b 8#4 c)
  | .amomaxuD r d a b c => some (packA (atomOp 44 r) d a b 8#4 c)
  | .casW r d a b c => some (packA (atomOp 40 r) d a b 9#4 c)
  | .casD r d a b c => some (packA (atomOp 44 r) d a b 9#4 c)
  | .cas2 r d a b c => some (packA (atomOp 44 r) (part 6 1 d) a (part 6 1 b) 10#4 c)
  | .amofadd r d a b c => some (packA (atomOp 40 r) d a b 11#4 c)
  | .ctrinit a b => some (packS 0x30#6 0x0#6 0x0#6 a b 0#2)
  | .ctrsig d a b => some (packS 0x30#6 0x1#6 d a b 0#2)
  | .ctrrd d a => some (packS 0x30#6 0x2#6 d a 0x0#6 0#2)
  | .ctrwait a => some (packS 0x30#6 0x3#6 0x0#6 a 0x0#6 0#2)
  | .barinit a b => some (packS 0x30#6 0x4#6 0x0#6 a b 0#2)
  | .bararv d a w => some (packS 0x30#6 0x5#6 d a 0x0#6 (part 2 0 w))
  | .barwait a b => some (packS 0x30#6 0x6#6 0x0#6 a b 0#2)
  | .tlwait s a b e => some (packS 0x30#6 0x7#6 s a b e)
  | .tlrd d b e => some (packS 0x30#6 0x8#6 d 0x0#6 b e)
  | .arinit a b => some (packS 0x30#6 0x9#6 0x0#6 a b 0#2)
  | .arwait a b => some (packS 0x30#6 0xa#6 0x0#6 a b 0#2)
  | .spawn d a b e => some (packS 0x30#6 0xb#6 d a (part 6 1 b) e)
  | .spawnd d a b e => some (packS 0x30#6 0xc#6 d a (part 6 1 b) e)
  | .yield => some (packS 0x30#6 0xd#6 0x0#6 0x0#6 0x0#6 0#2)
  | .stepend => some (packS 0x30#6 0xe#6 0x0#6 0x0#6 0x0#6 0#2)
  | .chkopen a => some (packS 0x30#6 0xf#6 0x0#6 a 0x0#6 0#2)
  | .chkclose => some (packS 0x30#6 0x10#6 0x0#6 0x0#6 0x0#6 0#2)
  | .suspend d a b => some (packS 0x31#6 0x0#6 d a b 0#2)
  | .resume a b n => some (packS 0x31#6 0x1#6 0x0#6 a (part 6 1 b) (part 2 0 n))
  | .ccopy d a b => some (packS 0x31#6 0x2#6 d a b 0#2)
  | .cdiscard a b => some (packS 0x31#6 0x3#6 0x0#6 a b 0#2)
  | .cquery d a b => some (packS 0x31#6 0x4#6 d a b 0#2)
  | .crights a b => some (packS 0x31#6 0x5#6 0x0#6 a (part 6 1 b) 0#2)
  | .cpin d b f => some (packE 0x32#6 0x0#6 d 0x0#5 b (part 4 3 f))
  | .cpout a b => some (packE 0x32#6 0x1#6 0x0#5 a b 0#4)
  | .cptin d b f => some (packE 0x32#6 0x2#6 d 0x0#5 (part 6 1 b) (part 4 3 f))
  | .cptout a b => some (packE 0x32#6 0x3#6 0x0#5 a (part 6 1 b) 0#4)
  | .cpll d a f => some (packE 0x32#6 0x4#6 d a 0x0#6 (part 4 3 f))
  | .gather d x b f k => some (packE 0x32#6 0x5#6 d (part 5 0 x) (part 6 1 b) (gatherM f k))
  | .scatter x a b k => some (packE 0x32#6 0x6#6 (part 5 0 x) a (part 6 1 b) (part 4 0 k))
  | .idxld x b => some (packE 0x32#6 0x7#6 (part 5 0 x) 0x0#5 (part 6 1 b) 0#4)
  | .fill d b => some (packE 0x32#6 0x8#6 d 0x0#5 b 0#4)
  | .promote b => some (packE 0x32#6 0x9#6 0x0#5 0x0#5 (part 6 2 b) 0#4)
  | .subscr d b s => some (packE 0x32#6 0xa#6 d 0x0#5 (part 6 1 b) (part 4 0 s))
  | .slotret b s => some (packE 0x32#6 0xb#6 0x0#5 0x0#5 b (part 4 0 s))
  | .mma d a b s w => some (packEM 0x33#6 0#4 d a b s w)
  | .mmapLead d a b s => some (packEM 0x33#6 1#4 d a b s 0#1)
  | .mmapFol d b s => some (packEM 0x33#6 1#4 d 0x0#5 b s 1#1)
  | .wbld d a => some (packEM 0x33#6 2#4 d a 0x0#5 0x0#6 0#1)
  | .cbld a => some (packEM 0x33#6 3#4 0x0#5 a 0x0#5 0x0#6 0#1)
  | .mvm d a b s w => some (packEM 0x33#6 4#4 d a b s w)
  | .mzero d => some (packEM 0x33#6 5#4 d 0x0#5 0x0#5 0x0#6 0#1)
  | .vadd d a b m => some (packE 0x34#6 0x0#6 d a b (part 4 0 m))
  | .vsub d a b m => some (packE 0x34#6 0x1#6 d a b (part 4 0 m))
  | .vmul d a b m => some (packE 0x34#6 0x2#6 d a b (part 4 0 m))
  | .vfma d a b m => some (packE 0x34#6 0x3#6 d a b (part 4 0 m))
  | .vmin d a b m => some (packE 0x34#6 0x4#6 d a b (part 4 0 m))
  | .vmax d a b m => some (packE 0x34#6 0x5#6 d a b (part 4 0 m))
  | .vabs d a => some (packE 0x34#6 0x6#6 d a 0x0#6 0#4)
  | .vneg d a => some (packE 0x34#6 0x7#6 d a 0x0#6 0#4)
  | .vscl d a b => some (packE 0x34#6 0x8#6 d a b 0#4)
  | .vadds d a b m => some (packE 0x34#6 0x9#6 d a b (part 4 0 m))
  | .vand d a b m => some (packE 0x34#6 0xa#6 d a b (part 4 0 m))
  | .vor d a b m => some (packE 0x34#6 0xb#6 d a b (part 4 0 m))
  | .vxor d a b m => some (packE 0x34#6 0xc#6 d a b (part 4 0 m))
  | .vshl d a b m => some (packE 0x34#6 0xd#6 d a b (part 4 0 m))
  | .vshr d a b m => some (packE 0x34#6 0xe#6 d a b (part 4 0 m))
  | .vcmpeq d a b m => some (packE 0x34#6 0xf#6 d a b (part 4 0 m))
  | .vcmplt d a b m => some (packE 0x34#6 0x10#6 d a b (part 4 0 m))
  | .vcmple d a b m => some (packE 0x34#6 0x11#6 d a b (part 4 0 m))
  | .vsel d a b m => some (packE 0x34#6 0x12#6 d a b (part 4 0 m))
  | .vmov d a => some (packE 0x34#6 0x13#6 d a 0x0#6 0#4)
  | .vbcast d a k => some (packE 0x34#6 0x14#6 d a 0x0#6 (part 4 0 k))
  | .vbcastScalar d b => some (packE 0x34#6 0x14#6 d 0x0#5 b 3#4)
  | .vtrans d a => some (packE 0x34#6 0x15#6 d a 0x0#6 0#4)
  | .vexp d a => some (packE 0x35#6 0x0#6 d a 0x0#6 0#4)
  | .vexp2 d a => some (packE 0x35#6 0x1#6 d a 0x0#6 0#4)
  | .vlog2 d a => some (packE 0x35#6 0x2#6 d a 0x0#6 0#4)
  | .vrcp d a => some (packE 0x35#6 0x3#6 d a 0x0#6 0#4)
  | .vrsqrt d a => some (packE 0x35#6 0x4#6 d a 0x0#6 0#4)
  | .vsqrt d a => some (packE 0x35#6 0x5#6 d a 0x0#6 0#4)
  | .vtanh d a => some (packE 0x35#6 0x6#6 d a 0x0#6 0#4)
  | .vsigm d a => some (packE 0x35#6 0x7#6 d a 0x0#6 0#4)
  | .vsilu d a => some (packE 0x35#6 0x8#6 d a 0x0#6 0#4)
  | .vgelu d a => some (packE 0x35#6 0x9#6 d a 0x0#6 0#4)
  | .vcvt d a o => some (packE 0x35#6 0xa#6 d a 0x0#6 (part 4 0 o))
  | .vquant d a => some (packE 0x35#6 0xb#6 d a 0x0#6 0#4)
  | .vdquant d a => some (packE 0x35#6 0xc#6 d a 0x0#6 0#4)
  | .vrsum d a c => some (packE 0x35#6 0xd#6 d a 0x0#6 (part 4 0 c))
  | .vrmax d a => some (packE 0x35#6 0xe#6 d a 0x0#6 0#4)
  | .vrmin d a => some (packE 0x35#6 0xf#6 d a 0x0#6 0#4)
  | .vsmaxo d a b => some (packE 0x35#6 0x10#6 d a b 0#4)
  | .vsmaxf d a b => some (packE 0x35#6 0x11#6 d a b 0#4)
  | .vrot d a b h => some (packE 0x35#6 0x12#6 d a (part 6 1 b) (part 4 0 h))
  | .vrng d b => some (packE 0x35#6 0x13#6 d 0x0#5 (part 6 1 b) 0#4)
  | .vsample d a b => some (packE 0x35#6 0x14#6 d a (part 6 1 b) 0#4)
  | .vargmax d a => some (packE 0x35#6 0x15#6 d a 0x0#6 0#4)
  | .curadvG d a b => some (packS 0x36#6 0x0#6 d a b 0#2)
  | .curadvP d a b => some (packS 0x36#6 0x0#6 d a b 1#2)
  | .fracc d a b => some (packS 0x36#6 0x1#6 d a b 0#2)
  | .strunc d a b => some (packS 0x36#6 0x2#6 d a b 0#2)
  | .scommit d a b => some (packS 0x36#6 0x3#6 d a (part 6 1 b) 0#2)
  | .ssnap d a b => some (packS 0x36#6 0x4#6 d a b 0#2)
  | .kvalloc d a b => some (packS 0x36#6 0x5#6 d a b 0#2)
  | .kvfree d a b => some (packS 0x36#6 0x6#6 d a b 0#2)
  | .kvborrow d a b => some (packS 0x36#6 0x7#6 d a b 0#2)
  | .slsend d a b => some (packS 0x36#6 0x8#6 d a b 0#2)
  | .slcancel d a b => some (packS 0x36#6 0x9#6 d a b 0#2)
  | .nop => some (packS 0x37#6 0x0#6 0x0#6 0x0#6 0x0#6 0#2)
  | .trapCode n => some (packSC 0x37#6 0x1#6 0x0#6 n 0#2)
  | .trapRestartStep => some (packSC 0x37#6 0x1#6 0x0#6 0xff0#12 0#2)
  | .trapRollBack => some (packSC 0x37#6 0x1#6 0x0#6 0xff1#12 0#2)
  | .trapKillContext => some (packSC 0x37#6 0x1#6 0x0#6 0xff2#12 0#2)
  | .trapEndUnit => some (packSC 0x37#6 0x1#6 0x0#6 0xff3#12 0#2)
  | .tret => some (packS 0x37#6 0x2#6 0x0#6 0x0#6 0x0#6 0#2)
  | .crr d n => some (packSC 0x37#6 0x3#6 d n 0#2)
  | .crw d n => some (packSC 0x37#6 0x4#6 d n 0#2)
  | .crx d n => some (packSC 0x37#6 0x5#6 d n 0#2)
  | .brk => some (packS 0x37#6 0x6#6 0x0#6 0x0#6 0x0#6 0#2)
  | .dictld a b => some (packS 0x37#6 0x7#6 0x0#6 a b 0#2)
  | .ifence => some (packS 0x37#6 0x8#6 0x0#6 0x0#6 0x0#6 0#2)
  | .dictionaryPair j i => some (packDP 0x3f#6 j 0x3f#6 i)
  | _ => none

/-- The word whose bytes stand at an address, little-endian (R8, R10). -/
def wordOfBytes (b0 b1 b2 b3 : Byte) : W32 :=
  BitVec.ofNat 32 (b0.toNat + b1.toNat * 256 + b2.toNat * 65536 + b3.toNat * 16777216)

/-- The instruction of an opcode-table word: bit 0 of w is bit 0 of the word. -/
def decodeTableWord (_nbits w : Nat) : Option Instr :=
  match decode (BitVec.ofNat 32 w) with
  | .ok i => some i
  | .error _ => none

end Sys2Proof
end

