-- ==== Sys2Proof/Machine/State.lean ====
section
/-!
DEFINITION. The state of one package as plain data. The unit in focus (a core or a memory-side task unit) is
`State.core`, its rank `State.cur`; every other unit stands in `State.others`. Each field names the rule that gives it.
-/
namespace Sys2Proof.Machine

/-- Stops with a fault. `halted`: a step of a part whose firmware signature check failed at boot (25 R406, stage 1);
raised by `step`; safe, since the spec gives such a part no further step. -/
inductive Fault where
  | halted
deriving DecidableEq, Repr

/-- Refusals. `notModelled`: an arm of `exec` that has no meaning; raised by `exec` alone; safe. -/
inductive Refusal where
  | notModelled (mnemonic : String)
deriving DecidableEq, Repr

/-! ## Front ends -/

/-- One hardware-loop level (02 R47). -/
structure LoopLevel where
  active : Bool := false
  start : Word := 0#64
  stop : Word := 0#64
  remaining : Word := 0#64
deriving DecidableEq, Repr, Inhabited

/-- The word in execution and where it stands (01 R10, R19): `index` is the dictionary index of a half. -/
structure WordHere where
  word : W32 := 0#32
  index : Option (BitVec 10) := none
  high : Bool := false
deriving DecidableEq, Repr, Inhabited

/-- Control registers of 22 Table 114 that have storage of their own. -/
structure Ctl where
  tlevel : BitVec 2 := 0#2
  tcause1 : Word := 0#64
  tcause2 : Word := 0#64
  tret1 : Word := 0#64
  tret2 : Word := 0#64
  tval1 : Word := 0#64
  tval2 : Word := 0#64
  tscr1 : Word := 0#64
  tscr2 : Word := 0#64
  tvec : Word := 0#64
  dzt : Bool := false
  spinl : Nat := 0
  lkeep : BitVec 32 := 0#32
  whw : Nat := 0
  prq : Bool := false
  pdl : Nat := 0
  stgno : Word := 0xFF#64
  stgnext : Word := 0#64
  stgprev : Word := 0#64
  cycle : Word := 0#64
  wpaddr : Vector Word 4 := Vector.replicate 4 0#64
  wpctl : Vector Word 4 := Vector.replicate 4 0#64
  evsel : Word := 0#64
  evcnt : Vector Word 8 := Vector.replicate 8 0#64
deriving DecidableEq, Repr, Inhabited

/-- An index register (07 R134). -/
structure IdxReg where
  ent : Vector W32 64 := Vector.replicate 64 0#32
  cnt : Nat := 0
  bnd : W32 := 0#32
deriving DecidableEq, Repr, Inhabited

/-- The attributes of a page an access carries to its home (04 R82, R83). -/
structure PageAttr where
  key : Nat := 0
  far : Bool := false
  logged : Bool := false
  sysAtomic : Bool := false
  compress : Bool := false
  pol : Nat := 0
deriving DecidableEq, Repr, Inhabited

/-- Where an access performs (05 Table 29). A P-die SHARED offset is the pool offset (04 R75). -/
inductive Loc where
  | global (pa : Nat) (attr : PageAttr)
  | shared (die off : Nat)
  | lcl (rank off : Nat)
  | stream (handle off : Nat)
deriving DecidableEq, Repr, Inhabited

/-- A store-buffer entry (02 R54). -/
structure StoreEntry where
  va : Word
  loc : Loc
  bytes : List Byte
  cls : Nat
  pol : Nat := 0                       -- the stronger of the word's policy and the page's (04 R83)
  seq : Nat
  performed : Bool := false
deriving DecidableEq, Repr, Inhabited

/-- A remote access of the front end that has left the package (21 R347, R348). -/
structure Pend where
  loc : Loc
  size : Nat
  sent : Nat
  part : Nat := 0                      -- which remote page of a stack load it is
  performed : Bool := false
  value : List Byte := []
  failed : Option Nat := none
deriving DecidableEq, Repr, Inhabited

/-- An L1 line (02 R52, 05 R93): the plaintext of 128 bytes of a PA read under a key. -/
structure L1Line where
  line : Nat
  key : Nat
  bytes : List Byte
deriving DecidableEq, Repr, Inhabited

/-- A fetch-buffer line (22 R354): 128 bytes at a virtual line number. -/
structure FetchLine where
  line : Nat
  bytes : List Byte
  key : Nat := 0                       -- the key slot it was read under (25 R403)
deriving DecidableEq, Repr, Inhabited

/-- A cached translation (04 R85): `bits` is the page's size as a power of two, `leafPa` where its leaf stands. -/
structure TEntry where
  ctx : Nat
  vpage : Nat
  bits : Nat
  frame : Nat
  leafPa : Nat
  r : Bool
  w : Bool
  x : Bool
  dirty : Bool
  attr : PageAttr
deriving DecidableEq, Repr, Inhabited

/-- How far an engine command has come. -/
inductive CmdState where
  | queued
  | running
  | held
  | done
deriving DecidableEq, Repr, Inhabited

/-- One engine command (02 R34, 05 R106, 10 Table 58): its word, the operands captured at issue, and its progress. -/
structure Cmd where
  word : W32
  attachedTo : Option Nat := none      -- of a matrix command attached by FO: the copy's number (07 R143)
  attached : W32 := 0#32               -- of a copy with FO: the attached word
  num : Nat                            -- timeline number (05 R106)
  seq : Nat                            -- program order over engines and accesses (07 R149)
  idx : Nat                            -- command index of a record (24 R376)
  pos : Word                           -- position of the word
  r0 : Word := 0#64
  r1 : Word := 0#64
  r2 : Word := 0#64
  d0 : BitVec 128 := 0#128
  d1 : BitVec 128 := 0#128
  d2 : BitVec 128 := 0#128
  st : CmdState := .queued
  beat : Nat := 0                      -- units of transfer moved, from the first one on
  early : List Nat := []               -- units moved ahead of one that has not (11 R223)
  atBank : Option Nat := none          -- the die whose SHARED bank holds an access of it (12 R231, 04 R75)
  landed : Bool := false               -- the last byte has landed (07 R143)
  aux : List Word := []                -- addresses of a gather, the promotion descriptor, the staged result count
  stage : List (Nat × Nat) := []       -- staged words, element order (08 R165) or loaded entries
  epoch : Option Nat := none           -- EPOCH read at the rendezvous (08 R165)
  since : Nat := 0                     -- clk at which it reached the rendezvous (08 R166)
  met : Bool := false                  -- the halves of its pair have met (08 R165)
  owns : Option Nat := none            -- page of the KV region that a promotion has withdrawn as its DST (19 R318, R322)
  granted : Option Nat := none         -- the clk of its slot of the ramp limiter (15 R270, 16 R280)
  eligible : Option Nat := none        -- clk since which it could start but for the limiter
deriving DecidableEq, Repr, Inhabited

/-- An engine's queue and timeline counter (05 R106). -/
structure Engine where
  queue : List Cmd := []
  issued : Nat := 0
deriving DecidableEq, Repr, Inhabited

/-- A pending engine fault (24 R376). -/
structure EngFault where
  eng : Nat                            -- ENG of Table 115
  cause : Nat
  replayable : Bool
  status : BitVec 32
  addr : Word
  cmd : Cmd
deriving DecidableEq, Repr, Inhabited

/-- An open subscription as the unit sees it (07 R145, R148). -/
structure SubRec where
  base : Word
  len : Nat
  ring : BitVec 128
  next : Nat
deriving DecidableEq, Repr, Inhabited

/-- A command that runs on after its unit has parked (10 R214): its remaining writes and the object whose OUTST counts it;
of a promotion, the block-table entry of its Headgate step and where its result goes. -/
structure Outgoing where
  ctx : Nat
  cmd : Cmd
  obj : Word
  writes : List (Loc × Word × List Byte)
  ent : Option Loc := none
  res : Option (Loc × Word) := none
  step : Option (Nat × Nat) := none    -- the sweep and step it writes for (14 R258)
  uid : Nat := 0
deriving DecidableEq, Repr, Inhabited

/-- How a spinning or long word of the front end waits. -/
inductive Stall where
  | none
  | spin (t : Nat)                     -- a wait word after t unsatisfied looks (10 R199)
  | resource                           -- a miss, a fence not yet complete, an access that is held
  | full                               -- a full engine queue or a full store buffer (22 R357)
  | pushing (k : Nat) (locs : List (Word × Nat × Loc)) -- a PUSHM that has made k of its stores, and where they lie (02 R54)
  | copying (version : Nat)            -- a CCOPY between its start and its end; the source's VERSION at the start (10 R216)
  | control (done : Bool)              -- a control-register write or a snapshot copy not yet in force (22 R352, 17 R295)
  | took (old : Word)                  -- it has taken effect: what the register read before (22 R359), or what the SSNAP gives
  | remote                             -- a remote access outstanding
deriving DecidableEq, Repr, Inhabited

/-- A BARARV .w whose arrival has performed and that still waits (10 R199): its position, its barrier, the phase. -/
structure Arrived where
  pc : Word
  var : Word
  phase : Nat
deriving DecidableEq, Repr, Inhabited

/-- What the running unit is (14 R255–R261, 10 R204–R211). -/
structure UnitInfo where
  running : Bool := false
  ctx : Nat := 0
  isStep : Bool := false
  sweep : Nat := 0                     -- admitted sweep's number
  sweepPtr : Word := 0#64
  stepNo : Nat := 0
  handedBy : Nat := 0                  -- die that handed the step out
  prio : Nat := 0
  sptop : Nat := 0
  started : Nat := 0                   -- start order (14 R264)
  origin : Option (Word × Nat) := none
  ckpt : Option Word := none
  group : Option Nat := none           -- group step it is a stage of
  packets : Nat := 0                   -- spawn packets not yet accepted (10 R194)
  arvDone : Option Arrived := none
  fence : Option (Nat × EngId × Nat) := none -- fence of the packet: parent's uid, engine, value (10 R204)
  subs : List (Nat × SubRec) := []
  uid : Nat := 0                       -- identity of the step's run or task, kept across its suspensions (log 29)
deriving DecidableEq, Repr, Inhabited

/-- The codebook (08 R156). -/
structure Codebook where
  valid : Bool := false
  ent : Vector W32 256 := Vector.replicate 256 0#32
deriving DecidableEq, Repr, Inhabited

/-- The resident dictionary (01 R19–R22). -/
structure Dict where
  ptr : Word := 0#64
  count : Nat := 0
  words : List W32 := []
deriving DecidableEq, Repr, Inhabited

/-- A waiter or ready-queue record of an object (10 R200, R211). -/
structure ObjRec where
  ctx : Nat
  ptr : Word
  version : Nat
  running : Bool                       -- state RUNNING (a RESUME's record) or PARKED
  cls : Nat
  prio : Nat
  hdie : Nat
  boundTo : Option Nat := none         -- the held core of a group stage (14 R260)
  value : Option Word := none          -- resume value of a RESUME
  waitval : Nat := 0
  rolled : Option Nat := none          -- resumed by a rollback: the triggering cause (24 R392)
deriving DecidableEq, Repr, Inhabited

/-- A load or atomic that has issued and has not yet returned (02 R34, R407): where it performs, and the front end as it
issued, to which a fault of it goes back. -/
structure Late where
  ir : WordHere
  pc : Word
  ssp : Word
  sel : Option WordHere
  regs : Vector Word 64
  tds : Vector (BitVec 128) 32
  loops : Vector (Vector LoopLevel 4) 3
  loc : Loc
  size : Nat
  more : List (Loc × Nat) := []        -- where the other pages of a POPM lie
  cls : Nat
  atomic : Bool
  acq : Bool
  seq : Nat
  pend : Option Pend := none
  dead : List (BitVec 6 × Nat) := []   -- destinations that a later word has written meanwhile, with the unit's count as it had
deriving DecidableEq, Repr, Inhabited

/-- A front end with its core's engines and memories' descriptors, or a memory-side task unit. -/
structure Core where
  regs : Vector Word 64 := Vector.replicate 64 0#64
  pc : Word := 0#64
  ssp : Word := 0#64
  ir : WordHere := {}
  sel : Option WordHere := none        -- dictionary half a pair word has selected (01 R19)
  loops : Vector (Vector LoopLevel 4) 3 := Vector.replicate 3 (Vector.replicate 4 {})
  ctl : Ctl := {}
  tds : Vector (BitVec 128) 32 := Vector.replicate 32 0#128
  xs : Vector IdxReg 8 := Vector.replicate 8 {}
  cpe : Engine := {}
  mat : Engine := {}
  vec : Engine := {}
  outgoing : List Outgoing := []
  codebook : Codebook := {}
  seq : Nat := 0                       -- accesses and commands issued, for program order
  cmds : Nat := 0                      -- engine commands issued by the unit
  stores : List StoreEntry := []
  pend : Option Pend := none
  loads : List Late := []              -- oldest first
  l1 : List L1Line := []
  fetchBuf : List FetchLine := []
  dict : Dict := {}
  tcache : List TEntry := []
  cpeTcache : List TEntry := []
  stall : Stall := .none
  unit : UnitInfo := {}
  lastCtx : Option Nat := none
  reached : Option Nat := none         -- the level the unit's last failed translation reached (04 R84)
  faults : List EngFault := []
  outOfService : Bool := false
  heldFor : Option Nat := none         -- group rectangle the core is held for (14 R260, R265)
  starting : Option ObjRec := none     -- an object the core has taken and not yet started (10 R215)
  badLocal : List Nat := []            -- unreadable 32-byte units of LOCAL memory: errors the environment has caused (08 R167, 09 R173)
  badWb : List Nat := []               -- the same of the weight buffer
deriving DecidableEq, Repr, Inhabited

/-! ## Synchronisation and scheduling -/

/-- A task packet (10 R204). -/
structure Packet where
  ctx : Nat
  entry : Word
  g1 : Word
  g2 : Word
  fence : Option (Nat × EngId × Nat) := none
  prio : Nat
  sptop : Nat
  lkeep : BitVec 32
deriving DecidableEq, Repr, Inhabited

/-- A pipeline group descriptor (14 Table 79); hops are signed. -/
structure GroupDesc where
  w : Nat
  h : Nat
  nstg : Nat
  oc : Nat
  ok : Nat
  rmask : Nat
  hops : List (Int × Int)
  reserved : Bool
deriving DecidableEq, Repr, Inhabited

/-- A saved pipeline group (14 R261): descriptor, origin, the stages' objects. -/
structure GroupImage where
  ctx : Nat
  desc : GroupDesc
  c0 : Nat
  k0 : Nat
  die : Nat
  w : Nat
  h : Nat
  stages : List (Nat × ObjRec × Bool)  -- stage, object, parked already
  prio : Nat
  sweep : Nat
  stepNo : Nat
  handedBy : Nat
  group : Nat
deriving DecidableEq, Repr, Inhabited

/-- What a queue of a die holds (14 R262). -/
inductive Work where
  | packet (p : Packet)
  | object (o : ObjRec)
  | image (g : GroupImage)
deriving DecidableEq, Repr, Inhabited

structure Item where
  work : Work
  prio : Nat
  ready : Nat
  asked : List Nat := []               -- the units that were asked together to make room for it (14 R264)
deriving DecidableEq, Repr, Inhabited

/-- What a candidate is (14 R262): work of a queue, or the next step of a sweep, with its ready time. -/
inductive CandKey where
  | work (w : Work) (ready : Nat)
  | sweep (id ready : Nat)
deriving DecidableEq, Repr, Inhabited

/-- A die's best candidate, and since when it has been that with no unit free to take it (14 R264, R265). -/
structure Claim where
  key : CandKey
  since : Nat
deriving DecidableEq, Repr, Inhabited

/-- A SYNC variable (10 R191–R197). -/
inductive SyncKind where
  | counter (val : Int)
  | barrier (target arrived phase : Nat)
deriving DecidableEq, Repr, Inhabited

structure SyncVar where
  ctx : Nat
  off : Nat
  kind : SyncKind
  waiters : List ObjRec := []
  spilled : Bool := false
deriving DecidableEq, Repr, Inhabited

/-- The fields of a sweep record (14 Table 77). -/
structure SweepRec where
  kernel : Word
  nloop : Nat
  prio : Nat
  queue : Nat
  mode : Nat
  rlimit : Nat
  bound : List Nat
  tile : List Nat
  order : List Nat
  dmask : Nat
  group : Word
  signal : List Word
  lkeep : Nat
  sptop : Nat
deriving DecidableEq, Repr, Inhabited

/-- A sweep on a die's walker (14 R254, R257, R258). -/
structure DieSweep where
  id : Nat
  next : Nat := 0                      -- index of the next own step not yet handed out
  ready : Nat := 0
  expanded : Bool := false
  done : List Nat := []                -- steps counted as ended
  again : List Nat := []               -- steps to run again, ahead of the rest
  restarts : List (Nat × Nat) := []
  reported : Bool := false
  asked : List Nat := []
deriving DecidableEq, Repr, Inhabited

/-- An admitted sweep at the Headgate (14 R251, R257). -/
structure Sweep where
  id : Nat
  ctx : Nat
  ptr : Word
  record : SweepRec
  dies : List Nat
  admitted : Bool := false
  reported : List Nat := []
  stop : Bool := false                 -- hands out nothing more (01 R21)
  queue : Nat
  via : Option Nat := none             -- the work queue of the packet that admitted it (25 R400)
  running : Nat := 0
deriving DecidableEq, Repr, Inhabited

/-- A group step in progress (14 R260). -/
structure Group where
  id : Nat
  ctx : Nat
  die : Nat
  c0 : Nat
  k0 : Nat
  w : Nat
  h : Nat
  desc : GroupDesc
  sweep : Nat
  stepNo : Nat
  handedBy : Nat
  stages : List Nat                    -- ranks by stage
  ended : List Nat := []
  prio : Nat := 0
  saving : Bool := false               -- a pre-emption saves its stages (14 R261)
deriving DecidableEq, Repr, Inhabited

/-- A spawn packet on its way (10 R194). -/
structure SpawnMsg where
  from_ : Nat
  die : Nat
  core : Option Nat                    -- the own queue of a core
  memSide : Bool
  away : Option Nat := none            -- the other package its target lies in (10 R204)
  pkt : Packet
deriving DecidableEq, Repr, Inhabited

/-- An operation waiting at a synchronisation engine (14 R411, 24 R379). -/
structure SyncOp where
  ctx : Nat
  ptr : Word
  amount : Int
  trapSig : Bool := false
deriving DecidableEq, Repr, Inhabited

/-- A subscription at its home die (07 R145–R148). -/
structure HomeSub where
  ctx : Nat
  rank : Nat
  slot : Nat
  va : Word
  pa : Nat
  len : Nat
  key : Nat
  ring : BitVec 128
  count : Nat := 0
  free : Nat
  drop : Nat := 0
  resync : Bool := false
deriving DecidableEq, Repr, Inhabited

/-- A push on its way (07 R146). -/
structure PushMsg where
  ctx : Nat
  rank : Nat
  slot : Nat
  ring : BitVec 128
  index : Nat
  drop : Nat
  resync : Bool
  line : List Byte
  va : Word
  cls : Nat
  ident : Nat
deriving DecidableEq, Repr, Inhabited

/-- An armed watchpoint (05 R111, 22 R358). -/
structure Watch where
  ctx : Nat
  rank : Nat
  num : Nat
  va : Word
  shared : Bool
  die : Nat := 0
  start : Nat
  len : Nat
deriving DecidableEq, Repr, Inhabited

/-- A group of SHARED granules of a P-die held by a context (04 R75). -/
structure Grant where
  ctx : Nat
  first : Nat
  count : Nat
deriving DecidableEq, Repr, Inhabited

/-- A grant change in progress on a die (04 R75). -/
structure Handover where
  port : Nat
  ctx : Option Nat
  first : Nat
  count : Nat
deriving DecidableEq, Repr, Inhabited

/-- A miss waiting for the walker, or a walk in flight (04 R85): the level it has reached, and the cause it ended with. -/
structure Walk where
  ctx : Nat
  region : Nat
  level : Nat := 4
  table : Nat := 0
  ended : Option Nat := none
deriving DecidableEq, Repr, Inhabited

/-- An entry of a die's walk cache (04 R85): the table a pointer of a level names, for the virtual addresses of a prefix. -/
structure PtrEntry where
  ctx : Nat
  level : Nat
  pre : Nat
  table : Nat
deriving DecidableEq, Repr, Inhabited

/-- A ramp limiter: one per die and rail (15 R270, R271, 16 R279). -/
structure Limiter where
  level : Nat := 0
  opened : Nat := 0                    -- clk at which its step began
  rampt : Word := 0x8888888444222111#64 -- the ramp table in force for it (16 R281)
  prev : Nat := 0                      -- its count at the last clk of the step before
  past : List (Nat × Nat × Nat) := []  -- commands that have occupied an array and ended: core, start clk, completion clk
  recent : List (Nat × Nat × Nat) := [] -- cores by their arrays' last completion, latest first: core, context, clk
  fillers : List Nat := []             -- cores whose arrays had a filler in the step before
deriving DecidableEq, Repr, Inhabited

/-- A cluster's power state (16 R274–R283). `used` is its meter's energy of the epoch in nJ, `powers` that of the epochs of
the last 100 ms, latest first. -/
structure Cluster where
  railHigh : Bool := true
  own : Bool := true                   -- the rail that R277 gives it by itself
  pendingRail : Option Bool := none    -- ordered, not yet at its ramp-step boundary
  ordered : Nat := 0                   -- clk of the latest order (R274)
  joining : Bool := false              -- it goes to the low rail of its pair's other cluster at the next boundary (R280)
  alloc : Option Nat := none           -- a_c in force; none before the first results
  cleared : Option (Nat × Bool) := none -- results on their way: a_c, high rail
  withheld : Bool := false
  critical : Bool := false
  used : Nat := 0
  powers : List Nat := []
  busyClk : Nat := 0                   -- array-clk of this epoch, of commands that have ended and of fillers (R276)
deriving DecidableEq, Repr, Inhabited

/-- A temperature sensor (16 R282, R283): its readings of the last 1 ms, latest first, and for how many samples it has
returned one code. -/
structure Sensor where
  past : List Int := []
  same : Nat := 0
deriving DecidableEq, Repr, Inhabited

/-! ## Sluice (21) -/

/-- A transfer as its blocks carry it (17 Tables 90, 91); its counter number names it among the transfers of its context
and channel. -/
structure SlDesc where
  serial : Nat := 0                    -- its place among the transfers its channel has ever opened
  handle : Word
  ctx : Nat
  num : Nat
  ptr : Word                           -- its send descriptor
  xid : Nat
  src : Word
  dst : Word
  pos0 : Nat
  npos : Nat
  nh : Nat
  hd : Nat
  narrow : Bool
  ver : Nat
  loff : Nat
deriving DecidableEq, Repr, Inhabited

/-- An item of a channel: a block or a cancel (21 R337). `k` is its place among the channel's items for its destination,
`num` the counter number a cancel word took. -/
structure SlItem where
  q : Nat
  k : Nat := 0
  cancel : Bool
  num : Option Nat := none
  desc : SlDesc
  block : Nat := 0
  bytes : List Byte := []
  expiries : Nat := 0
deriving DecidableEq, Repr, Inhabited

/-- An open transfer of a sender (17 R300, 21 R338). -/
structure Transfer where
  desc : SlDesc
  next : Nat := 0                      -- first block not yet sent
  committed : Nat := 0                 -- COMMITTED acknowledgements received
  stop : Bool := false                 -- cancelled: no further block is sent
deriving DecidableEq, Repr, Inhabited

/-- A sluice channel at its sender (17 R299, 21 R337, R341, R344). -/
structure SlChannel where
  transfers : List Transfer := []      -- in the order their words issued
  unacked : List SlItem := []
  pending : List SlItem := []          -- cancels that wait for the window of 4096
  nextQ : Nat := 0
  sentTo : List (Nat × Nat) := []      -- per receiver, how many items it has been sent
  stopped : List Nat := []             -- receivers whose stop is in force
  opened : Nat := 0                    -- transfers ever opened
  reported : List Nat := []            -- transfers that SLUICE_STALLED has been reported for
deriving DecidableEq, Repr, Inhabited

/-- What became of a sequence number at a receiver (21 R340): none yet or discarded, COMMITTED, or an acknowledgement of a
cancel or abort with its count and reason. -/
inductive SlOut where
  | none
  | committed
  | acked (count reason : Nat)
deriving DecidableEq, Repr, Inhabited

/-- A block in the landing buffer (21 R338, R339); once checked, the page it goes to and whether that was taken for it. -/
structure Landed where
  item : SlItem
  page : Option (Nat × Bool) := none
deriving DecidableEq, Repr, Inhabited

/-- A committed block of a transfer at its receiver (21 R339). -/
structure SlDone where
  k : Nat
  block : Nat
  page : Nat
  taken : Bool
  entry : Nat
deriving DecidableEq, Repr, Inhabited

/-- A transfer at its receiver: committed blocks, and whether it is closed (21 R339, R342). -/
structure SlRecvX where
  serial : Nat
  blocks : List SlDone := []
  closed : Bool := false
deriving DecidableEq, Repr, Inhabited

/-- A channel at its receiver (21 R340). -/
structure SlRecv where
  src : Nat                            -- package × 64 + die of the sender
  chan : Nat
  next : Nat := 0
  outcomes : List (Nat × SlOut) := []
  landed : List Landed := []
  xfers : List SlRecvX := []
deriving DecidableEq, Repr, Inhabited

/-- What a message between sluices carries (21 R338–R343). -/
inductive SlBody where
  | item (i : SlItem)
  | committed (q : Nat)
  | ack (q count reason : Nat)
deriving DecidableEq, Repr, Inhabited

/-- A message between sluices on a channel of a sender. -/
structure SlMsg where
  sender : Nat                         -- package × 64 + die that owns the channel
  receiver : Nat
  chan : Nat
  body : SlBody
  plane : Nat := 0                     -- the switch plane it takes, between packages (21 R349)
deriving DecidableEq, Repr, Inhabited

/-- A timeline counter of a sluice channel of a context (17 R299). -/
structure SlTimeline where
  ctx : Nat
  chan : Nat
  issued : Nat := 0
  done : List Nat := []
  waiters : List ObjRec := []
deriving DecidableEq, Repr, Inhabited

/-! ## Dies and stacks -/

/-- A die: its synchronisation engine, scheduler, walker, sluice and power state. -/
structure Die where
  syncs : List SyncVar := []
  syncOps : List SyncOp := []
  ready : List Item := []
  memReady : List Item := []
  priv : List (Nat × Item) := []
  homeWait : List ObjRec := []         -- TLWAIT objects parked at their homes until OUTST is 0 (10 Table 57)
  sweeps : List DieSweep := []
  groups : List Group := []
  reserve : List (Nat × Nat × Nat × Nat × Nat) := [] -- candidate, c0, k0, w, h (14 R265)
  best : Option Claim := none
  bestMem : Option Claim := none       -- of its memory-side units
  subs : List HomeSub := []
  grants : List Grant := []
  dgrant : Option Nat := none
  handovers : List Handover := []
  split : Nat := 16
  splitTo : List (Nat × Nat × Nat) := [] -- changes in the order they reached the die: rank, context, new split (22 R359)
  tlb : List TEntry := []
  missq : List Walk := []
  walks : List Walk := []
  ptrs : List PtrEntry := []
  slices : List Watch := []
  pairs : List (Nat × Nat) := []       -- pair site → EPOCH (08 R165)
  slTime : List SlTimeline := []
  chans : List (Nat × SlChannel) := [] -- by receiver (package × 64 + die) × 16 + channel
  slRecv : List SlRecv := []
  clusters : List (Nat × Cluster) := []
  limLow : Limiter := {}
  limHigh : Limiter := {}
  devsel : Vector (BitVec 8) 16 := Vector.replicate 16 0#8
  devcnt : Vector Word 16 := Vector.replicate 16 0#64
  rampt : Word := 0x8888888444222111#64
  slrto : Nat := 0
deriving DecidableEq, Repr, Inhabited

/-- A bad symbol of a line's codeword, soft or permanent (12 R235): an error the environment has caused. -/
structure BadSym where
  line : Nat
  cw : Nat
  sym : Nat
  soft : Bool
deriving DecidableEq, Repr, Inhabited

/-- A line in the cache ways of the SRAM layer (12 R229). -/
structure SramLine where
  line : Nat
  key : Nat
  dirty : Bool
  owner : Option Nat := none           -- the context whose write made it dirty: the owner of its key slot (12 R243)
  compress : Bool := false             -- C of the page it was last written through (12 R232)
  behind : List Host.Cell := []        -- what the stack's array holds behind a dirty line
  behindTags : List (Nat × Nat) := []  -- and the keys its 16-byte units are stored under
deriving DecidableEq, Repr, Inhabited

/-- A record of the error log (12 Table 67). -/
structure LogRec where
  seq : Nat
  kind : Nat
  pch : Nat
  cw : Nat := 0xFF
  sym : Nat := 0xFF
  beat : Nat := 0xFF
  grp : Nat := 0xFF
  lane : Nat := 0xFF
  spare : Nat := 0xFF
  retry : Nat := 0
  inuse : Nat := 0
  flags : Nat := 0
  pa : Nat := 0
  time : Nat := 0
deriving DecidableEq, Repr, Inhabited

/-- A fault of a lane of a vertical bus, spare lanes being 72 and 73: an error the environment has caused (12 Table 66,
R236). It strikes every line and beat, or one only; a passing disturbance strikes so many further transfers. -/
structure LaneFault where
  pch : Nat
  lane : Nat
  line : Option Nat := none
  beat : Option Nat := none
  left : Option Nat := none
deriving DecidableEq, Repr, Inhabited

/-- A transfer episode of a pseudo-channel: the line in the latch, the failed retries, and the beats and groups that failed
last (12 R236, R237): the first of them, and all. -/
structure Episode where
  pch : Nat
  line : Nat
  retries : Nat := 0
  retry : Bool := true                 -- the next transfer is a retry
  testing : Bool := false              -- the lane test is due
  fresh : Bool := false                -- the array has been read afresh; one transfer is left
  logged : Bool := false               -- its record is in the log
  beat : Nat := 0
  grp : Nat := 0
  fails : List (Nat × Nat) := []
deriving DecidableEq, Repr, Inhabited

/-- A stack and its slices. -/
structure Stack where
  bad : List BadSym := []
  badLanes : List LaneFault := []
  swaps : List (Nat × Nat × Nat) := [] -- pseudo-channel, lane, spare; the latest first
  episodes : List Episode := []
  failedLines : List Nat := []         -- lines whose transfer has failed, until their reader is told (12 R237, R242)
  retired : List Nat := []
  degraded : List Nat := []
  erased : List (Nat × Nat) := []      -- known-bad lanes without a spare
  moved : List Nat := []               -- lines moved to the reserve
  lost : List Nat := []                -- lines of a retired pseudo-channel that cannot be rebuilt
  evacuated : List Nat := []
  reserveUsed : Nat := 0
  reserveOut : Bool := false
  log : List LogRec := []
  seq : Nat := 0
  sram : List SramLine := []
  classes : List (Nat × Nat) := []     -- blocks whose size class is not 4 (12 R232)
deriving DecidableEq, Repr, Inhabited

/-! ## Contexts, Headgate, host -/

/-- An uncorrectable fault that is due to roll its context back (24 R393): cause and address, the unit concerned, the position
of the word where it was precise. -/
structure DataFault where
  cause : Nat
  addr : Nat
  rank : Option Nat := none
  pos : Word := 0#64
deriving DecidableEq, Repr, Inhabited

/-- A kill or a rollback that waits until every unit of its context stands at a command boundary (24 R375, R384, R391; DEDUCED,
log 149): the cause, and of a rollback what its record says. -/
structure StopDue where
  roll : Bool
  cause : Nat
  queue : Option Nat := none           -- of the packet that asks for a kill (25 R400)
  rank : Option Nat := none
  packed : Nat := 0
  pos : Word := 0#64
  tval : Word := 0#64
deriving DecidableEq, Repr, Inhabited

/-- A context set up by CTXSET (25 Table 135) and what the part keeps for it. -/
structure Ctx where
  root : Nat
  dmask : BitVec 64
  pmask : BitVec 192 := 0#192
  pdmasks : Nat := 0
  ovf : Word := 0#64
  ovfsz : Nat := 0
  pool : Word := 0#64
  osize : Nat := 0
  tq : Word := 0#64
  tqn : Nat := 4
  tqsig : Word := 0#64
  tvec : Word := 0#64
  spinl : Nat := 0
  pdl : Nat := 1
  undo : Word := 0#64
  undosz : Nat := 0
  msspill : Word := 0#64
  killed : Bool := false
  tqw : Nat := 0                       -- write index of the trap queue (24 R379)
  tqlost : Nat := 0
  records : List (List Byte × Bool) := [] -- records made and not yet landed; and whether it makes a TQSIG signal
  ckptOwner : Option Nat := none       -- rank of the unit that opened the interval (24 R389)
  ckptObj : Option Word := none
  ckptOpen : Bool := false
  undoUsed : Nat := 0
  undoLines : List (Nat × Bool) := []  -- lines logged in the interval, with the C bit of the page (12 R232)
  undoFull : Bool := false             -- a write met a full undo area; the kill is due (24 R390)
  stopDue : Option StopDue := none     -- a kill or a rollback that waits for a command boundary
  drop : Option Nat := none            -- the port of a CTXDROP that waits for the kill (25 Table 132)
  dataFault : Option DataFault := none -- an uncorrectable fault while the interval is open (24 R393)
  energy : Nat := 0
  saved : Bool := false
  nextHandle : Nat := 1
  kvbase : Word := 0#64                -- base of its KV region, as the stream opened last named it (17 R285)
deriving DecidableEq, Repr, Inhabited

/-- A stream record as the Headgate holds it (17 Table 88). -/
structure Stream where
  ctx : Nat
  handle : Nat
  g : Nat := 0
  p : Nat := 0
  c : Nat := 0
  version : Nat := 0
  tpend : Bool := false
  tanch : Nat := 0
  snapint : Nat := 0
  nsnap : Nat := 0
  rstate : Word := 0#64
  rsize : Nat := 0
  snaplast : Nat := 0
  snapbase : Word := 0#64
  tlog : Nat := 0
  kvbase : Word := 0#64
  btab : Word := 0#64
  nblk : Nat := 0
  hiblk : Nat := 0
  ddie : Nat := 0
  prio : Nat := 0
  queue : Nat := 0
  cobj : Word := 0#64
  snappos : List Nat := List.replicate 64 0
deriving DecidableEq, Repr, Inhabited

/-- A KV pool of a context on a D-die: its two stacks of page indices, top first (19 R318, R319). -/
structure KvPool where
  near : List Nat := []
  far : List Nat := []
deriving DecidableEq, Repr, Inhabited

/-- Where the Headgate holds a page (19 R318). -/
inductive PagePlace where
  | near
  | far (die : Nat)
  | entry (handle block : Nat)
  | promote
  | landing
deriving DecidableEq, Repr, Inhabited

/-- The Headgate's record of a page of a context's KV region: its home pool and its place. -/
structure PageRec where
  ctx : Nat
  page : Nat
  home : Nat
  place : PagePlace
deriving DecidableEq, Repr, Inhabited

/-- A snapshot copy in progress (17 R295). -/
structure SnapCopy where
  ctx : Nat
  handle : Nat
  slot : Nat
  pos : Nat
  version : Nat
  rank : Nat
  bytes : List Byte := []              -- the recurrent state as the word's release left it
deriving DecidableEq, Repr, Inhabited

/-- An open decode batch (19 R311, R312): what its descriptor said at the open, and its last sweep. -/
structure Batch where
  ctx : Nat
  desc : Word
  record : Word
  list : Word
  members : Word
  nmem : Nat
  nmax : Nat
  period : Nat
  queue : Nat
  due : Nat
  last : Nat := 0
deriving DecidableEq, Repr, Inhabited

structure Headgate where
  streams : List Stream := []
  pools : List (Nat × KvPool) := []    -- context × 64 + die
  pages : List PageRec := []
  snaps : List SnapCopy := []
  batches : List Batch := []
  sweeps : List Sweep := []
  nextSweep : Nat := 1
deriving DecidableEq, Repr, Inhabited

/-- What a request over the fabric is for: the load or atomic of a front end, a store of its buffer, a fetch, or a piece of
a copy command. -/
inductive FabUse where
  | load
  | store (entry : Nat)
  | fetch
  | copy (num : Nat)
  | out (obj : Word) (num : Nat)       -- of a copy that goes on after its unit has parked
  | part (die : Nat)                   -- of a walker, a Headgate, a synchronisation engine or a sluice, made from a die
deriving DecidableEq, Repr, Inhabited

/-- A request over the fabric that is not yet done with (21 R347): its destination port as package × 32 + port, its sequence
number between the two ports, whom it is for. `id` tells it apart within the package. -/
structure FabReq where
  id : Nat
  port : Nat
  seq : Nat
  rank : Nat
  ctx : Nat
  loc : Loc
  size : Nat
  use : FabUse
  replays : Nat := 0
  failed : Bool := false
  answered : Bool := false             -- its access has performed; what waited for it is not yet done with it
  used : Bool := false                 -- by an access of the turn in progress
deriving DecidableEq, Repr, Inhabited

structure Fabric where
  pkg : Nat := 0
  domain : List Nat := [0]
  outstanding : List FabReq := []
  responses : List (Nat × Nat × List Byte × Bool) := [] -- source package and port, sequence number, answer, refused
  seqs : List (Nat × Nat) := []        -- per destination port, the next sequence number
  nextId : Nat := 0
  failed : List Nat := []              -- switch planes that have failed
  linksDown : List (Nat × Nat) := []
  lostPkgs : List Nat := []
  msgs : List SlMsg := []
deriving DecidableEq, Repr, Inhabited

structure Power where
  pbudget : Nat := 10800
  epochAt : Nat := 0                   -- clk at which the epoch began
  thot : Nat := 760
  tcrit : Nat := 840
  fille : Nat := 12
  sensors : List (Nat × Sensor) := []  -- by die × 64 + column × 8 + height
  failed : List Nat := []
  clearable : List Nat := []           -- failed sensors whose declaration a reset has followed
  energySel : Nat := 0
  elogSel : List (Nat × Nat) := []     -- stack → ring index selected
  elogLast : Nat := 0                  -- stack whose ELOG was written last
deriving DecidableEq, Repr, Inhabited

/-- What the device sends the host: a completion of a port's request, or an event with the port it leaves by (25 Tables 133,
137). -/
inductive HostMsg where
  | completion (port : Nat) (status : String) (cause : Nat) (data : List Byte)
  | event (name : String) (queue : Nat) (status : String) (args : List Nat) (port : Nat := 0)
deriving DecidableEq, Repr, Inhabited

/-- A boot (25 R406): its next stage, whether the firmware's signature is good, and the cores that it retires. -/
structure Boot where
  stage : Nat := 1
  signatureOk : Bool := true
  retired : List Nat := []
deriving DecidableEq, Repr, Inhabited

/-- A message of a Tiust link (25 Table 132), as an arrival order keeps it. -/
inductive HostReq where
  | memrd (port ctx : Nat) (va : Word) (size : Nat)
  | memwr (port ctx : Nat) (va : Word) (data : List Byte)
  | hostAtomic (port ctx : Nat) (va : Word) (op : HostAtomicOp) (wide : Bool) (operand compare : Word)
  | qwrite (port queue : Nat) (packet : List Byte)
  | qbind (port queue ctx : Nat)
  | ctxset (port ctx pa : Nat)
  | ctxdrop (port ctx : Nat)
  | pooladd (port ctx die : Nat) (list : Word) (count : Nat)
  | spgrant (port die : Nat) (ctx : Option Nat) (first count : Nat)
  | keyload (port slot : Nat) (wrapped : BitVec 576)
  | keyzap (port slot : Nat)
  | mgmtrd (port address : Nat)
  | mgmtwr (port address : Nat) (value : Word)
  | pbudget (port : Nat) (value : Word)
  | rampt (port die : Nat) (value : Word)
  | elogSelect (port stack : Nat) (value : Word)
  | energySelect (port : Nat) (value : Word)
  | sensclr (port : Nat) (value : Word)
deriving DecidableEq, Repr, Inhabited

structure HostSide where
  boot : Option Boot := none           -- a boot in progress: READY has not been sent
  chosen : Nat := 0                    -- the port the host has chosen for events (25 R405; log 146)
  queues : List (Nat × Nat) := []      -- queue → bound context
  packets : List (Nat × List (List Byte)) := []
  heads : List (Nat × Nat) := []       -- when the packet at a queue's head got there (19 R308)
  admitting : List Nat := []           -- queues whose head's admission has started and waits (19 R308)
  out : List HostMsg := []
  portsDown : List Nat := []
  hostTcache : List (Nat × TEntry) := []
  keySlots : List (Nat × Nat) := [(0, 0)] -- slot → key identity
  keyWork : List (Nat × Nat × Option Nat) := [] -- slot, port, new identity of a load or none of a zap
  waiting : List (Nat × HostReq) := [] -- messages behind an access that waits for its key slot, by port, in arrival order (05 R103)
deriving DecidableEq, Repr, Inhabited

/-- What the part keeps of a parked unit beside its object (log 29): the register a resume value goes to, the sweep of its
step, the engine faults of completed commands that have not been delivered (24 R378, log 75), and index and position of its
saved commands. -/
structure Parked where
  ctx : Nat
  ptr : Word
  dst : Option Nat := none
  sweep : Nat := 0
  uid : Nat := 0
  bound : Option Nat := none           -- the held core of a group stage (14 R260)
  fence : Option (Nat × EngId × Nat) := none -- the fence of a unit that has not begun (10 R204)
  faults : List EngFault := []         -- faults of completed commands not yet delivered (24 R376)
  cmds : List (W32 × Nat × Nat × Word) := [] -- word, number, index, position
deriving DecidableEq, Repr, Inhabited

/-- Whose turn the agenda gives. -/
inductive Turn where
  | event (i : Instr)
  | unit (rank : Nat)
  | late (rank : Nat)                  -- a unit's turn in which its word, if a load or atomic, issues and performs later
deriving DecidableEq, Repr

/-- What a line of an L page held before a step first wrote to it (14 R258): line, key slot and C bit of the page, bytes. -/
structure StepPre where
  sweep : Nat
  step : Nat
  line : Nat
  key : Nat
  compress : Bool
  bytes : List Byte
deriving DecidableEq, Repr, Inhabited

/-- The state of the package. -/
structure State where
  core : Core := {}
  cur : Nat := 0x800
  others : List (Nat × Core) := []
  agenda : List Turn := []
  turns : Nat := 0                     -- turns in a row that the unit in focus has had by itself (log 1)
  tick : Nat := 0
  clk : Nat := 0
  time : Nat := 0
  mem : List Host.Cell := []
  tags : List (Nat × Nat) := []        -- 16-byte unit of GLOBAL memory → identity of the key it was stored under
  ctxs : List (Nat × Ctx) := []
  dies : List (Nat × Die) := []
  hbm : List (Nat × Stack) := []
  head : Headgate := {}
  fab : Fabric := {}
  power : Power := {}
  host : HostSide := {}
  spawns : List SpawnMsg := []
  pushes : List PushMsg := []
  parked : List Parked := []
  images : Nat := 1                    -- next group number
  starts : Nat := 0                    -- units started
  stepUndo : List StepPre := []        -- newest first
  halted : Bool := false
  held : Bool := false                 -- an access of the turn in progress is held: the turn is taken back (log 132)
deriving DecidableEq, Repr

/-- The machine at READY (25 R406): nothing set up, every memory empty, one READY event sent to the host. -/
def State.reset : State :=
  { host := { out := [.event "READY" 0 "OK" [0, 0]] } }

end Sys2Proof.Machine
end

