-- ==== Sys2Proof/Machine/Mem.lean ====
section
/-!
DEFINITION. Association lists, the flat memory and what stands behind a home: keys (12 R234), ECC and the SRAM layer
(12 R229–R243). Every memory of the package lies in one list of cells; the key of a cell says which memory it is in.
-/
namespace Sys2Proof.Machine

/-! ## Association lists, kept in rising order of their keys -/

def alGet {α : Type} (k : Nat) : List (Nat × α) → Option α
  | [] => none
  | (j, v) :: r => if j = k then some v else alGet k r

def alSet {α : Type} (k : Nat) (v : α) : List (Nat × α) → List (Nat × α)
  | [] => [(k, v)]
  | (j, w) :: r => if k < j then (k, v) :: (j, w) :: r else if j = k then (k, v) :: r else (j, w) :: alSet k v r

def alDel {α : Type} (k : Nat) : List (Nat × α) → List (Nat × α)
  | [] => []
  | (j, w) :: r => if j = k then alDel k r else (j, w) :: alDel k r

/-! ## Bytes -/

/-- The n bytes of a value, little-endian (00 R8). -/
def bytesOf : Nat → Nat → List Byte
  | 0, _ => []
  | n + 1, v => BitVec.ofNat 8 v :: bytesOf n (v / 256)

/-- The value of bytes, little-endian. -/
def natOf : List Byte → Nat
  | [] => 0
  | b :: r => b.toNat + 256 * natOf r

/-- Bits lo … lo+n−1 of a natural number. -/
def bitsAt (v lo n : Nat) : Nat := v / 2 ^ lo % 2 ^ n

/-- Bit lo of a natural number. -/
def bitAt (v lo : Nat) : Bool := v / 2 ^ lo % 2 == 1

/-! ## The flat memory -/

/-- Cell keys: a GLOBAL byte is its PA; the other memories stand above 2^56. -/
def sharedKey (die off : Nat) : Nat := 2 ^ 56 + die * 2 ^ 32 + off
def localKey (rank off : Nat) : Nat := 2 ^ 57 + rank * 2 ^ 24 + off
def wbKey (rank off : Nat) : Nat := 2 ^ 58 + rank * 2 ^ 24 + off

/-- What an unlisted cell reads as: SHARED, LOCAL and weight-buffer bytes are zeroed at boot (25 R406, stage 5); a
GLOBAL byte that nothing has written has no stored plaintext (12 R234). -/
def Memory.unlisted (key : Nat) : Option Byte := if key < 2 ^ 56 then none else some 0#8

/-- The stored byte at a cell key. -/
def Memory.read (m : List Host.Cell) (key : Nat) : Option Byte :=
  match alGet key m with
  | some b => some b
  | none => Memory.unlisted key

/-- Store a byte; a value equal to what the unlisted cell reads as removes the entry. -/
def Memory.write (m : List Host.Cell) (key : Nat) (b : Byte) : List Host.Cell :=
  if Memory.unlisted key = some b then alDel key m else alSet key b m

/-- Remove what is stored at a cell. -/
def Memory.erase (m : List Host.Cell) (key : Nat) : List Host.Cell := alDel key m

/-- The keys of a list of cells rise strictly. -/
def Memory.rising : List Host.Cell → Bool
  | [] => true
  | [_] => true
  | a :: b :: r => decide (a.1 < b.1) && Memory.rising (b :: r)

/-- No listed cell holds what it would read as unlisted. -/
def Memory.noDefault (m : List Host.Cell) : Bool := m.all fun c => Memory.unlisted c.1 != some c.2

/-- The canonical form of a memory. -/
def Memory.wf (m : List Host.Cell) : Bool := Memory.rising m && Memory.noDefault m

/-- Write consecutive bytes. -/
def Memory.writeBytes (m : List Host.Cell) (key : Nat) : List Byte → List Host.Cell
  | [] => m
  | b :: r => Memory.writeBytes (Memory.write m key b) (key + 1) r

/-- Read n bytes of a memory that reads zero where nothing is stored. -/
def Memory.readZero (m : List Host.Cell) (key : Nat) : Nat → List Byte
  | 0 => []
  | n + 1 => (Memory.read m key).getD 0#8 :: Memory.readZero m (key + 1) n

/-- Clear n cells from a key upward (a memory that is zeroed). -/
def Memory.clear (m : List Host.Cell) (lo n : Nat) : List Host.Cell :=
  m.filter fun c => !(decide (lo ≤ c.1) && decide (c.1 < lo + n))

/-! ## Ranks, dies and stacks -/

def rankOf (die cluster core : Nat) : Nat := die * 64 + cluster * 8 + core
def dieOf (rank : Nat) : Nat := rank / 64
def clusterOf (rank : Nat) : Nat := rank / 8 % 8
def coreOf (rank : Nat) : Nat := rank % 8

/-- P-dies are 0–3, D-dies 32–63 (00 Table 1). -/
def isPDie (die : Nat) : Bool := decide (die < 4)
def isDDie (die : Nat) : Bool := decide (32 ≤ die) && decide (die < 64)
def isDie (die : Nat) : Bool := isPDie die || isDDie die

/-- Clusters of a die (00 R3). -/
def clustersOf (die : Nat) : Nat := if isPDie die then 8 else 6

/-- A rank that names a core (00 R3). -/
def isCoreRank (rank : Nat) : Bool :=
  isDie (dieOf rank) && decide (clusterOf rank < clustersOf (dieOf rank)) && decide (coreOf rank < 4)

/-- A rank that names a memory-side task unit (10 R205). -/
def isMemRank (rank : Nat) : Bool := isDDie (dieOf rank) && clusterOf rank == 7 && decide (coreOf rank < 4)

/-- CLASS: 0 P-core, 1 D-core, 2 memory-side unit (10 Table 59). -/
def classOf (rank : Nat) : Nat := if isPDie (dieOf rank) then 0 else if clusterOf rank = 7 then 2 else 1

/-- LOCAL size of a core (04 Table 23). -/
def localSize (rank : Nat) : Nat := match classOf rank with
  | 0 => 6 * 2 ^ 20
  | 1 => 3 * 2 ^ 19
  | _ => 0

/-- Weight-buffer size of a core (08 R155). -/
def wbSize (rank : Nat) : Nat := match classOf rank with
  | 0 => 2 * 2 ^ 20
  | 1 => 2 ^ 19
  | _ => 0

def pkgOf (pa : Nat) : Nat := pa / 2 ^ 41
def stackOf (pa : Nat) : Nat := pa / 2 ^ 36 % 32
/-- The home D-die of a PA (04 R78). -/
def homeDie (pa : Nat) : Nat := 32 + stackOf pa
/-- A line's index within its stack (12 R227). -/
def lineOf (pa : Nat) : Nat := pa % 2 ^ 36 / 128

/-- The pseudo-channel of a line (12 R227). -/
def pchOf (line : Nat) : Nat :=
  let g := fun i => line / 2 ^ i % 16
  let x := (((g 8 ^^^ g 12) ^^^ (g 16 ^^^ g 20)) ^^^ g 24) ^^^ (line / 2 ^ 28 % 2)
  6 * ((g 0 + 7 * g 4 + 3 * x) % 16) + (g 0 + 2 * x) % 6

/-! ## Access to the parts of the state -/

def State.die (s : State) (d : Nat) : Die := (alGet d s.dies).getD {}
def State.setDie (s : State) (d : Nat) (x : Die) : State := { s with dies := alSet d x s.dies }
def State.modDie (s : State) (d : Nat) (f : Die → Die) : State := s.setDie d (f (s.die d))

/-- Change every die that holds state. -/
def State.mapDies (s : State) (f : Die → Die) : State := { s with dies := s.dies.map fun x => (x.1, f x.2) }

def State.stack (s : State) (k : Nat) : Stack := (alGet k s.hbm).getD {}
def State.setStack (s : State) (k : Nat) (x : Stack) : State := { s with hbm := alSet k x s.hbm }
def State.modStack (s : State) (k : Nat) (f : Stack → Stack) : State := s.setStack k (f (s.stack k))

def State.ctx? (s : State) (c : Nat) : Option Ctx := alGet c s.ctxs
def State.setCtx (s : State) (c : Nat) (x : Ctx) : State := { s with ctxs := alSet c x s.ctxs }
def State.modCtx (s : State) (c : Nat) (f : Ctx → Ctx) : State :=
  match s.ctx? c with
  | some x => s.setCtx c (f x)
  | none => s

/-- The unit of a rank. -/
def State.unitAt (s : State) (r : Nat) : Core := if r = s.cur then s.core else (alGet r s.others).getD {}
def State.setUnit (s : State) (r : Nat) (c : Core) : State :=
  if r = s.cur then { s with core := c } else { s with others := alSet r c s.others }
def State.modUnit (s : State) (r : Nat) (f : Core → Core) : State := s.setUnit r (f (s.unitAt r))

/-- Bring another unit into focus. -/
def State.focus (s : State) (r : Nat) : State :=
  if r = s.cur then s
  else { s with core := s.unitAt r, cur := r, others := alDel r (alSet s.cur s.core s.others) }

/-- Every unit that has run or holds state, with its rank. -/
def State.units (s : State) : List (Nat × Core) := (s.cur, s.core) :: s.others

/-- Change every unit. -/
def State.mapUnits (s : State) (f : Core → Core) : State :=
  { s with core := f s.core, others := s.others.map fun x => (x.1, f x.2) }

/-- Count a die event (24 R397, Table 131). -/
def Die.count (d : Die) (code n : Nat) : Die :=
  { d with devcnt := Vector.ofFn fun i => if (d.devsel[i]).toNat = code ∧ code ≠ 0 then d.devcnt[i] + BitVec.ofNat 64 n else d.devcnt[i] }

def State.dieEvent (s : State) (die code n : Nat) : State := s.modDie die fun d => d.count code n

/-- The port that an event leaves by: the one the host has chosen, or the other one when that is down (25 R405). -/
def HostSide.eventPort (h : HostSide) : Option Nat := [h.chosen, 1 - h.chosen].find? fun p => !h.portsDown.contains p

/-- A message as it leaves by its port; none by a port without its link. -/
def HostSide.posted (h : HostSide) : HostMsg → Option HostMsg
  | .completion port status cause data => if h.portsDown.contains port then none else some (.completion port status cause data)
  | .event name queue status args _ => h.eventPort.map fun p => .event name queue status args p

/-- Send the host a message. -/
def State.send (s : State) (m : HostMsg) : State := { s with host := { s.host with out := s.host.out ++ (s.host.posted m).toList } }

/-! ## Keys and the stored bytes of GLOBAL memory -/

/-- The identity of the key in a slot, none when the slot holds no key (04 R83, 25 R403). -/
def State.keyId (s : State) (slot : Nat) : Option Nat := alGet slot s.host.keySlots

/-- A key slot whose cached lines are being flushed: accesses under it wait (25 R403). -/
def State.keyBusy (s : State) (slot : Nat) : Bool := s.host.keyWork.any fun x => x.1 = slot

/-- The size class of a block (12 R232): 4 unless listed. -/
def Stack.classAt (st : Stack) (block : Nat) : Nat := (alGet block st.classes).getD 4

/-- The cached copy of a line. -/
def Stack.cached (st : Stack) (line : Nat) : Option SramLine := st.sram.find? fun x => x.line = line

/-- What the array holds of a byte, as plaintext of the key it is stored under: behind a dirty cached line, what was there
before. -/
def State.arrayByte (s : State) (t pa : Nat) : Byte :=
  (match (s.stack (stackOf pa)).cached (lineOf pa) with
    | some x => if x.dirty && decide (pkgOf pa = s.fab.pkg) then alGet pa x.behind else Memory.read s.mem pa
    | none => Memory.read s.mem pa).getD (Config.zeroCipherByte t pa)

/-- What decrypts together with a byte (12 R234): its 16-byte unit, or its whole block where the encoder has stored it. -/
def State.dataUnit (s : State) (t pa : Nat) : List Byte :=
  let n := if pkgOf pa = s.fab.pkg ∧ (s.stack (stackOf pa)).classAt (lineOf pa / 4) ≠ 4 then 512 else 16
  (List.range n).map fun i => s.arrayByte t (pa / n * n + i)

/-- A byte of GLOBAL memory as it decrypts under a key (12 R234). -/
def State.byteUnder (s : State) (kid pa : Nat) : Byte :=
  match alGet (pa / 16) s.tags with
  | none => Config.zeroCipherByte kid pa
  | some t => if t = kid then (Memory.read s.mem pa).getD (Config.zeroCipherByte t pa) else Config.foreignByte t kid pa (s.dataUnit t pa)

/-- n bytes of GLOBAL memory under a key. -/
def State.bytesUnder (s : State) (kid pa : Nat) : Nat → List Byte
  | 0 => []
  | n + 1 => s.byteUnder kid pa :: State.bytesUnder s kid (pa + 1) n

/-- Bytes that were stored under another key, as they decrypt under the new one. -/
def retagBytes (s : State) (kid base : Nat) : Nat → List Host.Cell → List Host.Cell
  | 0, m => m
  | n + 1, m => Memory.write (retagBytes s kid base n m) (base + n) (s.byteUnder kid (base + n))

/-- Make n 16-byte units ones that are stored under a key: what they held decrypts under that key (12 R233, R234). -/
def State.retag (s : State) (kid unit n : Nat) : State :=
  let units := (List.range n).map (unit + ·)
  let own := units.all fun u => match alGet u s.tags with
    | none => true
    | some t => t == kid
  { s with mem := if own then s.mem else retagBytes s kid (unit * 16) (16 * n) s.mem,
           tags := units.foldl (fun m u => alSet u kid m) s.tags }

/-- Store bytes of GLOBAL memory under a key. -/
def State.putGlobal (s : State) (kid pa : Nat) : List Byte → State
  | [] => s
  | b :: r =>
    let s1 := s.retag kid (pa / 16) 1
    State.putGlobal { s1 with mem := Memory.write s1.mem pa b } kid (pa + 1) r

/-! ## The stack: log, ECC, cached lines -/

/-- Append a record to a stack's error log, a ring of 4096 (12 R240). -/
def Stack.append (st : Stack) (r : LogRec) : Stack :=
  { st with log := (st.log ++ [{ r with seq := st.seq % 2 ^ 32 }]).drop (st.log.length + 1 - 4096), seq := st.seq + 1 }

def State.log (s : State) (k : Nat) (r : LogRec) : State :=
  s.modStack k fun st => st.append { r with time := s.time, inuse := (st.swaps.filter fun x => x.1 = r.pch).length }

/-- The PA of a line of a stack of this package. -/
def State.linePa (s : State) (k line : Nat) : Nat := s.fab.pkg * 2 ^ 41 + k * 2 ^ 36 + line * 128

/-! ### The vertical bus (12 Table 66, R236–R238) -/

/-- The wire that carries a lane: the spare that was swapped in for it last, else its own. -/
def Stack.wireOf (st : Stack) (pch lane : Nat) : Nat :=
  match st.swaps.find? fun x => x.1 = pch ∧ x.2.1 = lane with
  | some x => 72 + x.2.2
  | none => lane

/-- Lane i of a beat arrives wrong in the next transfer of a line. -/
def Stack.wrong (st : Stack) (line beat lane : Nat) : Bool :=
  let pch := pchOf line
  st.badLanes.any fun f => f.pch == pch && f.lane == st.wireOf pch lane && f.left != some 0
    && (f.line.getD line == line) && (f.beat.getD beat == beat)

/-- A lane is known to be bad and has no spare (12 R238). -/
def Stack.known (st : Stack) (pch lane : Nat) : Bool := st.erased.any fun x => x == (pch, lane)

/-- The lanes of a parity group: eight data lanes and their parity lane. -/
def groupLanes (g : Nat) : List Nat := (List.range 8).map (8 * g + ·) ++ [64 + g]

/-- Parity group of a lane. -/
def laneGroup (l : Nat) : Nat := if l < 64 then l / 8 else l - 64

/-- A group fails even parity on a beat; a group with a known bad lane is not checked (12 R238). -/
def Stack.parityFails (st : Stack) (line beat g : Nat) : Bool :=
  !((groupLanes g).any fun l => st.known (pchOf line) l) && ((groupLanes g).filter fun l => st.wrong line beat l).length % 2 == 1

/-- Byte 8 × beat + g of a line arrives wrong though no parity check fails: an even number of wrong lanes, or a wrong lane
of a group with a known bad one, whose bit is rebuilt from the others (12 R238). -/
def Stack.symbolWrong (st : Stack) (line beat g : Nat) : Bool :=
  let known := (groupLanes g).filter fun l => st.known (pchOf line) l
  let wrong := (groupLanes g).filter fun l => st.wrong line beat l && !st.known (pchOf line) l
  match known with
  | [] => wrong.length % 2 == 0 && wrong.any (· < 64)
  | [l] => if l < 64 then !wrong.isEmpty else wrong.any (· < 64)
  | _ => (known ++ wrong).any (· < 64)

/-- The pseudo-channel's bus has had no fault, or the line has left it. -/
def Stack.busClean (st : Stack) (line : Nat) : Bool :=
  (st.badLanes.isEmpty && st.erased.isEmpty) || decide (line ∈ st.moved)

/-- Beats and groups of a line's 16 beats. -/
def beatGroups : List (Nat × Nat) := (List.range 16).flatMap fun b => (List.range 8).map fun g => (b, g)

/-- The beats and groups whose parity fails in the next transfer of a line. -/
def Stack.failing (st : Stack) (line : Nat) : List (Nat × Nat) :=
  if st.busClean line then [] else beatGroups.filter fun x => st.parityFails line x.1 x.2

/-- The bytes of a line that its transfer delivers wrong. -/
def Stack.wrongBytes (st : Stack) (line : Nat) : List Nat :=
  if st.busClean line then [] else (beatGroups.filter fun x => st.symbolWrong line x.1 x.2).map fun x => 8 * x.1 + x.2

/-- One more transfer of a line has met the passing disturbances that strike it. -/
def Stack.passed (st : Stack) (line : Nat) : Stack :=
  { st with badLanes := st.badLanes.map fun f =>
      if f.pch = pchOf line ∧ f.line.getD line = line then { f with left := f.left.map (· - 1) } else f }

def Stack.setEpisode (st : Stack) (e : Episode) : Stack := { st with episodes := e :: st.episodes.filter fun x => x.pch ≠ e.pch }
def Stack.endEpisode (st : Stack) (pch : Nat) : Stack := { st with episodes := st.episodes.filter fun x => x.pch ≠ pch }
def Stack.episode (st : Stack) (pch : Nat) : Option Episode := st.episodes.find? fun e => e.pch = pch

/-- How a transfer ended. -/
inductive Crossing where
  | crossed
  | failed
  | again
deriving DecidableEq, Repr

/-- One transfer of a line over its bus (12 R236, R237). A first failure starts an episode; a retry that passes ends it and
is logged; the third failed retry calls for the lane test; a failure after the fresh read is a failed transfer. -/
def State.busTransfer (s : State) (k line : Nat) : Crossing × State :=
  let st := s.stack k
  let pch := pchOf line
  let rec0 : LogRec := { seq := 0, kind := 2, pch := pch, pa := s.linePa k line }
  match st.failing line, st.episode pch with
  | [], none => (.crossed, s)
  | [], some e =>
    let s1 := s.setStack k (st.endEpisode pch)
    let s2 := if e.retry && !e.fresh then s1.dieEvent (32 + k) 13 1 else s1
    (.crossed, if e.logged then s2 else s2.log k { rec0 with retry := e.retries, beat := e.beat, grp := e.grp })
  | x :: r, none => (.again, s.setStack k ((st.passed line).setEpisode { pch := pch, line := line, beat := x.1, grp := x.2, fails := x :: r }))
  | x :: r, some e =>
    let e1 := { e with beat := x.1, grp := x.2, fails := x :: r }
    if e.fresh then
      (.failed, (s.setStack k ((st.passed line).endEpisode pch)).log k { rec0 with kind := 4, retry := e.retries, beat := x.1, grp := x.2 })
    else if !e.retry then (.again, s.setStack k ((st.passed line).setEpisode { e1 with retry := true }))
    else
      (.again, (s.setStack k ((st.passed line).setEpisode { e1 with retries := e.retries + 1, testing := decide (3 ≤ e.retries + 1) })).dieEvent (32 + k) 13 1)

/-- Lowest free spare of a pseudo-channel. -/
def Stack.freeSpare (st : Stack) (pch : Nat) : Option Nat :=
  [0, 1].find? fun k => !(st.swaps.any fun x => x.1 == pch && x.2.2 == k)

/-- The lane the lane test finds bad in a failing group: its wire has a fault that lasts (12 R237). -/
def Stack.testFinds (st : Stack) (pch g : Nat) : Option Nat :=
  (groupLanes g).find? fun l => !st.known pch l && st.badLanes.any fun f => f.pch == pch && f.lane == st.wireOf pch l && f.left.isNone

/-- Retire a pseudo-channel while the reserve lasts; after that it stays in service, degraded (12 R238, R239). `why` is the
record of the lane that calls for it. -/
def State.retire (s : State) (k pch : Nat) (why : LogRec) : State :=
  let st := s.stack k
  if pch ∈ st.retired then s
  else if 2 ≤ st.reserveUsed then
    ((s.setStack k { st with degraded := if pch ∈ st.degraded then st.degraded else pch :: st.degraded }).log k { why with kind := 8 }).send
      (.event "CHANNEL_DEGRADED" 0 "OK" [k, pch])
  else
    let s1 := ((s.setStack k { st with retired := pch :: st.retired, reserveUsed := st.reserveUsed + 1 }).log k { why with kind := 5 }).send
      (.event "CHANNEL_RETIRED" 0 "OK" [k, pch])
    if st.reserveUsed + 1 = 2 then
      ((s1.modStack k fun st => { st with reserveOut := true }).log k { seq := 0, kind := 7, pch := pch }).send (.event "RESERVE_OUT" 0 "OK" [k])
    else s1

/-- The lane test of a pseudo-channel whose third retry has failed (12 R237), over every failing group: a bad lane is mapped
onto a spare, or becomes a known erasure and retires the pseudo-channel; with no bad lane found the array is read once more. On
a pseudo-channel that is retired already the erasure alone ends the episode's record (log 133). -/
def State.laneTest (s : State) (k pch : Nat) : State :=
  let st := s.stack k
  match st.episode pch with
  | none => s
  | some e =>
    if !e.testing then s
    else match e.fails.findSome? fun x => (st.testFinds pch x.2).map fun l => (x, l) with
      | none => s.setStack k (st.setEpisode { e with testing := false, fresh := true })
      | some (x, l) =>
        let e1 := { e with retries := 0, retry := false, testing := false, logged := true }
        let why : LogRec := { seq := 0, kind := 3, pch := pch, beat := x.1, grp := x.2, lane := l, retry := e.retries, pa := s.linePa k e.line }
        match st.freeSpare pch with
        | some n => (s.setStack k { st.setEpisode e1 with swaps := (pch, l, n) :: st.swaps }).log k { why with spare := n }
        | none =>
          let s1 := s.setStack k { st.setEpisode e1 with erased := (pch, l) :: st.erased }
          if pch ∈ st.retired then s1.log k { why with kind := 2, flags := 2 } else s1.retire k pch { why with flags := 2 }

/-- A line crosses its bus to the end of its episode, after any other that its pseudo-channel is in; false when its transfer
fails. -/
def State.crossBus (k line : Nat) : Nat → State → Bool × State
  | 0, s => (false, s)
  | n + 1, s =>
    match (s.stack k).episode (pchOf line) with
    | some e =>
      if e.testing then State.crossBus k line n (s.laneTest k e.pch)
      else
        let r := s.busTransfer k e.line
        if r.1 = .again then State.crossBus k line n r.2
        else if e.line = line then (r.1 == .crossed, r.2)
        else State.crossBus k line n (if r.1 = .failed then r.2.modStack k fun st => { st with failedLines := e.line :: st.failedLines } else r.2)
    | none =>
      let r := s.busTransfer k line
      if r.1 = .again then State.crossBus k line n r.2 else (r.1 == .crossed, r.2)

/-- A line is read over its bus (12 R236, R237): false when the transfer fails, now or in a LINE_TRANSFER its reader has
not yet been told of. -/
def State.busRead (s : State) (k line : Nat) : Bool × State :=
  let st := s.stack k
  if st.badLanes.isEmpty && st.episodes.isEmpty && st.failedLines.isEmpty then (true, s)
  else if line ∈ st.moved then (true, s)
  else if line ∈ st.failedLines then (false, s.setStack k { st with failedLines := st.failedLines.erase line })
  else s.crossBus k line 1024

/-! ### ECC (12 R235) -/

/-- The record of a finding of ECC in a codeword; bit 1 of FLAGS tells that the line was rebuilt over a known bad data
lane (12 Table 67). -/
def State.eccRec (s : State) (k line cw : Nat) : LogRec :=
  let st := s.stack k
  { seq := 0, kind := 0, pch := pchOf line, cw := cw, pa := s.linePa k line,
    flags := if line ∉ st.moved ∧ st.erased.any (fun x => x.1 == pchOf line && decide (x.2 < 64)) then 2 else 0 }

/-- The bad symbols of a codeword of a line as a read finds them: those of the array, and those the transfer adds. -/
def Stack.badSyms (st : Stack) (line cw : Nat) : List Nat :=
  let cell := ((st.bad.filter fun b => b.line = line ∧ b.cw = cw).map (·.sym)).eraseDups
  cell ++ ((st.wrongBytes line).filter fun i => decide (i / 32 = cw) && !cell.contains (i % 32)).map (· % 32)

/-- One ECC pass over a codeword of a line (12 R235): false when it is uncorrectable. A corrected codeword is rewritten,
which clears soft errors, and every finding is logged. -/
def State.eccCodeword (s : State) (k line cw : Nat) : Bool × State :=
  let st := s.stack k
  let rec0 := s.eccRec k line cw
  match st.badSyms line cw with
  | [] => (true, s)
  | [b] =>
    let s1 := s.setStack k { st with bad := st.bad.filter fun x => !(decide (x.line = line ∧ x.cw = cw) && x.soft) }
    (true, (s1.log k { rec0 with sym := b, flags := rec0.flags + 1 }).dieEvent (32 + k) 12 1)
  | _ => (false, s.log k { rec0 with kind := 1 })

/-- The record of a line that cannot be read whole. -/
def State.lostRec (s : State) (k line : Nat) : LogRec := { seq := 0, kind := 1, pch := pchOf line, pa := s.linePa k line }

/-- ECC over the four codewords of a line: false when any is uncorrectable, or the line could not be rebuilt (12 R238). -/
def State.eccLine (s : State) (k line : Nat) : Bool × State :=
  let st := s.stack k
  if st.bad.isEmpty && st.lost.isEmpty && st.busClean line then (true, s)
  else if line ∈ st.lost then (false, s.log k (s.lostRec k line))
  else [0, 1, 2, 3].foldl (fun (a : Bool × State) cw => let r := a.2.eccCodeword k line cw; (a.1 && r.1, r.2)) (true, s)

/-- The lines the array reads for a line of a block: all k lines of a class-k block, else the line alone (12 R232). -/
def Stack.readSet (st : Stack) (line : Nat) : List Nat :=
  let k := st.classAt (line / 4)
  if k = 4 then [line] else (List.range k).map fun i => line / 4 * 4 + i

/-- Read one line of the array: over its bus, then through ECC. -/
def State.readLine (s : State) (k line : Nat) : Bool × State :=
  let b := s.busRead k line
  if b.1 then b.2.eccLine k line else b

/-- Read lines of the array: false when any of them cannot be read. -/
def State.readLines (s : State) (k : Nat) (ls : List Nat) : Bool × State :=
  ls.foldl (fun (a : Bool × State) l => let r := a.2.readLine k l; (a.1 && r.1, r.2)) (true, s)

/-- Clear the soft errors of the codewords that a write stores afresh (12 R235). -/
def State.fresh (s : State) (k : Nat) (hit : BadSym → Bool) : State :=
  let st := s.stack k
  if st.bad.isEmpty then s else s.setStack k { st with bad := st.bad.filter fun b => !(b.soft && hit b) }

/-- The plaintext of a 512-byte block under a key. -/
def State.blockBytes (s : State) (k block kid : Nat) : List Byte := s.bytesUnder kid (s.linePa k (block * 4)) 512

/-- Store a block's size class after a write (12 R232). -/
def State.reclass (s : State) (k block kid : Nat) (compress : Bool) : State :=
  s.modStack k fun st =>
    if compress then
      let bs := s.blockBytes k block kid
      let c := if bs.all (· == 0#8) then 1 else (Config.sizeClass bs).val
      if c = 4 ∨ c = 0 then { st with classes := alDel block st.classes } else { st with classes := alSet block c st.classes }
    else { st with classes := alDel block st.classes }

/-- A line moves into the reserve: its faulty cells and its lanes stay behind (12 R238). -/
def Stack.toReserve (st : Stack) (line : Nat) : Stack :=
  { st with lost := st.lost.erase line, moved := line :: st.moved, bad := st.bad.filter fun b => b.line ≠ line }

/-- A line is stored afresh; one that could not be rebuilt moves into the reserve (12 R238). -/
def State.storeWhole (s : State) (k line : Nat) : State :=
  if line ∈ (s.stack k).lost ∧ pchOf line ∈ (s.stack k).retired then s.modStack k fun st => st.toReserve line
  else s.fresh k fun b => b.line = line

/-- Store a block anew in its size class: the lines it then lies in are stored afresh (12 R232, R235, R238). -/
def State.storeBlock (s : State) (k block kid : Nat) (compress : Bool) : State :=
  let s1 := s.reclass k block kid compress
  (List.range ((s1.stack k).classAt block)).foldl (fun s i => s.storeWhole k (4 * block + i)) s1

/-- A write to a line is a read-modify-write of its block (12 R233). -/
def Stack.rmw (st : Stack) (line : Nat) (compress : Bool) : Bool := compress || st.classAt (line / 4) != 4

/-- The array's part of a write to one line (12 R233, R235): false when a read it calls for meets an uncorrectable codeword;
then nothing is stored. off and n are the bytes written within the line. -/
def State.arrayWrite (s : State) (k line off n : Nat) (compress : Bool) : Bool × State :=
  let st := s.stack k
  if st.rmw line compress then
    let r := s.readLines k (if st.classAt (line / 4) = 4 then (List.range 4).map (line / 4 * 4 + ·) else st.readSet line)
    if r.1 then (true, r.2.fresh k fun b => b.line / 4 = line / 4) else (false, r.2)
  else if n = 128 then (true, s.storeWhole k line)
  else
    let part := [0, 1, 2, 3].filter fun cw => decide (off < 32 * cw + 32 ∧ 32 * cw < off + n) && !decide (off ≤ 32 * cw ∧ 32 * cw + 32 ≤ off + n)
    if !part.isEmpty && decide (line ∈ st.lost) then (false, s.log k (s.lostRec k line))
    else
      let b := if part.isEmpty then (true, s) else s.busRead k line
      if b.1 then
        let r := part.foldl (fun (a : Bool × State) cw => let x := a.2.eccCodeword k line cw; (a.1 && x.1, x.2)) (true, b.2)
        if r.1 then (true, r.2.fresh k fun b => b.line = line ∧ off < 32 * b.cw + 32 ∧ 32 * b.cw < off + n) else (false, r.2)
      else b

/-! ### The cache ways of the SRAM layer (12 R229–R231) -/

def Stack.uncache (st : Stack) (line : Nat) : Stack := { st with sram := st.sram.filter fun x => x.line ≠ line }

def Stack.cache (st : Stack) (x : SramLine) : Stack := { st.uncache x.line with sram := st.sram.filter (fun y => y.line ≠ x.line) ++ [x] }

/-- A line of a stack of this package, as a range of PAs. -/
def State.inLine (s : State) (k line a : Nat) : Bool := decide (s.linePa k line ≤ a) && decide (a < s.linePa k line + 128)

/-- What the array of a line holds: its listed cells. -/
def State.lineCells (s : State) (k line : Nat) : List Host.Cell := s.mem.filter fun c => s.inLine k line c.1

/-- The keys the units of a line are stored under. -/
def State.lineTags (s : State) (k line : Nat) : List (Nat × Nat) := s.tags.filter fun c => s.inLine k line (16 * c.1)

/-- Put back what the array of a line held behind a dirty copy. -/
def State.revertLine (s : State) (k line : Nat) (x : SramLine) : State :=
  let m := s.mem.filter fun c => !s.inLine k line c.1
  let t := s.tags.filter fun c => !s.inLine k line (16 * c.1)
  { s with mem := x.behind.foldl (fun m c => Memory.write m c.1 c.2) m, tags := x.behindTags.foldl (fun m c => alSet c.1 c.2 m) t }

/-- A line's block is stored afresh as a read-modify-write stores it: its units under one key (12 R233, R234). -/
def State.retagBlock (s : State) (k line kid : Nat) : State := s.retag kid (s.linePa k (line / 4 * 4) / 16) 32

/-- Write a cached line back and drop it (12 R229, R232, R243): false when the write-back met an uncorrectable block; then
the array keeps its stored form. -/
def State.writeBack (s : State) (k line : Nat) : Bool × State :=
  match (s.stack k).cached line with
  | none => (true, s)
  | some x =>
    if x.dirty then
      let rmw := (s.stack k).rmw line x.compress
      let r := s.arrayWrite k line 0 128 x.compress
      if r.1 then
        let s1 := r.2.modStack k fun st => st.uncache line
        (true, match s.keyId x.key with
          | some kid => if rmw then (s1.retagBlock k line kid).storeBlock k (line / 4) kid x.compress else s1
          | none => s1)
      else (false, (r.2.modStack k fun st => st.uncache line).revertLine k line x)
    else (true, s.modStack k fun st => st.uncache line)

/-- Write a cached line back and drop it; the owner to tell of a failed write-back, with the line's PA (12 R243). -/
def State.evict (s : State) (k line : Nat) : List (Nat × Nat) × State :=
  let r := s.writeBack k line
  (if r.1 then [] else match (s.stack k).cached line with
    | some x => match x.owner with
      | some c => [(c, s.linePa k line)]
      | none => []
    | none => [], r.2)

/-- What an access to one line does before its data moves: a line cached under another key slot is written back first
(12 R229). -/
def State.rekeyLine (s : State) (k line slot : Nat) : List (Nat × Nat) × State :=
  match (s.stack k).cached line with
  | none => ([], s)
  | some x => if x.key = slot then ([], s) else s.evict k line

/-- Ways of each bank that take cached lines: those of the split in force and of every split on its way (12 R230, R231). -/
def Die.cacheWays (d : Die) : Nat := d.splitTo.foldl (fun w x => min w x.2.2) d.split

/-- Cached lines of the bank of a line's block slice (12 R229). -/
def Stack.bankLines (st : Stack) (line : Nat) : List SramLine := st.sram.filter fun x => pchOf (x.line / 4 * 4) = pchOf (line / 4 * 4)

/-- Make room for one more line in its bank's ways of 2048 sets, the oldest line leaving (12 R229; log 5): whether it may be
allocated, and the owners of failed write-backs. -/
def State.cacheRoom (s : State) (k line : Nat) : Bool × List (Nat × Nat) × State :=
  let w := (s.die (32 + k)).cacheWays
  if w = 0 then (false, [], s)
  else if (s.stack k).sram.length < 2048 * w then (true, [], s)
  else match (s.stack k).bankLines line with
    | [] => (true, [], s)
    | x :: r => if r.length + 1 < 2048 * w then (true, [], s) else
      let e := s.evict k x.line
      (true, e.1, e.2)

/-- Outcome of an access at a home. -/
structure HomeRes where
  ok : Bool
  lost : List (Nat × Nat) := []        -- failed write-backs: the owning context and the line's PA
  st : State

/-- Read access to one line at its home slice (12 R229, R235, R242). -/
def State.homeRead (s : State) (pa slot : Nat) (alloc : Bool) : HomeRes :=
  if pkgOf pa ≠ s.fab.pkg then { ok := true, st := s }
  else
    let k := stackOf pa
    let line := lineOf pa
    let r := s.rekeyLine k line slot
    match (r.2.stack k).cached line with
    | some _ => { ok := true, lost := r.1, st := r.2 }
    | none =>
      let e := r.2.readLines k ((r.2.stack k).readSet line)
      if e.1 && alloc then
        let c := e.2.cacheRoom k line
        { ok := true, lost := r.1 ++ c.2.1, st := if c.1 then c.2.2.modStack k fun st => st.cache { line := line, key := slot, dirty := false } else c.2.2 }
      else { ok := e.1, lost := r.1, st := e.2 }

/-- Write bytes of one line into the array (12 R233). -/
def State.writeArray (s : State) (pa kid : Nat) (compress : Bool) (bytes : List Byte) : Bool × State :=
  let k := stackOf pa
  let line := lineOf pa
  let rmw := (s.stack k).rmw line compress
  let e := s.arrayWrite k line (pa % 128) bytes.length compress
  if e.1 then
    if rmw then (true, ((e.2.retagBlock k line kid).putGlobal kid pa bytes).storeBlock k (line / 4) kid compress)
    else (true, e.2.putGlobal kid pa bytes)
  else e

/-- Write bytes into the cached copy of a line; a clean copy keeps behind it what the array holds (12 R229, R243). -/
def State.writeCached (s : State) (pa kid : Nat) (x : SramLine) (compress : Bool) (owner : Option Nat) (bytes : List Byte) : State :=
  (s.modStack (stackOf pa) fun st => st.cache { x with
    dirty := true, owner := owner, compress := compress,
    behind := if x.dirty then x.behind else s.lineCells (stackOf pa) (lineOf pa),
    behindTags := if x.dirty then x.behindTags else s.lineTags (stackOf pa) (lineOf pa) }).putGlobal kid pa bytes

/-- Write access to bytes within one line at its home slice: the array or the cached copy takes the bytes. A default write
that misses allocates its line, reading the rest of it; where that read fails, or the bank has no cache way, the array takes
the bytes (12 R229; log 109). -/
def State.lineWrite (s : State) (pa slot : Nat) (alloc compress : Bool) (owner : Option Nat) (bytes : List Byte) : HomeRes :=
  let kid := (s.keyId slot).getD 0
  let k := stackOf pa
  let line := lineOf pa
  let r := s.rekeyLine k line slot
  match (r.2.stack k).cached line with
  | some x => { ok := true, lost := r.1, st := r.2.writeCached pa kid x compress owner bytes }
  | none =>
    let c := if alloc then r.2.cacheRoom k line else (false, [], r.2)
    let lost := r.1 ++ c.2.1
    let f := if c.1 && bytes.length != 128 then c.2.2.readLines k ((c.2.2.stack k).readSet line) else (c.1, c.2.2)
    if f.1 then { ok := true, lost := lost, st := f.2.writeCached pa kid { line := line, key := slot, dirty := false } compress owner bytes }
    else
      let w := f.2.writeArray pa kid compress bytes
      { ok := w.1, lost := lost, st := w.2 }

/-- One line of a write of its whole block: the cached copy takes it, or a new one where the write allocates; else it is left to
the array, which needs no read for it (12 R229, R233). The lines left to the array, the owners of failed write-backs. -/
def State.blockLine (s : State) (pa slot : Nat) (alloc compress : Bool) (owner : Option Nat) (bytes : List Byte) : Bool × List (Nat × Nat) × State :=
  let kid := (s.keyId slot).getD 0
  let k := stackOf pa
  let line := lineOf pa
  let r := s.rekeyLine k line slot
  match (r.2.stack k).cached line with
  | some x => (false, r.1, r.2.writeCached pa kid x compress owner bytes)
  | none =>
    let c := if alloc then r.2.cacheRoom k line else (false, [], r.2)
    if c.1 then (false, r.1 ++ c.2.1, c.2.2.writeCached pa kid { line := line, key := slot, dirty := false } compress owner bytes)
    else (true, r.1 ++ c.2.1, c.2.2.putGlobal kid pa bytes)

/-- Write access to the 512 bytes of a block at its slice: one full write, which reads nothing (12 R233). -/
def State.blockWrite (s : State) (pa slot : Nat) (alloc compress : Bool) (owner : Option Nat) (bytes : List Byte) : HomeRes :=
  let k := stackOf pa
  let rmw := (s.stack k).rmw (lineOf pa) compress
  let r := [0, 1, 2, 3].foldl (fun (a : List Nat × List (Nat × Nat) × State) i =>
    let x := a.2.2.blockLine (pa + 128 * i) slot alloc compress owner ((bytes.drop (128 * i)).take 128)
    (if x.1 then a.1 ++ [lineOf pa + i] else a.1, a.2.1 ++ x.2.1, x.2.2)) ([], [], s)
  { ok := true, lost := r.2.1, st :=
      if r.1.isEmpty then r.2.2
      else if rmw then r.2.2.storeBlock k (lineOf pa / 4) ((s.keyId slot).getD 0) compress
      else r.1.foldl (fun s l => s.storeWhole k l) r.2.2 }

/-- Write access at the home slice to bytes within one line, or to the 512 bytes of a block. -/
def State.homeWrite (s : State) (pa slot : Nat) (alloc compress : Bool) (owner : Option Nat) (bytes : List Byte) : HomeRes :=
  if pkgOf pa ≠ s.fab.pkg then { ok := true, st := s.putGlobal ((s.keyId slot).getD 0) pa bytes }
  else if bytes.length = 512 then s.blockWrite pa slot alloc compress owner bytes
  else s.lineWrite pa slot alloc compress owner bytes

end Sys2Proof.Machine
end

