-- ==== Sys2Proof/Machine/Operands.lean ====
section
/-!
DEFINITION. Operand forms: tagged pointers and their addition (02 R43, R44; 04 R71), offsets and immediates (01 R12),
transfer targets (01 R10).
-/
namespace Sys2Proof.Machine

/-- Space code of a pointer (04 R71). -/
def spaceOf (p : Word) : Nat := p.toNat / 2 ^ 60
/-- Rank field of a pointer. -/
def rankField (p : Word) : Nat := p.toNat / 2 ^ 48 % 4096
/-- Offset of a pointer outside GLOBAL. -/
def offOf (p : Word) : Nat := p.toNat % 2 ^ 48

/-- A pointer from its parts (04 R71). -/
def mkPtr (space rank off : Nat) : Word := BitVec.ofNat 64 (space * 2 ^ 60 + rank * 2 ^ 48 + off)

/-- ptr_add (02 R44): none is the precise ADDR_RANGE. -/
def ptrAdd (p : Word) (n : Int) : Option Word :=
  if spaceOf p = 0 then
    let o : Int := Int.ofNat (p.toNat % 2 ^ 60) + n
    if o < 0 ∨ 2 ^ 57 ≤ o then none else some (BitVec.ofNat 64 o.toNat)
  else
    let o : Int := Int.ofNat (offOf p) + n
    if o < 0 ∨ 2 ^ 48 ≤ o then none else some (BitVec.ofNat 64 (p.toNat / 2 ^ 48 * 2 ^ 48 + o.toNat))

/-- A transfer target passes R10: bits 1:0 and 63:60 are zero. -/
def targetOk (t : Word) : Bool := t.toNat % 4 == 0 && spaceOf t == 0

/-- A return or resume position passes R10 but for bit 1 (22 R352). -/
def resumeOk (t : Word) : Bool := t.toNat % 2 == 0 && spaceOf t == 0

/-- Sign extension to 64 bits. -/
def sext (n : Nat) (v : BitVec n) : Word := v.signExtend 64
/-- Zero extension to 64 bits. -/
def zext (n : Nat) (v : BitVec n) : Word := v.setWidth 64

/-- The 64-bit value of imm20 ‖ 0x000 (02 R39). -/
def immUpper (i : BitVec 20) : Word := (i ++ 0#12).signExtend 64

/-- A branch offset: a signed count of words (01 R12). -/
def branchOff {n : Nat} (o : BitVec n) : Word := o.signExtend 64 * 4#64

/-- A scaled memory offset (02 R50). -/
def scaledOff (o : BitVec 6) (size : Nat) : Int := o.toInt * size

/-- The even register of a pair whose number is stored without its low bit. -/
def pairReg (b : BitVec 5) : RegNo := BitVec.ofNat 6 (b.toNat * 2)
/-- The register after another. -/
def nextReg (r : RegNo) : RegNo := r + 1#6

/-- fetch, load, store or atomic, for translation and permission (04 Table 27). -/
inductive AccKind where
  | load
  | store
  | atomic
  | fetch
deriving DecidableEq, Repr

def AccKind.writes : AccKind → Bool
  | .store => true
  | .atomic => true
  | _ => false

/-- The two checks of 02 R51 on a pointer's space that do not depend on the address; the cause of the fault. -/
def spaceFault (p : Word) (kind : AccKind) : Option Nat :=
  let sp := spaceOf p
  if 5 ≤ sp then some 0x005
  else if sp = 3 then some 0x005
  else if sp = 4 ∧ kind ≠ .load then some 0x005
  else if sp = 0 ∧ p.toNat / 2 ^ 57 ≠ 0 then some 0x004
  else none

/-- The stronger of two cache policies: default, then stream, then bypass (04 R83). -/
def strongerPol (a b : Nat) : Nat := max a b

/-- The cause numbers of 24 Table 125. -/
def cFETCH_ADDR := 0x001
def cILLEGAL := 0x002
def cDIV_ZERO := 0x003
def cADDR_RANGE := 0x004
def cADDR_SPACE := 0x005
def cMISALIGNED := 0x006
def cRANK_INVALID := 0x007
def cSPACE_BOUND := 0x008
def cRANK_PERM := 0x009
def cWATCH := 0x00A
def cSOFT_TRAP := 0x00B
def cBREAK := 0x00C
def cCR_PERM := 0x00D
def cKERNEL_HEADER := 0x00E
def cFABRIC := 0x00F
def cTRANS_INVALID := 0x010
def cTRANS_FORMAT := 0x011
def cKEY_INVALID := 0x012
def cPERM := 0x013
def cUNCORR_READ := 0x020
def cUNCORR_WRITE := 0x021
def cFORMAT := 0x030
def cTILE := 0x031
def cOPERAND := 0x032
def cBOUNDS := 0x033
def cSUBSCR_FULL := 0x034
def cWB_UNLOADED := 0x035
def cPOS_RANGE := 0x036
def cPAIR_ABANDON := 0x037
def cPAIR_MISMATCH := 0x038
def cSYNC_FULL := 0x040
def cSYNC_KIND := 0x041
def cSYNC_BUSY := 0x042
def cCONT_POOL := 0x043
def cCHK_STATE := 0x044
def cCONT_FORMAT := 0x045
def cCONT_VERSION := 0x046
def cCONT_KEY := 0x047
def cCONT_STATE := 0x048
def cCONT_CLASS := 0x049
def cCONT_INFLIGHT := 0x04A
def cSTREAM_INVALID := 0x050
def cSTREAM_STATE := 0x051
def cSTREAM_POS := 0x052
def cLATE_FRAME := 0x053
def cKV_EXHAUSTED := 0x054
def cSLUICE_ABORT := 0x055
def cSLUICE_STALLED := 0x056
def cTRAP_LEVEL := 0x070
def cDOUBLE_FATAL := 0x071
def cUNDO_OVERFLOW := 0x072
def cRESTART_LIMIT := 0x073
def cHANDLER_KILL := 0x074
def cROLLED_BACK := 0x075
def cHOST_KILL := 0x076
def cCORE_LOST := 0x077

end Sys2Proof.Machine
end

