-- ==== Sys2Proof/Machine/Flags.lean ====
section
/-!
DEFINITION. The part has no condition flags; this file holds the fields that words and traps compute into status
words: TCAUSE (22 Table 115), the packed cause (24 R380), trap records (24 Tables 127, 128) and the core event counters
(22 R357).
-/
namespace Sys2Proof.Machine

/-- TCAUSE of a precise fault or an engine fault (22 Table 115). -/
def tcauseOf (cause : Nat) (prec : Bool) (eng : Nat) (rpl : Bool) (status : BitVec 32) : Word :=
  BitVec.ofNat 64 (status.toNat * 2 ^ 32 + eng * 2 ^ 29 + (if rpl then 2 ^ 28 else 0) + (if prec then 2 ^ 27 else 0) + cause)

/-- Packed cause form: TCAUSE[31:27] ‖ TCAUSE[10:0] (24 R380). -/
def packedCause (t : Word) : Nat := t.toNat / 2 ^ 27 % 32 * 2 ^ 11 + t.toNat % 2 ^ 11

/-- UNIT of a record, and RANK: rank in bits 11:0, class in bits 13:12 (22 Table 114). -/
def rankWord (rank : Nat) : Nat := rank + classOf rank * 2 ^ 12

/-- A record's header (24 Table 127); LOST is filled when the record lands. -/
def recHeader (kind tlevel action packed unit : Nat) : List Byte :=
  bytesOf 1 (kind + tlevel * 16) ++ bytesOf 1 action ++ bytesOf 2 packed ++ bytesOf 2 unit ++ bytesOf 2 0

/-- Memory report: KIND 2 (24 Table 128). -/
def recMemory (tlevel unit cause addr size time : Nat) : List Byte :=
  recHeader 2 tlevel 0 cause unit ++ bytesOf 8 addr ++ bytesOf 2 size ++ bytesOf 6 0 ++ bytesOf 8 time ++ bytesOf 32 0

/-- Watch report: KIND 3. -/
def recWatch (tlevel unit addr size num cls ident time : Nat) : List Byte :=
  recHeader 3 tlevel 0 cWATCH unit ++ bytesOf 8 addr ++ bytesOf 2 size ++ bytesOf 1 num ++ bytesOf 1 cls ++ bytesOf 4 ident
    ++ bytesOf 8 time ++ bytesOf 32 0

/-- Engine-fault record: KIND 1. -/
def recEngine (tlevel unit packed status idx num addr word attached pos time : Nat) : List Byte :=
  recHeader 1 tlevel 0 packed unit ++ bytesOf 4 status ++ bytesOf 4 idx ++ bytesOf 8 num ++ bytesOf 8 addr ++ bytesOf 4 word
    ++ bytesOf 4 attached ++ bytesOf 8 pos ++ bytesOf 8 time ++ bytesOf 8 0

/-- Sluice record: KIND 4. -/
def recSluice (cause chan xid reason addr time : Nat) : List Byte :=
  recHeader 4 0 0 cause 0 ++ bytesOf 8 chan ++ bytesOf 2 xid ++ bytesOf 1 reason ++ bytesOf 5 0 ++ bytesOf 8 addr
    ++ bytesOf 8 time ++ bytesOf 24 0

/-- Stream record: KIND 5. -/
def recStream (cause ptr anchor c version time : Nat) : List Byte :=
  recHeader 5 0 0 cause 0 ++ bytesOf 8 ptr ++ bytesOf 4 anchor ++ bytesOf 4 c ++ bytesOf 4 version ++ bytesOf 4 0
    ++ bytesOf 8 time ++ bytesOf 24 0

/-- Add n to the core event counters that select a code (22 R357). -/
def Ctl.countEvent (c : Ctl) (code n : Nat) : Ctl :=
  if c.evsel = 0#64 then c
  else { c with evcnt := Vector.ofFn fun i =>
    if c.evsel.toNat / 2 ^ (8 * i.val) % 256 = code then c.evcnt[i] + BitVec.ofNat 64 n else c.evcnt[i] }

def Core.countEvent (c : Core) (code n : Nat) : Core := { c with ctl := c.ctl.countEvent code n }

end Sys2Proof.Machine
end

