-- ==== Sys2Proof/Machine/Route.lean ====
section
/-!
DEFINITION. Ways through the package and out of it: the fixed routes between dies and their links (21 R334, R335), the
requests over the fabric (21 R347–R349), and the gate of an access that the part itself makes.
-/
namespace Sys2Proof.Machine

/-! ## Links and routes -/

/-- D-dies that are mesh neighbours (00 R1, R2). -/
def neighbours (die : Nat) : List Nat :=
  let r := (die - 32) / 8
  let c := (die - 32) % 8
  (if 0 < r then [die - 8] else []) ++ (if 0 < c then [die - 1] else []) ++ (if c < 7 then [die + 1] else [])
    ++ (if r < 3 then [die + 8] else [])

/-- The quadrant of a die (00 R1, R2). -/
def quadrantOf (die : Nat) : Nat := if isPDie die then die else 2 * ((die - 32) / 8 / 2) + (die - 32) % 8 / 4

/-- Two dies of the package are joined by a link: a P-die and a D-die of its quadrant, or mesh neighbours (00 R3). -/
def linked (a b : Nat) : Bool :=
  isDie a && isDie b && (if isPDie a then !isPDie b && quadrantOf b == a
    else if isPDie b then quadrantOf a == b
    else (neighbours a).contains b)

/-- A mesh route moves along its row until the column matches, then along its column (21 R335). -/
def meshRoute (to_ : Nat) : Nat → Nat → List Nat
  | 0, d => [d]
  | f + 1, d =>
    let c := (d - 32) % 8
    let c' := (to_ - 32) % 8
    if d = to_ then [d]
    else d :: meshRoute to_ f (if c < c' then d + 1 else if c' < c then d - 1 else if d < to_ then d + 8 else d - 8)

/-- The D-die of quadrant q nearest to a D-die (21 R335). -/
def nearestIn (q die : Nat) : Nat :=
  let clamp := fun (lo hi x : Nat) => max lo (min hi x)
  32 + 8 * clamp (2 * (q / 2)) (2 * (q / 2) + 1) ((die - 32) / 8) + clamp (4 * (q % 2)) (4 * (q % 2) + 3) ((die - 32) % 8)

/-- D-dies by least distance to a quadrant, ties to the lowest: the end of a route between two P-dies (21 Table 110). -/
def borderOf (q q' : Nat) : Nat :=
  let dist := fun (a b : Nat) => (meshRoute b 16 a).length
  ((List.range 32).filter fun i => quadrantOf (32 + i) = q).foldl (fun best i =>
    if dist (32 + i) (nearestIn q' (32 + i)) < dist best (nearestIn q' best) then 32 + i else best)
    (32 + 16 * (q / 2) + 4 * (q % 2))

/-- The dies of the fixed route between two dies (21 Table 110). -/
def route (a b : Nat) : List Nat :=
  if a = b then [a]
  else match isPDie a, isPDie b with
  | false, false => meshRoute b 16 a
  | true, false => a :: meshRoute b 16 (nearestIn a b)
  | false, true => (b :: meshRoute a 16 (nearestIn b a)).reverse
  | true, true => a :: meshRoute (nearestIn b (borderOf a b)) 16 (borderOf a b) ++ [b]

/-- The links of a route, each by its two dies, the lower first. -/
def routeLinks (l : List Nat) : List (Nat × Nat) := (l.zip l.tail).map fun x => (min x.1 x.2, max x.1 x.2)

/-- Every link of the route between two dies is up. The part does not route around a dead one (21 R334), so what must cross
it is held (DEDUCED, log 126). -/
def State.reaches (s : State) (a b : Nat) : Bool :=
  s.fab.linksDown.isEmpty || !((routeLinks (route a b)).any fun l => s.fab.linksDown.contains l)

/-- A unit's accesses to a place are held by a dead link of their route: one to another package leaves through the port on its
stack's die (21 R349). -/
def State.cutOff (s : State) (rank : Nat) (loc : Loc) : Bool :=
  let own := dieOf rank
  !s.reaches own (match loc with
    | .global pa _ => homeDie pa
    | .shared d _ => d
    | .lcl r _ => dieOf r
    | .stream _ _ => own)

/-! ## Requests to other packages -/

/-- A place in another package (21 R347). -/
def State.isRemote (s : State) (loc : Loc) : Bool := match loc with
  | .global pa _ => decide (pkgOf pa ≠ s.fab.pkg)
  | _ => false

/-- The plane a request for a stack of another package takes: the stack's own, or after its failure the next one, once
nothing is outstanding on the failed plane (21 R349). -/
def State.planeFor (s : State) (stack : Nat) : Option Nat :=
  if !(s.fab.failed.contains stack) then some stack
  else if s.fab.outstanding.any fun q => q.port % 32 = stack && !q.failed && !q.answered then none
  else some ((stack + 1) % 32)

/-- Send a request under the next sequence number of its two ports (21 R347); the same state while no plane takes it. -/
def State.askFor (s : State) (rank ctx : Nat) (loc : Loc) (n : Nat) (use : FabUse) : State :=
  match loc with
  | .global pa _ => match s.planeFor (stackOf pa) with
    | none => s
    | some plane =>
      let port := pkgOf pa * 32 + plane
      let seq := (alGet port s.fab.seqs).getD 0
      let q : FabReq := { id := s.fab.nextId, port := port, seq := seq, rank := rank, ctx := ctx, loc := loc, size := n, use := use }
      { s with fab := { s.fab with outstanding := s.fab.outstanding ++ [q], seqs := alSet port (seq + 1) s.fab.seqs, nextId := s.fab.nextId + 1 } }
  | _ => s

/-- A PA of another package that the fabric port refuses for a context (21 R348). -/
def State.portRefuses (s : State) (ctx pa : Nat) : Bool :=
  decide (pkgOf pa ≠ s.fab.pkg) && !(decide (pkgOf pa ∈ s.fab.domain) && (match s.ctx? ctx with
    | some c => c.pmask.getLsbD (pkgOf pa)
    | none => false))

/-! ## Accesses of the part itself -/

/-- The turn cannot go on: an access that it makes is held. `step` takes the whole turn back (log 132). -/
def State.hold (s : State) : State := { s with held := true }

/-- An access that a walker, a Headgate, a synchronisation engine or a sluice makes from a die to n bytes at a PA, for a
context: false when the port refuses it or its request has expired (21 R348). One that a dead link cuts off is held (21
R334), and one to another package until its request has been answered (21 R347; log 132). -/
def State.partGate (s : State) (die ctx pa n : Nat) : Bool × State :=
  if !s.reaches die (homeDie pa) then (true, s.hold)
  else if pkgOf pa = s.fab.pkg then (true, s)
  else if s.portRefuses ctx pa then (false, s)
  else
    let loc : Loc := .global pa {}
    match s.fab.outstanding.find? fun q => q.use == .part die && decide (q.ctx = ctx) && q.loc == loc && decide (q.size = n) with
    | none => (true, (s.askFor 0 ctx loc n (.part die)).hold)
    | some q => (!q.failed, { s with fab := { s.fab with outstanding := s.fab.outstanding.map fun y =>
        if y.id = q.id then { y with answered := true, used := true } else y } })

/-- A turn that is held has not happened, but the requests that its accesses have sent are on their way. -/
def State.takeBack (s after : State) : State :=
  let sent := after.fab.outstanding.filter fun q => decide (s.fab.nextId ≤ q.id) && q.use != .load
  { s with held := false,
           fab := { s.fab with
             outstanding := s.fab.outstanding.map (fun q => { q with answered := q.answered || after.fab.outstanding.any fun y => decide (y.id = q.id) && y.answered })
               ++ sent.map fun q => { q with used := false }
             seqs := after.fab.seqs, nextId := after.fab.nextId } }

/-- A turn that was not held is done with the requests of its own accesses. -/
def State.partDone (s : State) : State :=
  if s.fab.outstanding.any (·.used) then { s with fab := { s.fab with outstanding := s.fab.outstanding.filter fun q => !q.used } } else s

/-- Something that the part does of its own accord; while an access of it is held it has not happened, and it is tried again. -/
def State.attempt (s : State) (f : State → State) : State :=
  let t := f s
  if t.held then s.takeBack t else t.partDone

end Sys2Proof.Machine
end

