-- ==== Sys2Proof/Machine/Xlate.lean ====
section
/-!
DEFINITION. Performing a write at its point (05 Table 29): watch reports (05 R111–R113) and pushes (07 R146); page walks
and translation (04 R80–R90); rank checks (04 R72–R77).
-/
namespace Sys2Proof.Machine

/-- Who writes: class and identity of 05 Table 33, the context it acts for, and the rank whose front end it is. -/
structure Writer where
  cls : Nat
  ident : Nat
  ctx : Option Nat
  frontEnd : Option Nat := none
  unit : Option Nat := none            -- the unit it acts for, whose step's undo list it feeds (14 R258)
  step : Option (Nat × Nat) := none    -- the step it writes for, where no unit carries it any longer
  quiet : Bool := false                -- a restoring write, which no watchpoint reports (24 R391)
  owner : Option Nat := none           -- of a write that acts for no context: the context that owns the key slot (12 R243)

/-- Queue a record for a context's trap queue (24 R379). -/
def State.report (s : State) (ctx : Nat) (r : List Byte) (sig : Bool := true) : State :=
  s.modCtx ctx fun c => if c.killed then c else { c with records := c.records ++ [(r, sig)] }

/-- A memory report (24 R381, KIND 2); `who`: the unit concerned, by rank and trap level. An uncorrectable fault while the
context's interval is open makes no record: the context is due to be rolled back (24 R393). -/
def State.reportMem (s : State) (ctx : Nat) (who : Option (Nat × Nat)) (cause addr size : Nat) (sig : Bool := true) : State :=
  match s.ctx? ctx with
  | none => s
  | some c =>
    if c.ckptOpen && !c.killed && (cause == cUNCORR_READ || cause == cUNCORR_WRITE) then
      if c.dataFault.isSome then s else s.setCtx ctx { c with dataFault := some { cause := cause, addr := addr, rank := who.map (·.1) } }
    else s.report ctx (recMemory ((who.map (·.2)).getD 0) ((who.map fun x => rankWord x.1).getD 0) cause addr size s.time) sig

/-- The bytes a write shares with a watched range: its lowest matched byte. -/
def overlapLow (a n b m : Nat) : Option Nat :=
  if a < b + m ∧ b < a + n then some (max a b) else none

/-- Watch reports of a write at a GLOBAL or SHARED point (05 R111, R112). -/
def State.watchReports (s : State) (die : Nat) (shared : Bool) (at_ n : Nat) (w : Writer) : State :=
  (s.die die).slices.foldl (fun s x =>
    if x.shared = shared ∧ w.frontEnd ≠ some x.rank then
      match overlapLow at_ n x.start x.len with
      | some lo => s.report x.ctx (recWatch (s.unitAt x.rank).ctl.tlevel.toNat (rankWord x.rank)
          (x.va.toNat + (lo - x.start)) n x.num w.cls w.ident s.time)
      | none => s
    else s) s

/-- Pushes of one line that a write has touched at its home, carrying the line after the write (07 R146). RESYNC is set on
the first push made with a free slot (DESIGN CHOICE, log 116: 07 R148 does not say whether the first push that lands is the
first by number). -/
def State.pushLine (s : State) (line : Nat) (w : Writer) : State :=
  let die := homeDie line
  let r := (s.die die).subs.foldl (fun (acc : List HomeSub × List PushMsg) h =>
    match overlapLow line 128 h.pa h.len with
    | none => (acc.1 ++ [h], acc.2)
    | some _ =>
      if h.free = 0 then (acc.1 ++ [{ h with count := h.count + 1, drop := min (h.drop + 1) (2 ^ 32 - 1) }], acc.2)
      else (acc.1 ++ [{ h with count := h.count + 1, free := h.free - 1, drop := 0, resync := false }],
        acc.2 ++ [{ ctx := h.ctx, rank := h.rank, slot := h.slot, ring := h.ring, index := h.count, drop := h.drop,
                    resync := h.resync, line := s.bytesUnder h.key line 128,
                    va := h.va + BitVec.ofNat 64 (line - h.pa), cls := w.cls, ident := w.ident }])) ([], [])
  { (s.modDie die fun d => { d with subs := r.1 }) with pushes := s.pushes ++ r.2 }

/-- Pushes of a write of n bytes at its home: one per subscribed line touched (07 R146). -/
def State.makePushes (s : State) (pa n : Nat) (w : Writer) : State :=
  if (s.die (homeDie pa)).subs.isEmpty then s
  else (List.range ((pa % 128 + n + 127) / 128)).foldl (fun s i => s.pushLine (pa / 128 * 128 + 128 * i) w) s

/-- Tell the contexts that own lines that their write-backs failed (12 R243). -/
def State.lostLines (s : State) (l : List (Nat × Nat)) : State :=
  l.foldl (fun s x => s.reportMem x.1 none cUNCORR_WRITE x.2 128) s

/-- One write of GLOBAL memory at its home slice, within one line or of a whole block: storage, one watch report for each
watchpoint, and pushes (those of a home of this package). False when the home's read-modify-write failed (12 R243). -/
def State.performPiece (s : State) (w : Writer) (pa : Nat) (attr : PageAttr) (alloc : Bool) (bytes : List Byte) : Bool × State :=
  let r := s.homeWrite pa attr.key alloc attr.compress (w.owner <|> w.ctx) bytes
  let s1 := r.st.lostLines r.lost
  if r.ok then
    let s2 := if w.quiet then s1 else s1.watchReports (homeDie pa) false pa bytes.length w
    (true, if pkgOf pa = s.fab.pkg then s2.makePushes pa bytes.length w else s2)
  else (false, s1)

/-- Cut bytes at line boundaries. -/
def linePieces : Nat → Nat → List Byte → List (Nat × List Byte)
  | 0, _, _ => []
  | f + 1, pa, bs =>
    if bs.isEmpty then []
    else
      let n := 128 - pa % 128
      (pa, bs.take n) :: linePieces f (pa + n) (bs.drop n)

/-- Cut bytes into what reaches a home slice as one write: the whole blocks they cover, and what is left at line boundaries
(12 R233; log 112). -/
def writePieces : Nat → Nat → List Byte → List (Nat × List Byte)
  | 0, _, _ => []
  | f + 1, pa, bs =>
    if bs.isEmpty then []
    else
      let n := if pa % 512 = 0 ∧ 512 ≤ bs.length then 512 else 128 - pa % 128
      (pa, bs.take n) :: writePieces f (pa + n) (bs.drop n)

/-- Write bytes of GLOBAL memory at their homes, a piece at a time; stops at the first failure. -/
def State.performRaw (s : State) (w : Writer) (pa : Nat) (attr : PageAttr) (alloc : Bool) (bytes : List Byte) : Bool × State :=
  (writePieces (bytes.length + 1) pa bytes).foldl (fun (a : Bool × State) p =>
    if a.1 then a.2.performPiece w p.1 attr alloc p.2 else a) (true, s)

/-- Read bytes of GLOBAL memory at their homes: none on an uncorrectable read, with the line's PA. -/
def State.readHome (s : State) (pa : Nat) (attr : PageAttr) (alloc : Bool) (n : Nat) : Except Nat (List Byte) × State :=
  let lines := (List.range ((pa % 128 + n + 127) / 128)).map fun i => pa / 128 * 128 + 128 * i
  let r := lines.foldl (fun (a : Option Nat × State) l =>
    match a.1 with
    | some _ => a
    | none => let x := a.2.homeRead l attr.key alloc; (if x.ok then none else some l, x.st.lostLines x.lost)) (none, s)
  match r.1 with
  | some l => (.error l, r.2)
  | none => (.ok (r.2.bytesUnder ((s.keyId attr.key).getD 0) pa n), r.2)

/-! ## Page tables -/

/-- Index of a level in a virtual address (04 Table 24). -/
def levelIndex (va level : Nat) : Nat := match level with
  | 0 => va / 2 ^ 16 % 32
  | 1 => va / 2 ^ 21 % 512
  | 2 => va / 2 ^ 30 % 512
  | 3 => va / 2 ^ 39 % 512
  | _ => va / 2 ^ 48 % 512

/-- Page size of a leaf at a level, as a power of two. -/
def levelBits (level : Nat) : Nat := match level with
  | 0 => 16
  | 1 => 21
  | _ => 30

/-- What one table entry says (04 R81–R84). -/
inductive Entry where
  | bad (cause : Nat)
  | next (pa : Nat)
  | leaf (e : Nat)

def readEntry (e level : Nat) : Entry :=
  if !bitAt e 0 then .bad cTRANS_INVALID
  else if bitAt e 1 then
    if 3 ≤ level then .bad cTRANS_FORMAT
    else if bitsAt e 7 6 ≠ 0 ∨ bitsAt e 13 2 = 3 ∨ 191 < bitsAt e 41 8 then .bad cTRANS_FORMAT
    else if (level = 1 ∧ bitsAt e 16 5 ≠ 0) ∨ (level = 2 ∧ bitsAt e 16 14 ≠ 0) then .bad cTRANS_FORMAT
    else .leaf e
  else if level = 0 then .bad cTRANS_FORMAT
  else if bitsAt e 2 6 ≠ 0 ∨ bitsAt e 49 15 ≠ 0 ∨ 191 < bitsAt e 41 8 then .bad cTRANS_FORMAT
  else .next (bitsAt e 8 41 * 256)

/-- The attributes of a leaf (04 Table 26). -/
def leafAttr (e : Nat) : PageAttr :=
  { key := bitsAt e 52 12, far := bitAt e 51, logged := bitAt e 50, sysAtomic := bitAt e 49, compress := bitAt e 15, pol := bitsAt e 13 2 }

/-- The cached translation of a leaf. -/
def leafEntry (ctx va level leafPa e : Nat) : TEntry :=
  let b := levelBits level
  { ctx := ctx, vpage := va % 2 ^ 57 / 2 ^ b, bits := b, frame := bitsAt e 16 33 * 2 ^ 16 / 2 ^ b * 2 ^ b, leafPa := leafPa,
    r := bitAt e 2, w := bitAt e 3, x := bitAt e 4, dirty := bitAt e 6, attr := leafAttr e }

/-- Page tables are read and written under key slot 0, uncompressed (04 R83). -/
def tableAttr : PageAttr := {}

/-- A walker of a die reads one table entry for a context (04 R86): the entry, or the cause of what the access that needed the
walk takes. -/
def State.tableRead (s : State) (die ctx pa : Nat) : Except Nat Nat × State :=
  let g := s.partGate die ctx pa 8
  if g.1 then match g.2.readHome pa tableAttr true 8 with
    | (.ok bs, s1) => (.ok (natOf bs), s1)
    | (.error _, s1) => (.error cUNCORR_READ, s1)
  else (.error cFABRIC, g.2)

/-- The walker's atomic OR of A and D into a leaf (04 R82): the cause when the entry cannot be read or stored. -/
def State.setLeafBits (s : State) (die ctx leafPa : Nat) (bits : Nat) : Option Nat × State :=
  match s.tableRead die ctx leafPa with
  | (.ok e, s1) =>
    if e ||| bits = e then (none, s1)
    else
      let r := s1.performRaw { cls := 5, ident := die, ctx := none } leafPa tableAttr true (bytesOf 8 (e ||| bits))
      (if r.1 then none else some cUNCORR_READ, r.2)
  | (.error c, s1) => (some c, s1)

/-- A walk for a context, made from a die, from a level down to its leaf (04 R80–R84). -/
def State.walkFrom (s : State) (die ctx va : Nat) : Nat → Nat → Except Nat TEntry × State
  | 0, table =>
    let pa := table + 8 * levelIndex va 0
    match s.tableRead die ctx pa with
    | (.error c, s1) => (.error c, s1)
    | (.ok e, s1) => match readEntry e 0 with
      | .bad c => (.error c, s1)
      | .next _ => (.error cTRANS_FORMAT, s1)
      | .leaf e => (.ok (leafEntry ctx va 0 pa e), s1)
  | l + 1, table =>
    let pa := table + 8 * levelIndex va (l + 1)
    match s.tableRead die ctx pa with
    | (.error c, s1) => (.error c, s1)
    | (.ok e, s1) => match readEntry e (l + 1) with
      | .bad c => (.error c, s1)
      | .next t => State.walkFrom s1 die ctx va l t
      | .leaf e => (.ok (leafEntry ctx va (l + 1) pa e), s1)

/-- The checks after a successful walk, in the order of 04 Table 27: key, then permission. -/
def State.leafFault (s : State) (e : TEntry) (kind : AccKind) : Option Nat :=
  if (e.attr.key = 0 ∧ e.ctx ≠ 0) ∨ s.keyId e.attr.key = none then some cKEY_INVALID
  else
    let ok := match kind with
      | .fetch => e.x
      | .load => e.r
      | .store => e.w
      | .atomic => e.r && e.w
    if ok then none else some cPERM

/-- The PA of a virtual address through a translation. -/
def TEntry.pa (e : TEntry) (va : Nat) : Nat := e.frame + va % 2 ^ e.bits

/-- A translation made by the part itself for an access of a context from a die, walking the tables in memory (Headgate,
trap queue, sluices): an access under a key slot whose lines are being flushed is held (25 R403). -/
def State.ctxXlate (s : State) (die ctx va : Nat) (kind : AccKind) : Except Nat (Nat × PageAttr) × State :=
  match s.ctx? ctx with
  | none => (.error cTRANS_INVALID, s)
  | some c =>
    match s.walkFrom die ctx va 4 c.root with
    | (.error x, s1) => (.error x, s1)
    | (.ok e, s1) => match s1.leafFault e kind with
      | some x => (.error x, s1)
      | none =>
        if s1.portRefuses ctx (e.pa va) then (.error cFABRIC, s1)
        else if s1.keyBusy e.attr.key then (.ok (e.pa va, e.attr), s1.hold)
        else match s1.setLeafBits die ctx e.leafPa (if kind.writes then 96 else 32) with
          | (some x, s2) => (.error x, s2)
          | (none, s2) => (.ok (e.pa va, e.attr), s2)

/-- Find a cached translation of a context. -/
def findT (l : List TEntry) (ctx va : Nat) : Option TEntry :=
  l.find? fun e => decide (e.ctx = ctx) && decide (va % 2 ^ 57 / 2 ^ e.bits = e.vpage)

/-- Add a translation to a cache of n entries, the oldest leaving first (04 R85: which entries a cache holds is not
architectural; log 6). -/
def addT (n : Nat) (l : List TEntry) (e : TEntry) : List TEntry :=
  let l' := l.filter fun x => !(decide (x.ctx = e.ctx) && decide (x.vpage = e.vpage) && decide (x.bits = e.bits))
  (l' ++ [e]).drop (l'.length + 1 - n)

/-- Result of a unit's translation. -/
inductive XRes where
  | ok (pa : Nat) (attr : PageAttr) (s : State)
  | miss (s : State)
  | fault (cause : Nat) (s : State)

/-- Bits below the index of a level (04 Table 24). -/
def levelShift (level : Nat) : Nat := match level with
  | 0 => 16
  | n + 1 => 21 + 9 * n

/-- The pointer of a level goes into the walk cache of 256 entries, the oldest leaving (04 R85; log 6). -/
def Die.addPtr (d : Die) (p : PtrEntry) : Die :=
  let l := d.ptrs.filter fun x => !(decide (x.ctx = p.ctx) && decide (x.level = p.level) && decide (x.pre = p.pre))
  { d with ptrs := (l ++ [p]).drop (l.length + 1 - 256) }

/-- Where a walk of a context begins (04 R85): below the lowest pointer the walk cache holds for the address, else at the
root. -/
def Die.walkStart (d : Die) (ctx va root : Nat) : Nat × Nat :=
  match [1, 2, 3, 4].findSome? fun l => (d.ptrs.find? fun p => decide (p.ctx = ctx) && decide (p.level = l) && decide (p.pre = va / 2 ^ levelShift l)).map fun p => (l - 1, p.table) with
  | some x => x
  | none => (4, root)

/-- The walk that serves a miss, if it has ended in a fault: its cause and the level it reached. -/
def Die.walkFault (d : Die) (ctx region : Nat) : Option (Nat × Nat) :=
  d.walks.findSome? fun w => if w.ctx = ctx ∧ w.region = region then w.ended.map fun c => (c, w.level) else none

/-- Queue a miss: merged into a walk or miss of its region; a full queue makes the requester wait (04 R85). -/
def Die.addMiss (d : Die) (ctx region : Nat) : Die :=
  if d.missq.any (fun w => w.ctx = ctx ∧ w.region = region) || d.walks.any (fun w => w.ctx = ctx ∧ w.region = region) then d
  else if 1024 ≤ d.missq.length then d
  else { d with missq := d.missq ++ [{ ctx := ctx, region := region }] }

/-- Put a translation into the cache of a unit's front end or copy engine (04 R85). -/
def Core.keepT (u : Core) (cpe : Bool) (e : TEntry) : Core :=
  if cpe then { u with cpeTcache := addT 64 u.cpeTcache e } else { u with tcache := addT 32 u.tcache e }

/-- A translation fails at a level of the tables (04 R84); the unit keeps the level. -/
def State.xlateFails (s : State) (rank cause level : Nat) : XRes := .fault cause (s.modUnit rank fun u => { u with reached := some level })

/-- Use a translation for an access (04 R82–R84): the checks of Table 27, and D set before the first write is sent. -/
def State.useT (s : State) (rank : Nat) (cpe : Bool) (e : TEntry) (va : Nat) (kind : AccKind) : XRes :=
  let level := if e.bits = 16 then 0 else if e.bits = 21 then 1 else 2
  if s.keyBusy e.attr.key then .miss s
  else match s.leafFault e kind with
  | some c => s.xlateFails rank c level
  | none =>
    if kind.writes && !e.dirty then
      let e' := { e with dirty := true }
      match s.setLeafBits (dieOf rank) e.ctx e.leafPa 96 with
      | (none, s1) => .ok (e.pa va) e.attr ((s1.modDie (dieOf rank) fun d => { d with tlb := addT 8192 d.tlb e' }).modUnit rank fun u => u.keepT cpe e')
      | (some c, s1) => s1.xlateFails rank c level
    else .ok (e.pa va) e.attr s

/-- Translate for the front end or the copy engine of a unit (04 R84–R90): its own cache, the die's shared cache, a
finished walk's fault, else a miss. -/
def State.xlate (s : State) (rank : Nat) (cpe : Bool) (va : Nat) (kind : AccKind) : XRes :=
  let u := s.unitAt rank
  let die := dieOf rank
  let ctx := u.unit.ctx
  match findT (if cpe then u.cpeTcache else u.tcache) ctx va with
  | some e => s.useT rank cpe e va kind
  | none =>
    match findT (s.die die).tlb ctx va with
    | some e => (s.modUnit rank fun u => u.keepT cpe e).useT rank cpe e va kind
    | none =>
      match s.ctx? ctx with
      | none => s.xlateFails rank cTRANS_INVALID 4
      | some _ =>
        let region := va % 2 ^ 57 / 2 ^ 16
        match (s.die die).walkFault ctx region with
        | some (c, l) => (s.modDie die fun d => { d with walks := d.walks.filter fun w => !(decide (w.ctx = ctx) && decide (w.region = region)) }).xlateFails rank c l
        | none => .miss (s.modDie die fun d => d.addMiss ctx region)

/-! ## Ranks and spaces -/

/-- The rank a pointer names for an access of a unit; 0xFFF is resolved at the access (04 R73). -/
def resolveRank (self space field : Nat) : Nat :=
  if field = 0xFFF then (if space = 2 then self else dieOf self * 64) else field

/-- SHARED size of a context on a die (04 Table 23, R75; 12 R230). -/
def State.sharedSize (s : State) (ctx die : Nat) : Nat :=
  if isPDie die then
    match (s.die die).grants.find? fun g => g.ctx = ctx with
    | some g => g.count * (3 * 2 ^ 20)
    | none => 0
  else if (s.die die).dgrant = some ctx then (16 - (s.die die).split) * (24 * 2 ^ 20) else 0

/-- The size against which an access is checked as it issues: on a D-die, ways that a SPLIT on its way would give the context
are held at their banks and checked again there (12 R231). -/
def State.sharedBound (s : State) (ctx die : Nat) : Nat :=
  if isPDie die || (s.die die).dgrant != some ctx then s.sharedSize ctx die
  else (16 - (s.die die).cacheWays) * (24 * 2 ^ 20)

/-- The pool offset of a context's SHARED offset (04 R75). -/
def State.sharedOff (s : State) (ctx die off : Nat) : Nat :=
  if isPDie die then
    match (s.die die).grants.find? fun g => g.ctx = ctx with
    | some g => 3 * 2 ^ 20 * g.first + off
    | none => off
  else off

/-- SYNC space of a context on a die: 4 MiB and its overflow area (10 R192). -/
def State.syncSize (s : State) (ctx : Nat) : Nat :=
  2 ^ 22 + match s.ctx? ctx with
    | some c => c.ovfsz
    | none => 0

/-- A die in the context's die mask (04 R77). -/
def State.dieAllowed (s : State) (ctx die : Nat) : Bool :=
  match s.ctx? ctx with
  | some c => c.dmask.getLsbD die
  | none => false

/-- The checks of 04 R72 and R77 on a LOCAL, SHARED, SYNC or STREAM access of a context: rank, die mask, bound. -/
def State.rankFault (s : State) (ctx self space field off size : Nat) : Option Nat :=
  if space = 4 then (if field = 0xFFF then none else some cRANK_INVALID)
  else
    let r := resolveRank self space field
    let die := dieOf r
    if !isDie die then some cRANK_INVALID
    else if space = 2 ∧ !isCoreRank r then some cRANK_INVALID
    else if space ≠ 2 ∧ r % 64 ≠ 0 then some cRANK_INVALID
    else if !(s.dieAllowed ctx die) then some cRANK_PERM
    else
      let bound := if space = 2 then localSize r else if space = 1 then s.sharedBound ctx die else s.syncSize ctx
      if bound < off + size then some cSPACE_BOUND else none

/-- Another core's LOCAL memory takes an access only while it runs a unit of the same context (04 R77). -/
def State.portAllows (s : State) (ctx self rank : Nat) : Bool :=
  rank == self || ((s.unitAt rank).unit.running && (s.unitAt rank).unit.ctx == ctx)

end Sys2Proof.Machine
end

