-- ==== Sys2Proof/Machine/PartMem.lean ====
section
/-!
DEFINITION. Accesses the part itself makes in a context's virtual memory (Headgate, synchronisation engines, trap queue,
sluices, continuation objects): translated by the context's tables and performed at their homes; `ctxWriteLogged` and
`ctxWriteFor` also undo-log them (24 R389); and the KV pools the Headgate keeps (19 R318–R321, R327).
-/
namespace Sys2Proof.Machine

/-- Cut a range of addresses at line boundaries. -/
def vaPieces : Nat → Nat → Nat → List (Nat × Nat)
  | 0, _, _ => []
  | f + 1, va, n =>
    if n = 0 then []
    else
      let k := min n (128 - va % 128)
      (va, k) :: vaPieces f (va + k) (n - k)

/-- Cut a range of addresses for writing: the whole 512-byte blocks it covers, and what is left at line boundaries
(12 R233). -/
def vaBlocks : Nat → Nat → Nat → List (Nat × Nat)
  | 0, _, _ => []
  | f + 1, va, n =>
    if n = 0 then []
    else
      let k := if va % 512 = 0 ∧ 512 ≤ n then 512 else min n (128 - va % 128)
      (va, k) :: vaBlocks f (va + k) (n - k)

/-- A part's access to a piece of a context's memory, from a die: translated, and passed on to its home; the cause that stops
it. -/
def State.ctxPiece (s : State) (die ctx va n : Nat) (kind : AccKind) : Except Nat (Nat × PageAttr) × State :=
  match s.ctxXlate die ctx va kind with
  | (.error c, s1) => (.error c, s1)
  | (.ok (pa, attr), s1) =>
    let g := s1.partGate die ctx pa n
    (if g.1 then .ok (pa, attr) else .error cFABRIC, g.2)

/-- Translate every page of a range; the first failing address with its cause (02 R57, 10 R212). -/
def State.ctxCheck (s : State) (die ctx va n : Nat) (kind : AccKind) : Option (Nat × Nat) × State :=
  let pages := (List.range (if n = 0 then 0 else (va % 65536 + n + 65535) / 65536)).map fun i => max va (va / 65536 * 65536 + 65536 * i)
  pages.foldl (fun (a : Option (Nat × Nat) × State) p =>
    match a.1 with
    | some _ => a
    | none => match a.2.ctxXlate die ctx p kind with
      | (.ok _, s1) => (none, s1)
      | (.error c, s1) => (some (c, p), s1)) (none, s)

/-- Read n bytes of a context's memory as a load or a fetch, allocating in the SRAM layer as the page's policy says or not at all
(12 R229): the cause of the first fault, or the bytes. -/
def State.ctxReadAs (s : State) (kind : AccKind) (bypass : Bool) (die ctx va n : Nat) : Except Nat (List Byte) × State :=
  (vaPieces (n + 1) va n).foldl (fun (a : Except Nat (List Byte) × State) p =>
    match a.1 with
    | .error _ => a
    | .ok bs => match a.2.ctxPiece die ctx p.1 p.2 kind with
      | (.error c, s1) => (.error c, s1)
      | (.ok (pa, attr), s1) => match s1.readHome pa attr (!bypass && attr.pol = 0) p.2 with
        | (.error _, s2) => (.error cUNCORR_READ, s2)
        | (.ok r, s2) => (.ok (bs ++ r), s2)) (.ok [], s)

/-- Read n bytes of a context's memory. -/
def State.ctxRead (s : State) (die ctx va n : Nat) : Except Nat (List Byte) × State := s.ctxReadAs .load false die ctx va n

/-- Read a little-endian value. -/
def State.ctxReadNat (s : State) (die ctx va n : Nat) : Except Nat Nat × State :=
  match s.ctxRead die ctx va n with
  | (.ok bs, s1) => (.ok (natOf bs), s1)
  | (.error c, s1) => (.error c, s1)

/-- Write bytes of a context's memory; the cause of the first fault, if any. -/
def State.ctxWriteBy (s : State) (w : Writer) (die ctx va : Nat) (bytes : List Byte) : Option Nat × State :=
  (vaBlocks (bytes.length + 1) va bytes.length).foldl (fun (a : Option Nat × State) p =>
    match a.1 with
    | some _ => a
    | none => match a.2.ctxPiece die ctx p.1 p.2 .store with
      | (.error c, s1) => (some c, s1)
      | (.ok (pa, attr), s1) =>
        let r := s1.performRaw { w with owner := w.owner <|> some ctx } pa attr (attr.pol = 0) ((bytes.drop (p.1 - va)).take p.2)
        if r.1 then (none, r.2) else (some cUNCORR_WRITE, r.2)) (none, s)

/-- A write by the synchronisation engine or Headgate of a die, acting for no unit. -/
def State.ctxWrite (s : State) (die ctx va : Nat) (bytes : List Byte) : Option Nat × State :=
  s.ctxWriteBy { cls := 5, ident := die, ctx := none } die ctx va bytes

/-! ## Pools -/

/-- Die on which the Headgate's own translations are made (log 25). -/
def headDie : Nat := 32

def poolKey (ctx die : Nat) : Nat := ctx * 64 + die
def State.pool (s : State) (ctx die : Nat) : KvPool := (alGet (poolKey ctx die) s.head.pools).getD {}
def State.setPool (s : State) (ctx die : Nat) (p : KvPool) : State :=
  { s with head := { s.head with pools := alSet (poolKey ctx die) p s.head.pools } }

/-- The Headgate's record of a page. -/
def State.pageRec (s : State) (ctx page : Nat) : Option PageRec :=
  s.head.pages.find? fun r => decide (r.ctx = ctx) && decide (r.page = page)

def State.placePage (s : State) (ctx page : Nat) (pl : PagePlace) : State :=
  { s with head := { s.head with pages := s.head.pages.map fun r =>
      if r.ctx = ctx ∧ r.page = page then { r with place := pl } else r } }

/-- The Headgate writes a page's FAR bit (19 R319): an atomic at the leaf's home; a page without a valid leaf leaves it
unwritten and is reported. -/
def State.setFar (s : State) (ctx va : Nat) (far : Bool) : State :=
  match s.ctx? ctx with
  | none => s
  | some c =>
    match s.walkFrom headDie ctx va 4 c.root with
    | (.error x, s1) => s1.reportMem ctx none x va 0
    | (.ok e, s1) => match s1.tableRead headDie ctx e.leafPa with
      | (.error x, s2) => s2.reportMem ctx none x va 0
      | (.ok v, s2) =>
        let v' := if far then v ||| 2 ^ 51 else if bitAt v 51 then v - 2 ^ 51 else v
        if v' = v then s2
        else (s2.performRaw { cls := 5, ident := headDie, ctx := none } e.leafPa tableAttr true (bytesOf 8 v')).2

/-- Drop the cached translations of a context that touch a page range (04 R87). -/
def dropT (l : List TEntry) (ctx lo n : Nat) : List TEntry :=
  l.filter fun e => !(decide (e.ctx = ctx) && decide (e.vpage * 2 ^ e.bits < lo + n) && decide (lo < (e.vpage + 1) * 2 ^ e.bits))

/-- Drop the walk-cache pointers of a context that cover part of a range. -/
def dropP (l : List PtrEntry) (ctx lo n : Nat) : List PtrEntry :=
  l.filter fun p => !(decide (p.ctx = ctx) && decide (p.pre * 2 ^ levelShift p.level < lo + n) && decide (lo < (p.pre + 1) * 2 ^ levelShift p.level))

/-- Invalidate translations of a context over a range in every cache of the package (04 R87). -/
def State.invalidate (s : State) (ctx lo n : Nat) : State :=
  let fu (u : Core) : Core := { u with tcache := dropT u.tcache ctx lo n, cpeTcache := dropT u.cpeTcache ctx lo n }
  let keepW (w : Walk) : Bool := !(decide (w.ctx = ctx) && decide (w.region * 65536 < lo + n) && decide (lo < (w.region + 1) * 65536))
  { s with
    core := fu s.core
    others := s.others.map fun x => (x.1, fu x.2)
    dies := s.dies.map fun x => (x.1, { x.2 with tlb := dropT x.2.tlb ctx lo n, ptrs := dropP x.2.ptrs ctx lo n, walks := x.2.walks.filter keepW, missq := x.2.missq.filter keepW })
    host := { s.host with hostTcache := s.host.hostTcache.filter fun e => (dropT [e.2] ctx lo n).length = 1 } }

/-- VA of a page of a stream's KV region (17 R285). -/
def pageVa (kvbase : Word) (e : Nat) : Nat := kvbase.toNat + 65536 * e

/-- The KV region base of a context, as its streams name it (17 Table 88); with none open, as the last opened one did. -/
def State.kvbase (s : State) (ctx : Nat) : Word :=
  match s.head.streams.find? fun t => t.ctx = ctx with
  | some t => t.kvbase
  | none => ((s.ctx? ctx).map (·.kvbase)).getD 0#64

/-- A page goes to the top of its home pool's near list, with FAR cleared (19 R319). -/
def State.pageToNear (s : State) (ctx page home : Nat) : State :=
  let s1 := s.setFar ctx (pageVa (s.kvbase ctx) page) false
  let p := s1.pool ctx home
  (s1.setPool ctx home { p with near := page :: p.near }).placePage ctx page .near

/-- Pages go home in order; the far pages of a pool whose near list then holds 128 follow at once, oldest-borrowed first
(19 R319, R321). -/
def State.comeHome (ctx : Nat) : Nat → List Nat → State → State
  | 0, _, s => s
  | _, [], s => s
  | f + 1, e :: r, s =>
    match s.pageRec ctx e with
    | none => State.comeHome ctx f r s
    | some x =>
      let s1 := s.pageToNear ctx e x.home
      let p := s1.pool ctx x.home
      if p.near.length < 128 then State.comeHome ctx f r s1
      else State.comeHome ctx f (p.far.reverse ++ r) (s1.setPool ctx x.home { p with far := [] })

/-- Pages of the package a list of pages can make come home, and the list's own. -/
def State.homeFuel (s : State) (l : List Nat) : Nat := s.head.pages.length + l.length + 1

/-- Far pages go home when the near list holds 128 (19 R321). -/
def State.sendHome (s : State) (ctx die : Nat) : State :=
  let p := s.pool ctx die
  if p.near.length < 128 then s else State.comeHome ctx (s.homeFuel p.far) p.far.reverse (s.setPool ctx die { p with far := [] })

/-- A freed page returns to its home pool (19 R319, R321). -/
def State.pageHome (s : State) (ctx page : Nat) : State := State.comeHome ctx (s.homeFuel [page]) [page] s

/-- A page swapped out of a block-table entry goes home only if the record places it there (19 R318). -/
def State.pageFromEntry (s : State) (ctx page handle block : Nat) : State :=
  match s.pageRec ctx page with
  | some r => if r.place = .entry handle block then s.pageHome ctx page else s
  | none => s

/-- Page index of a VA of the context's KV region. -/
def State.pageIndex (s : State) (ctx : Nat) (va : Word) : Nat := (va.toNat - (s.kvbase ctx).toNat) / 65536

/-- The page that a promotion holds as its DST goes back to its pool (07 R144, 19 R318). -/
def State.pageBack (s : State) (ctx page : Nat) : State :=
  match s.pageRec ctx page with
  | some r => if r.place = .promote then s.pageHome ctx page else s
  | none => s

/-- A lender can spare a batch (19 R320). -/
def State.canSpare (s : State) (ctx die : Nat) : Bool :=
  decide (128 ≤ (s.pool ctx die).near.length) && !(s.stack (die - 32)).reserveOut

/-- The pool's choice of a lender: most near pages, then lowest die (19 R320). -/
def State.lender (s : State) (ctx die : Nat) : Option Nat :=
  ((neighbours die).filter fun d => s.dieAllowed ctx d && s.canSpare ctx d).foldl (fun (b : Option Nat) d =>
    match b with
    | none => some d
    | some x =>
      let nx := (s.pool ctx x).near.length
      let nd := (s.pool ctx d).near.length
      if nx < nd ∨ (nx = nd ∧ d < x) then some d else b) none

/-- Move a batch of 64 pages to the borrower's far list, setting FAR and invalidating (19 R319, R320). -/
def State.borrow (s : State) (ctx die from_ : Nat) : State :=
  let l := s.pool ctx from_
  let batch := l.near.take 64
  let s1 := s.setPool ctx from_ { l with near := l.near.drop 64 }
  let b := s1.pool ctx die
  let s2 := s1.setPool ctx die { b with far := batch ++ b.far }
  batch.foldl (fun s e =>
    ((s.setFar ctx (pageVa (s.kvbase ctx) e) true).invalidate ctx (pageVa (s.kvbase ctx) e) 65536).placePage ctx e (.far die)) s2

/-- Take a page for an allocation or a landing: near list, far list, then a borrowed batch (19 R319, R321). -/
def State.takePage (s : State) (ctx die : Nat) : Option Nat × State :=
  let pop (s : State) : Option Nat × State :=
    let p := s.pool ctx die
    match if (s.stack (die - 32)).reserveOut then [] else p.near with
    | e :: r => (some e, s.setPool ctx die { p with near := r })
    | [] => match p.far with
      | e :: r => (some e, s.setPool ctx die { p with far := r })
      | [] => (none, s)
  match pop s with
  | (some e, s1) => (some e, s1)
  | (none, _) => match s.lender ctx die with
    | some l => pop (s.borrow ctx die l)
    | none => (none, s)

/-! ## Streams: block tables and closing -/

def emptyEntry : Nat := 0xFFFFFFFF

def State.stream? (s : State) (ctx handle : Nat) : Option Stream :=
  s.head.streams.find? fun t => decide (t.ctx = ctx) && decide (t.handle = handle)

def State.setStream (s : State) (t : Stream) : State :=
  { s with head := { s.head with streams := s.head.streams.map fun x => if x.ctx = t.ctx ∧ x.handle = t.handle then t else x } }

def State.dropStream (s : State) (ctx handle : Nat) : State :=
  { s with head := { s.head with streams := s.head.streams.filter fun x => !(decide (x.ctx = ctx) && decide (x.handle = handle)) } }

/-- The STREAM pointer of a stream (04 R76). -/
def streamPtr (handle : Nat) : Word := mkPtr 4 0xFFF (handle * 4096)

/-- VERSION advances, skipping 0xFFFF_FFFF (17 Table 88, R292). -/
def bumpVersion (v : Nat) : Nat := if v + 1 = 2 ^ 32 - 1 then 0 else (v + 1) % 2 ^ 32

/-- Read block-table entry i (17 R285). -/
def State.readEntryAt (s : State) (t : Stream) (i : Nat) : Except Nat Nat × State :=
  s.ctxReadNat headDie t.ctx (t.btab.toNat + 4 * i) 4

/-- Write block-table entry i. -/
def State.writeEntryAt (s : State) (t : Stream) (i v : Nat) : Option Nat × State :=
  s.ctxWrite headDie t.ctx (t.btab.toNat + 4 * i) (bytesOf 4 v)

/-- VA of block-table entry i. -/
def Stream.entryVa (t : Stream) (i : Nat) : Nat := t.btab.toNat + 4 * i

/-- Swap block i to empty and send its page home (17 R293, 19 R318): the old entry, or the cause of the fault of an entry
that cannot be swapped. An entry that is empty already is written as well. -/
def State.freeBlock (s : State) (t : Stream) (i : Nat) : Except Nat Nat × State :=
  match s.readEntryAt t i with
  | (.error c, s1) => (.error c, s1)
  | (.ok e, s1) =>
    match s1.writeEntryAt t i emptyEntry with
    | (some c, s2) => (.error c, s2)
    | (none, s2) => (.ok e, if e = emptyEntry then s2 else s2.pageFromEntry t.ctx e t.handle i)

/-- The first entry of n from f up whose swap the tables refuse: the cause and its VA. -/
def State.entriesFault (s : State) (t : Stream) (f n : Nat) : Option (Nat × Nat) × State :=
  s.ctxCheck headDie t.ctx (t.entryVa f) (4 * n) .atomic

/-- Free n blocks from f up; an entry that could not be swapped keeps its page, and the first is reported (log 45). -/
def State.freeBlocks (s : State) (t : Stream) (f n : Nat) : State :=
  let r := (List.range n).foldl (fun (a : Option (Nat × Nat) × State) i =>
    match a.2.freeBlock t (f + i) with
    | (.ok _, s1) => (a.1, s1)
    | (.error c, s1) => (some (a.1.getD (c, t.entryVa (f + i))), s1)) (none, s)
  match r.1 with
  | some (c, va) => r.2.reportMem t.ctx none c va 4
  | none => r.2

/-- One past the highest block below a number whose entry is not empty; an entry that cannot be read counts as empty
(log 45). -/
def State.topBlock (s : State) (t : Stream) : Nat → Nat × State
  | 0 => (0, s)
  | n + 1 => match s.readEntryAt t n with
    | (.ok e, s1) => if e ≠ emptyEntry then (n + 1, s1) else State.topBlock s1 t n
    | (.error _, s1) => State.topBlock s1 t n

/-- HIBLK after block i has been swapped to empty: one past the highest non-empty entry where i was the highest (17 R297). -/
def State.lowerHiblk (s : State) (t : Stream) (i : Nat) : State :=
  if i + 1 = t.hiblk then
    let h := s.topBlock t t.nblk
    h.2.setStream { t with hiblk := h.1 }
  else s

/-- Close a stream as one operation (19 R327): every entry of its table is swapped to empty. -/
def State.closeStream (s : State) (t : Stream) (cause : Nat) : State :=
  ((s.freeBlocks t 0 t.nblk).dropStream t.ctx t.handle).send (.event "STREAM_CLOSED" t.queue "OK" [t.handle, cause, bumpVersion t.version])

/-- The effect of a frame anchored at a (17 R292). -/
def Stream.frame (t : Stream) (a : Nat) : Stream :=
  { t with tanch := if t.tpend then min t.tanch a else a, tpend := true, g := a, p := min t.p a, version := bumpVersion t.version }

end Sys2Proof.Machine
end

