-- ==== Sys2Proof/Machine/Sets.lean ====
section
/-!
DEFINITION. Tile descriptors (07 R130–R132, 06 R114, R115), their checks (07 R131, 08 R155), and the read and write sets
of engine commands for the range-overlap scoreboard (07 R149, 08 Table 48, 09 Table 53).
-/
namespace Sys2Proof.Machine

/-- A tile descriptor's fields (Table 38), SCO and AWO in bytes. -/
structure Tile where
  off : Nat
  rows : Nat
  cols : Nat
  stride : Nat
  fmt : Nat
  aw : Bool
  sc : Bool
  sco : Nat
  awo : Nat
deriving DecidableEq, Repr, Inhabited

def tileOf (d : BitVec 128) : Tile :=
  let v := d.toNat
  { off := bitsAt v 0 24, rows := bitsAt v 24 14, cols := bitsAt v 38 14, stride := bitsAt v 52 24, fmt := bitsAt v 76 4,
    aw := bitAt v 80, sc := bitAt v 81, sco := bitsAt v 88 20 * 16, awo := bitsAt v 108 20 * 16 }

/-- The reserved bits 87:82 of a descriptor's image read as zero (07 R133). -/
def tileImageOf (v : Nat) : BitVec 128 := BitVec.ofNat 128 (v - bitsAt v 82 6 * 2 ^ 82)

/-- Format codes of Table 34. -/
def fFP32 := 0
def fBF16 := 1
def fF8A := 2
def fF8B := 3
def fF6 := 4
def fF4 := 5
def fINT8 := 6
def fUINT8 := 7
def fINT4 := 8
def fVQ2 := 9
def fSE8 := 10
def fINT32 := 11
def fUINT32 := 12

/-- Bits per element; VQ2 counts 16 per code (Table 34). -/
def fmtBits : Nat → Nat
  | 0 => 32 | 1 => 16 | 2 => 8 | 3 => 8 | 4 => 6 | 5 => 4 | 6 => 8 | 7 => 8 | 8 => 4 | 9 => 16 | 10 => 8 | 11 => 32 | 12 => 32
  | _ => 8

/-- Column counts are a multiple of this (06 R115). -/
def fmtMult : Nat → Nat
  | 4 => 4 | 5 => 2 | 8 => 2 | 9 => 8
  | _ => 1

/-- Formats that take no block scales (07 R131). -/
def noScale (f : Nat) : Bool := f == 0 || f == 1 || f == 7 || f == 10 || f == 11 || f == 12

def Tile.rb (t : Tile) : Nat := if t.fmt = 9 then t.cols / 8 * 2 else t.cols * fmtBits t.fmt / 8
def Tile.ns (t : Tile) : Nat := if t.sc then (t.cols + 31) / 32 else 0
/-- Bytes from the first byte of row 0 to the last byte of the last row. -/
def Tile.span (t : Tile) : Nat := (t.rows - 1) * t.stride + t.rb
def Tile.scaleBytes (t : Tile) : Nat := t.rows * t.ns
def Tile.imageSize (t : Tile) : Nat := t.rows * t.rb + t.scaleBytes

def rangesMeet (a n b m : Nat) : Bool := decide (a < b + m) && decide (b < a + n)

/-- The checks of R131 against a memory of a size, the format first; in weight-buffer role AW must be 0 (08 R155). The
rows count as one range (log 26). -/
def Tile.fault (t : Tile) (size : Nat) (wb : Bool := false) : Option Nat :=
  if 13 ≤ t.fmt ∨ t.cols % fmtMult t.fmt ≠ 0 ∨ (t.sc && noScale t.fmt) = true then some cFORMAT
  else if t.rows = 0 ∨ t.cols = 0 ∨ t.off % 16 ≠ 0 ∨ t.stride % 16 ≠ 0 ∨ (1 < t.rows ∧ t.stride < t.rb) ∨ (wb && t.aw) = true then some cTILE
  else if size < t.off + t.span ∨ (t.sc ∧ size < t.sco + t.scaleBytes) ∨ (t.aw ∧ size < t.awo + 16) then some cTILE
  else if (t.sc && rangesMeet t.off t.span t.sco t.scaleBytes) || (t.aw && rangesMeet t.off t.span t.awo 16)
      || (t.sc && t.aw && rangesMeet t.sco t.scaleBytes t.awo 16) then some cTILE
  else none

/-! ## Scoreboard -/

/-- What a command reads or writes: bytes of the core's own LOCAL memory or weight buffer, an index register, the
codebook. -/
inductive Res where
  | lcl (lo n : Nat)
  | wb (lo n : Nat)
  | xreg (n : Nat)
  | codebook
deriving DecidableEq, Repr

/-- Two byte ranges share a 128-byte granule. -/
def granulesMeet (a n b m : Nat) : Bool :=
  decide (0 < n) && decide (0 < m) && decide (a / 128 ≤ (b + m - 1) / 128) && decide (b / 128 ≤ (a + n - 1) / 128)

def Res.meets : Res → Res → Bool
  | .lcl a n, .lcl b m => granulesMeet a n b m
  | .wb a n, .wb b m => granulesMeet a n b m
  | .xreg a, .xreg b => a == b
  | .codebook, .codebook => true
  | _, _ => false

/-- The rows and scales of a tile. -/
def Tile.res (t : Tile) (mk : Nat → Nat → Res) : List Res :=
  (List.range t.rows).map (fun r => mk (t.off + r * t.stride) t.rb) ++ (if t.sc then [mk t.sco t.scaleBytes] else [])

def tRes (d : BitVec 128) : List Res := (tileOf d).res .lcl
def wRes (d : BitVec 128) : List Res := (tileOf d).res .wb

/-- A memory pointer that names the core's own LOCAL memory: its offset. -/
def ownLocal (rank : Nat) (p : Word) : Option Nat :=
  if spaceOf p = 2 ∧ resolveRank rank 2 (rankField p) = rank then some (offOf p) else none

/-- The own-LOCAL bytes of a memory operand. -/
def memRes (rank : Nat) (p : Word) (n : Nat) : List Res :=
  match ownLocal rank p with
  | some o => [.lcl o n]
  | none => []

/-- The own-LOCAL rows of a strided memory operand. -/
def stridedRes (rank : Nat) (p : Word) (rows stride rb : Nat) : List Res :=
  match ownLocal rank p with
  | some o => (List.range rows).map fun r => .lcl (o + r * stride) rb
  | none => []

/-- Every byte from an own-LOCAL pointer's offset to the end of LOCAL memory (07 R149). -/
def tailRes (rank : Nat) (p : Word) : List Res :=
  match ownLocal rank p with
  | some o => [.lcl o (localSize rank - o)]
  | none => []

/-- The B operand of a compute word. -/
def bRes (w : Bool) (d : BitVec 128) : List Res :=
  if w then wRes d ++ (if (tileOf d).fmt = 9 then [.codebook] else []) else tRes d

/-- Read set and write set of a command, of a core (07 R149, R147; 08 Table 48; 09 Table 53). Descriptors: d0 is tdD, d1
is tdA, d2 is tdB, as captured at issue. The ring that a SUBSCR names belongs to no set of that command: 07 R149 gives SLOTRET
its ring and says nothing of SUBSCR's (DESIGN CHOICE, log 135). -/
def Cmd.sets (rank : Nat) (c : Cmd) : List Res × List Res :=
  match decode c.word with
  | .error _ => ([], [])
  | .ok i =>
    let D := tRes c.d0
    let A := tRes c.d1
    let B := fun (m : BitVec 2) => if m = 3#2 then [] else tRes c.d2
    let t0 := tileOf c.d0
    let t1 := tileOf c.d1
    match i with
    | .cpin _ _ _ => (memRes rank c.r0 t0.imageSize, D)
    | .cpout _ _ => (A, memRes rank c.r0 t1.imageSize)
    | .cptin _ _ _ => (stridedRes rank c.r0 t0.rows c.r1.toNat t0.rb, D)
    | .cptout _ _ => (A, stridedRes rank c.r0 t1.rows c.r1.toNat t1.rb)
    | .cpll _ _ _ => (A, D)
    | .gather _ x _ _ _ => (tailRes rank c.r0 ++ [.xreg x.toNat], D)
    | .scatter x _ _ _ => (A ++ [.xreg x.toNat], tailRes rank c.r0)
    | .idxld x _ => (memRes rank c.r0 (4 * (c.r1.toNat % 128)), [.xreg x.toNat])
    | .fill _ _ => ([], D)
    | .promote _ => (memRes rank c.r0 48, memRes rank (c.r0 + 44#64) 4)
    | .slotret _ _ => ([], D)
    | .mma _ _ _ _ w => (A ++ bRes (w = 1#1) c.d2 ++ D, D)
    | .mvm _ _ _ _ w => (A ++ bRes (w = 1#1) c.d2 ++ D, D)
    | .mmapLead _ _ _ _ => (A ++ bRes true c.d2 ++ D, D)
    | .mmapFol _ _ _ => (bRes true c.d2 ++ D, D)
    | .wbld _ _ => (A, wRes c.d0)
    | .cbld _ => (A, [.codebook])
    | .mzero _ => ([], D)
    | .vadd _ _ _ m | .vsub _ _ _ m | .vmul _ _ _ m | .vmin _ _ _ m | .vmax _ _ _ m | .vadds _ _ _ m | .vand _ _ _ m
    | .vor _ _ _ m | .vxor _ _ _ m | .vshl _ _ _ m | .vshr _ _ _ m | .vcmpeq _ _ _ m | .vcmplt _ _ _ m | .vcmple _ _ _ m =>
      (A ++ B m, D)
    | .vfma _ _ _ m | .vsel _ _ _ m => (A ++ B m ++ D, D)
    | .vabs _ _ | .vneg _ _ | .vscl _ _ _ | .vmov _ _ | .vtrans _ _ | .vexp _ _ | .vexp2 _ _ | .vlog2 _ _ | .vrcp _ _
    | .vrsqrt _ _ | .vsqrt _ _ | .vtanh _ _ | .vsigm _ _ | .vsilu _ _ | .vgelu _ _ | .vcvt _ _ _ | .vquant _ _
    | .vdquant _ _ | .vrmax _ _ | .vrmin _ _ | .vargmax _ _ | .vbcast _ _ _ | .vsample _ _ _ => (A, D)
    | .vbcastScalar _ _ => ([], D)
    | .vrsum _ _ k => (A ++ (if k = 1#1 then D else []), D)
    | .vsmaxo _ _ _ => (A ++ tRes c.d2, D ++ tRes c.d2)
    | .vsmaxf _ _ _ => (A ++ tRes c.d2, D)
    | .vrot _ _ _ _ => (A ++ [.lcl c.r0.toNat (t0.cols / 2 * 4)], D)
    | .vrng _ _ => ([], D)
    | _ => ([], [])

def anyMeet (a b : List Res) : Bool := a.any fun x => b.any fun y => x.meets y

/-- An earlier command conflicts with a later one (07 R149). -/
def setsConflict (earlier later : List Res × List Res) : Bool :=
  anyMeet earlier.2 later.1 || anyMeet earlier.2 later.2 || anyMeet earlier.1 later.2

/-- Every command queued or running on a core. -/
def Core.cmdsAll (u : Core) : List Cmd := u.cpe.queue ++ u.mat.queue ++ u.vec.queue

/-- An earlier command of the core holds the granules of a front-end access to its own LOCAL memory (07 R150). -/
def Core.holdsLocal (u : Core) (rank seq off n : Nat) (writes : Bool) : Bool :=
  u.cmdsAll.any fun c =>
    if c.seq < seq && c.st != .done then
      let s := c.sets rank
      anyMeet [.lcl off n] s.2 || (writes && anyMeet [.lcl off n] s.1)
    else false

end Sys2Proof.Machine
end

