-- ==== Sys2Proof/Machine/Perform.lean ====
section
/-!
DEFINITION. Performing the reads and writes of units: undo logging (24 R389, R390, 14 R258), accesses at the points of 05
Table 29, and the store buffer (02 R53, R54; 05 R95).
-/
namespace Sys2Proof.Machine

/-- The front end of a unit as a writer (05 Table 33). -/
def frontWriter (rank ctx : Nat) : Writer :=
  { cls := if classOf rank = 2 then 6 else 0, ident := rank, ctx := some ctx, frontEnd := some rank, unit := some rank }

/-- The copy engine of a core as a writer. -/
def cpeWriter (rank ctx : Nat) : Writer := { cls := 1, ident := rank, ctx := some ctx, unit := some rank }

/-- A PA lies in the context's undo area (24 R389). -/
def State.inUndoArea (s : State) (ctx : Nat) (c : Ctx) (pa : Nat) : Bool :=
  (List.range ((c.undo.toNat % 65536 + c.undosz + 65535) / 65536)).any fun i =>
    let page := c.undo.toNat / 65536 * 65536 + 65536 * i
    match (s.walkFrom (homeDie pa) ctx page 4 c.root).1 with
    | .ok e =>
      let lo := max page c.undo.toNat
      let hi := min (page + 65536) (c.undo.toNat + c.undosz)
      decide (e.pa lo ≤ pa) && decide (pa < e.pa lo + (hi - lo))
    | .error _ => false

/-- An undo record (24 Table 130). -/
def undoRecord (pa key seq : Nat) (pre : List Byte) : List Byte :=
  bytesOf 8 pa ++ bytesOf 2 key ++ bytesOf 6 0 ++ bytesOf 4 seq ++ bytesOf 108 0 ++ pre

/-- The step whose undo list a write feeds, if any (14 R258). -/
def State.writerStep (s : State) (w : Writer) : Option (Nat × Nat) :=
  match w.unit with
  | none => w.step
  | some r =>
    let u := (s.unitAt r).unit
    if u.running && u.isStep then some (u.sweep, u.stepNo) else none

/-- Keep what a line holds before its first write by a step (14 R258). -/
def State.logStep (s : State) (w : Writer) (pa : Nat) (attr : PageAttr) : State :=
  let line := pa / 128 * 128
  match s.writerStep w with
  | none => s
  | some k =>
    if s.stepUndo.any fun x => x.sweep = k.1 ∧ x.step = k.2 ∧ x.line = line then s
    else { s with stepUndo := { sweep := k.1, step := k.2, line := line, key := attr.key, compress := attr.compress,
                                bytes := s.bytesUnder ((s.keyId attr.key).getD 0) line 128 } :: s.stepUndo }

/-- Log a line before a write to it: for the step's own undo (14 R258), and for the open interval (24 R389, R390). False
when the record does not fit. -/
def State.logUndo (s : State) (w : Writer) (pa : Nat) (attr : PageAttr) : Bool × State :=
  match w.ctx with
  | none => (true, s)
  | some cn =>
    if !attr.logged then (true, s)
    else
      let line := pa / 128 * 128
      let pre := s.bytesUnder ((s.keyId attr.key).getD 0) line 128
      let s1 := s.logStep w pa attr
      match s1.ctx? cn with
      | none => (true, s1)
      | some c =>
        if !c.ckptOpen || c.killed || (c.undoLines.any fun x => x.1 = line) || s1.inUndoArea cn c pa then (true, s1)
        else if c.undosz < 256 * (c.undoUsed + 1) then (false, s1.setCtx cn { c with undoFull := true })
        else
          let s2 := s1.setCtx cn { c with undoUsed := c.undoUsed + 1, undoLines := (line, attr.compress) :: c.undoLines }
          let s3 := (s2.ctxWriteBy { cls := 5, ident := homeDie pa, ctx := none, quiet := true } (homeDie pa) cn
            (c.undo.toNat + 256 * c.undoUsed) (undoRecord line attr.key c.undoUsed pre)).2
          (true, s3.dieEvent (homeDie pa) 16 1)

/-- Log every line of a write of n bytes before it: false when a record does not fit. -/
def State.logLines (s : State) (w : Writer) (pa n : Nat) (attr : PageAttr) : Bool × State :=
  if !attr.logged then (true, s)
  else (List.range ((pa % 128 + n + 127) / 128)).foldl (fun (a : Bool × State) i =>
    if a.1 then a.2.logUndo w (pa / 128 * 128 + 128 * i) attr else a) (true, s)

/-- Write bytes of GLOBAL memory at their homes with undo logging: the cause of the first failure. -/
def State.performWrite (s : State) (w : Writer) (pa : Nat) (attr : PageAttr) (alloc : Bool) (bytes : List Byte) : Option Nat × State :=
  (writePieces (bytes.length + 1) pa bytes).foldl (fun (a : Option Nat × State) p =>
    match a.1 with
    | some _ => a
    | none =>
      let l := a.2.logLines w p.1 p.2.length attr
      if l.1 then
        let r := l.2.performPiece w p.1 attr alloc p.2
        (if r.1 then none else some cUNCORR_WRITE, r.2)
      else (some cUNDO_OVERFLOW, l.2)) (none, s)

/-- Write a context's memory for a writer, with undo logging (24 R389): cause and address of the first fault. -/
def State.ctxWriteFor (s : State) (w : Writer) (die ctx va : Nat) (bytes : List Byte) : Option (Nat × Nat) × State :=
  (vaBlocks (bytes.length + 1) va bytes.length).foldl (fun (a : Option (Nat × Nat) × State) p =>
    match a.1 with
    | some _ => a
    | none => match a.2.ctxPiece die ctx p.1 p.2 .store with
      | (.error c, s1) => (some (c, p.1), s1)
      | (.ok (pa, attr), s1) =>
        let r := s1.performWrite w pa attr (attr.pol = 0) ((bytes.drop (p.1 - va)).take p.2)
        (r.1.map fun c => (c, p.1), r.2)) (none, s)

/-- A write by the synchronisation engine or Headgate of a die that is undo-logged like any other (24 R389). The cause of the
first fault, if any. -/
def State.ctxWriteLogged (s : State) (die ctx va : Nat) (bytes : List Byte) : Option Nat × State :=
  let r := s.ctxWriteFor { cls := 5, ident := die, ctx := some ctx } die ctx va bytes
  (r.1.map (·.1), r.2)

/-! ## Accesses at their points -/

/-- Outcome of an access at its point of performance. -/
inductive Perf (α : Type) where
  | ok (v : α) (s : State)
  | bad (cause : Nat) (s : State)
  | hold                               -- the point holds the access for now

/-- The way a D-die SHARED offset lies in (12 R230). -/
def wayOf (off : Nat) : Nat := 15 - off / 128 / 96 / 2048

/-- A SHARED access is held at its bank while its way changes hands (12 R231). -/
def Die.holdsShared (d : Die) (die off n : Nat) : Bool :=
  if isPDie die then false
  else
    let lo := d.splitTo.foldl (fun w x => min w x.2.2) d.split
    let hi := d.splitTo.foldl (fun w x => max w x.2.2) d.split
    decide (lo ≤ wayOf off) && decide (wayOf (off + n - 1) < hi)

/-- A unit of LOCAL memory among the bytes cannot be read. -/
def Core.localBad (u : Core) (off n : Nat) : Bool := u.badLocal.any fun x => rangesMeet (x * 32) 32 off n

/-- Read bytes at their point (05 Table 29), for a unit of a context. SHARED offsets are the context's own. -/
def State.loadAt (s : State) (rank ctx : Nat) (loc : Loc) (alloc : Bool) (n : Nat) : Perf (List Byte) :=
  if s.cutOff rank loc then .hold
  else match loc with
  | .global pa attr =>
    if s.keyBusy attr.key then .hold
    else if s.keyId attr.key = none then .bad cKEY_INVALID s
    else match s.readHome pa attr alloc n with
    | (.ok bs, s1) => .ok bs s1
    | (.error _, s1) => .bad cUNCORR_READ s1
  | .shared die off =>
    if (s.die die).holdsShared die off n then .hold
    else if s.sharedSize ctx die < off + n then .bad cSPACE_BOUND s
    else .ok (Memory.readZero s.mem (sharedKey die (s.sharedOff ctx die off)) n) s
  | .lcl r off =>
    if !(s.portAllows ctx rank r) then .bad cRANK_PERM s
    else if (s.unitAt r).localBad off n then .bad cUNCORR_READ s
    else .ok (Memory.readZero s.mem (localKey r off) n) s
  | .stream _ _ => .hold

/-- Write bytes at their point. -/
def State.storeAt (s : State) (w : Writer) (rank ctx : Nat) (loc : Loc) (alloc : Bool) (bytes : List Byte) : Perf Unit :=
  if s.cutOff rank loc then .hold
  else match loc with
  | .global pa attr =>
    if s.keyBusy attr.key then .hold
    else if s.keyId attr.key = none then .bad cKEY_INVALID s
    else match s.performWrite w pa attr alloc bytes with
    | (none, s1) => .ok () s1
    | (some c, s1) => .bad c s1
  | .shared die off =>
    if (s.die die).holdsShared die off bytes.length then .hold
    else if s.sharedSize ctx die < off + bytes.length then .bad cSPACE_BOUND s
    else
      let po := s.sharedOff ctx die off
      .ok () ({ s with mem := Memory.writeBytes s.mem (sharedKey die po) bytes }.watchReports die true po bytes.length w)
  | .lcl r off =>
    if !(s.portAllows ctx rank r) then .bad cRANK_PERM s
    else .ok () { s with mem := Memory.writeBytes s.mem (localKey r off) bytes }
  | .stream _ _ => .bad cADDR_SPACE s

/-! ## The L1 (02 R52) -/

def l1Find (l : List L1Line) (pa key : Nat) : Option L1Line := l.find? fun x => decide (x.line = pa / 128) && decide (x.key = key)

/-- Replace bytes at an offset of a list. -/
def patch (bs : List Byte) (off : Nat) (new : List Byte) : List Byte := bs.take off ++ new ++ bs.drop (off + new.length)

/-- An own store, or a write of the own CPE, updates a line that is present (02 R52, 05 R105); a copy read under another
key leaves. -/
def l1Update (l : List L1Line) (pa key : Nat) (bytes : List Byte) : List L1Line :=
  (l.filter fun x => !(decide (x.line = pa / 128) && decide (x.key ≠ key))).map fun x => if x.line = pa / 128 ∧ x.key = key then { x with bytes := patch x.bytes (pa % 128) bytes } else x

/-- Allocate a line; the oldest of 256 leaves (log 5). -/
def l1Add (l : List L1Line) (x : L1Line) : List L1Line :=
  let l' := l.filter fun y => !(decide (y.line = x.line) && decide (y.key = x.key))
  (l' ++ [x]).drop (l'.length + 1 - 256)

/-- An atomic invalidates the line that holds its address. -/
def l1Drop (l : List L1Line) (pa : Nat) : List L1Line := l.filter fun x => x.line ≠ pa / 128

/-- Update the L1 of a unit for bytes written at a PA, line by line. -/
def State.l1Write (s : State) (rank : Nat) (loc : Loc) (bytes : List Byte) : State :=
  match loc with
  | .global pa attr =>
    if (s.unitAt rank).l1.isEmpty then s
    else s.modUnit rank fun u => { u with l1 := (linePieces (bytes.length + 1) pa bytes).foldl (fun l p => l1Update l p.1 ((s.keyId attr.key).getD 0) p.2) u.l1 }
  | _ => s

/-! ## The store buffer -/

/-- Two accesses touch a common byte. -/
def Loc.overlaps (a : Loc) (n : Nat) (b : Loc) (m : Nat) : Bool :=
  match a, b with
  | .global p _, .global q _ => rangesMeet p n q m
  | .shared d p, .shared e q => d == e && rangesMeet p n q m
  | .lcl d p, .lcl e q => d == e && rangesMeet p n q m
  | _, _ => false

def StoreEntry.meets (a b : StoreEntry) : Bool := a.loc.overlaps a.bytes.length b.loc b.bytes.length

/-- An entry may perform: every earlier load and atomic has returned (02 R407), no earlier unperformed entry of its class
(05 R95) or on its bytes (02 R53), and no earlier command holds its granules (07 R150). -/
def Core.mayPerform (u : Core) (rank : Nat) (e : StoreEntry) : Bool :=
  !e.performed && !(u.loads.any fun x => decide (x.seq < e.seq))
  && !(u.stores.any fun x => decide (x.seq < e.seq) && !x.performed && (decide (x.cls = e.cls) || x.meets e))
  && (match e.loc with
      | .lcl r off => !(decide (r = rank) && u.holdsLocal rank e.seq off e.bytes.length true)
      | _ => true)

def markPerformed (l : List StoreEntry) (seq : Nat) : List StoreEntry :=
  l.map fun x => if x.seq = seq then { x with performed := true } else x

/-- The request of a store of a unit to another package (21 R347). -/
def FabReq.isStore (q : FabReq) (rank seq : Nat) : Bool := decide (q.rank = rank) && q.use == .store seq

/-- The request of a store is answered. -/
def State.answerStore (s : State) (rank seq : Nat) : State :=
  { s with fab := { s.fab with outstanding := s.fab.outstanding.filter fun q => !q.isStore rank seq } }

/-- Perform one entry of a unit's store buffer: false when its point holds it. A default store allocates in the SRAM layer
(12 R229). A refused or failed store reaches the context as a memory report (04 R77, 12 R243). -/
def State.performNow (s : State) (rank : Nat) (e : StoreEntry) : Bool × State :=
  let u := s.unitAt rank
  let ctx := u.unit.ctx
  match (s.answerStore rank e.seq).storeAt (frontWriter rank ctx) rank ctx e.loc (e.pol == 0) e.bytes with
  | .ok _ s1 => (true, (s1.l1Write rank e.loc e.bytes).modUnit rank fun u => { u with stores := markPerformed u.stores e.seq })
  | .bad c s1 =>
    let s2 := s1.modUnit rank fun u => { u with stores := markPerformed u.stores e.seq }
    (true, if c = cUNDO_OVERFLOW then s2 else s2.reportMem ctx (some (rank, u.ctl.tlevel.toNat)) c e.va.toNat e.bytes.length)
  | .hold => (false, s)

/-- A store to another package leaves once as a request of its port; SCALAR_ACCESS_PERFORM then performs it there. -/
def State.sendStore (s : State) (rank : Nat) (e : StoreEntry) : State :=
  if s.fab.outstanding.any fun q => q.isStore rank e.seq then s
  else s.askFor rank (s.unitAt rank).unit.ctx e.loc e.bytes.length (.store e.seq)

/-- The remote part of an access to another package: the request leaves, and the access waits for its answer (21 R347). -/
inductive Gate where
  | go (s : State)
  | wait (s : State)
  | fail (cause : Nat) (s : State)

/-- A fetch or a piece of a copy in another package sends its request first and performs at its next attempt, with the
request's answer; an expired request refuses it (21 R347, R348). -/
def State.gateFor (s : State) (rank : Nat) (loc : Loc) (n : Nat) (use : FabUse) : Gate :=
  if !s.isRemote loc then .go s
  else match s.fab.outstanding.find? fun q => decide (q.rank = rank) && q.use == use && q.loc == loc with
    | some q => if q.failed then .fail cFABRIC s
      else .go { s with fab := { s.fab with outstanding := s.fab.outstanding.map fun y => if y.id = q.id then { y with answered := true } else y } }
    | none => .wait (s.askFor rank (s.unitAt rank).unit.ctx loc n use)

/-- The requests of a fetch or a copy are done with. -/
def State.gateDone (s : State) (rank : Nat) (use : FabUse) : State :=
  { s with fab := { s.fab with outstanding := s.fab.outstanding.filter fun q => !(decide (q.rank = rank) && q.use == use) } }

/-- The answered requests of a copy are done with. -/
def State.gateUsed (s : State) (rank : Nat) (use : FabUse) : State :=
  { s with fab := { s.fab with outstanding := s.fab.outstanding.filter fun q => !(decide (q.rank = rank) && q.use == use && q.answered) } }

/-- Perform an entry, or send it on its way to another package. -/
def State.performEntry (s : State) (rank : Nat) (e : StoreEntry) : Bool × State :=
  if s.isRemote e.loc then (false, s.sendStore rank e) else s.performNow rank e

/-- The entries that must perform for the entries of a set of classes to perform: those entries and every earlier entry
on their bytes. -/
def drainSet (mask : Nat → Bool) (l : List StoreEntry) : List StoreEntry :=
  l.foldr (fun e acc => if mask e.cls || acc.any (fun x => e.meets x) then e :: acc else acc) []

/-- Perform and acknowledge the entries of a set of classes, as far as their points allow. -/
def State.drain (s : State) (rank : Nat) (mask : Nat → Bool) : State :=
  let s1 := (drainSet mask (s.unitAt rank).stores).foldl (fun s e =>
    if (s.unitAt rank).mayPerform rank e then (s.performEntry rank e).2 else s) s
  s1.modUnit rank fun u => { u with stores := u.stores.filter fun e => !(e.performed && mask e.cls) }

/-- A queue without the tentative commands issued from a point of the program on; none of them has started (02 R407). -/
def Engine.backTo (e : Engine) (seq : Nat) : Engine :=
  let q := e.queue.filter fun c => decide (c.seq < seq)
  { e with queue := q, issued := e.issued - (e.queue.length - q.length) }

/-- The front end as it was before a load or atomic that has issued; later stores, loads and commands leave (02 R407). -/
def Core.backTo (u : Core) (l : Late) : Core :=
  let left := (u.cmdsAll.filter fun c => decide (l.seq ≤ c.seq)).length
  { u with regs := l.regs, pc := l.pc, ssp := l.ssp, sel := l.sel, tds := l.tds, loops := l.loops, ir := l.ir,
           loads := u.loads.filter fun x => decide (x.seq < l.seq), stores := u.stores.filter fun e => decide (e.seq < l.seq),
           cpe := u.cpe.backTo l.seq, mat := u.mat.backTo l.seq, vec := u.vec.backTo l.seq, cmds := u.cmds - left,
           seq := l.seq, stall := .none, pend := l.pend }

/-- The requests of loads and atomics that are taken back are no longer waited for. -/
def State.dropAsked (s : State) (rank : Nat) (l : List Late) : State :=
  let asked := l.filterMap fun x => x.pend.map (·.sent)
  { s with fab := { s.fab with outstanding := s.fab.outstanding.filter fun q => q.use != .load || q.rank != rank || !(asked.contains q.id) } }

/-- Take back every tentative effect: a unit that stops at a boundary has issued nothing after its oldest access that has
not returned (24 R375). -/
def State.undoLate (s : State) (rank : Nat) : State :=
  match (s.unitAt rank).loads with
  | [] => s
  | l :: _ => (s.dropAsked rank (s.unitAt rank).loads).modUnit rank fun u => { u.backTo l with pend := none }

/-- The stores of a unit that stops all perform (24 R384, R391); one to another package has its number like any other (21
R347). -/
def State.drainOut (s : State) (rank : Nat) : State :=
  let s := s.undoLate rank
  (s.unitAt rank).stores.foldl (fun s e =>
    if (s.unitAt rank).mayPerform rank e then ((if s.isRemote e.loc then s.sendStore rank e else s).performNow rank e).2 else s) s

/-- No entry of the classes is left (02 R63). -/
def State.drained (s : State) (rank : Nat) (mask : Nat → Bool) : Bool := !((s.unitAt rank).stores.any fun e => mask e.cls)

def allClasses : Nat → Bool := fun _ => true
def classMask (m : BitVec 16) : Nat → Bool := fun c => m.getLsbD c

/-- A load sees the bytes of the front end's own stores that have not yet performed (02 R53). -/
def forward (l : List StoreEntry) (loc : Loc) (n : Nat) (bytes : List Byte) : List Byte :=
  l.foldl (fun bs e =>
    if e.performed || !(e.loc.overlaps e.bytes.length loc n) then bs
    else
      let base := fun (x : Loc) => match x with
        | .global p _ => p
        | .shared _ p => p
        | .lcl _ p => p
        | .stream _ p => p
      bs.mapIdx fun i b => if base e.loc ≤ base loc + i ∧ base loc + i < base e.loc + e.bytes.length
        then e.bytes.getD (base loc + i - base e.loc) b else b) bytes

end Sys2Proof.Machine
end

