-- ==== Sys2Proof/Machine/Tables.lean ====
section
/-!
DEFINITION. The constants and tables of 06 Table 36: multiples of 2^−62, each the nearest one to the exact real, ties to
even. Tables hold sixteen 64-bit entries a number, the first lowest.
-/
namespace Sys2Proof.Machine.Fix

/-- Entry i of a table. -/
def entry (t : List Nat) (i : Nat) : Int := (bitsAt (t.getD (i / 16) 0) (64 * (i % 16)) 64 : Nat)

/-- 1 -/
def one : Int := 4611686018427387904
/-- (ln 2)^0 / 0! -/
def c0 : Int := 4611686018427387904
/-- (ln 2)^1 / 1! -/
def c1 : Int := 3196577161300663915
/-- (ln 2)^2 / 2! -/
def c2 : Int := 1107849223398934356
/-- (ln 2)^3 / 3! -/
def c3 : Int := 255967521894832113
/-- (ln 2)^4 / 4! -/
def c4 : Int := 44355791529079737
/-- (−1)^2 / (1 ln 2) -/
def d1 : Int := 6653256548922161246
/-- (−1)^3 / (2 ln 2) -/
def d2 : Int := -3326628274461080623
/-- (−1)^4 / (3 ln 2) -/
def d3 : Int := 2217752182974053749
/-- (−1)^5 / (4 ln 2) -/
def d4 : Int := -1663314137230540311
/-- (−1)^6 / (5 ln 2) -/
def d5 : Int := 1330651309784432249
/-- log2 e -/
def log2e : Int := 6653256548922161246
/-- √(2/π) -/
def k1 : Int := 3679593073373651226
/-- 0.044715 -/
def k2 : Int := 206211540313980650
/-- 2π / 2^32 -/
def w : Int := 6746518852
/-- 1/6 -/
def h6 : Int := 768614336404564651
/-- 1/24 -/
def h24 : Int := 192153584101141163
/-- 1/120 -/
def h120 : Int := 38430716820228233

/-- T[i] = 2^(i/64) -/
def tT : List Nat :=
  [0x4B4A169B900C2D004A7A77D47F7B84B149AD159789F3749648E1E9B9D588E19B4818EE218A3358EE47521CC5A2E6A9E0468D6FADBF2DD4F345CAE0F1F545EB73450A6ABAA4B77ECD444C0740496D4294438FB0CB4F46880842D561B3E6243D8A421D1461D66F20234166C34C5615D0EC40B268F9DE0183BA4000000000000000]
  ++ [0x5988E209548892455891FAC0E95612C8579DBC56B48521BA56AC1F752150A56355BD1CDAD49F699C54D0AD5A753E077C53E6C9DA74B29AB552FF6B54D8A89C75521A8AD704F3404F513821818624B40C50582887DCB8A7E14F7A993048D088D74E9F6CD3967FDBA84DC69CDCEAA72A9C4CF022C9905BFD324C1BF828C6DC54B8]
  ++ [0x6A79AD55E7F6FD1069540EC8F895722D683199ED779592CA6712460A8FC2407265F60A7F79393E2E64DCDEC3371793D163C6BA6455DCD8AE62B39508AA836D6F61A3666D124BB2046096266533384A2B5F8BCCDB3D3988415E8451CFAC061B5F5D7FAD59099F22FE5C7DD7A3B17DCF755B7EC8F19468BBC95A827999FCEF3242]
  ++ [0x7E9F06067A4360BA7D41D96DB915019D7BE86FB985689DDC7A92BE8A924366167940BB9E2CFFD89D77F25CCDEE6D7AE676A7980F6CCA15C275606373EE921C97741CB5281E25EE3472DC8373BE41A454719FC4B95F452D2970666F76154A70896F307A412F0748926DFDDBCBED791BAB6CCE8AE13C57EBDB6BA27E656B4EB57A]

/-- B[i] = 64/(64+i) -/
def tB : List Nat :=
  [0x33D91D2A2067B23A34834834834834833531DEC0D4C77B0335E50D79435E50D8369D0369D0369D033759F22983759F23381C0E070381C0E038E38E38E38E38E439B0AD12073615A23A83A83A83A83A843B5CC0ED7303B5CC3C3C3C3C3C3C3C3C3D226357E16ECE543E0F83E0F83E0F843F03F03F03F03F044000000000000000]
  ++ [0x2B1DA46102B1DA462B9310572620AE4C2C0B02C0B02C0B032C8590B21642C8592D02D02D02D02D032D82D82D82D82D832E05C0B81702E05C2E8BA2E8BA2E8BA32F149902F149902F2FA0BE82FA0BE830303030303030303030C30C30C30C30C33159721ED7E7534731F3831F3831F383329161F9ADD3C0CA3333333333333333]
  ++ [0x24E6A171024E6A17253C8253C8253C822593F69B02593F6A25ED097B425ED0982647C69456217ECE26A439F656F1826A2702702702702702276276276276276227C45979C95204F92828282828282828288DF0CAC5B3F5DD28F5C28F5C28F5C3295FAD40A57EB50329CBC14E5E0A72F02A3A0FD5C5F02A3A2AAAAAAAAAAAAAAB]
  ++ [0x2040810204081020208208208208208220C49BA5E353F7CF2108421084210842214D0214D0214D022192E29F79B4758221D9EAD7CD391FBC2222222222222222226B90226B90226C22B63CBEEA4E1A092302302302302302234F72C234F72C23239E0D5B450239E123EE08FB823EE090243F6F0243F6F0242492492492492492]

/-- G[i] = −log2 of the rounded B[i] -/
def tG : List Nat :=
  [0x137124CEA4CDECDA124407AB0E073983111307DAD30B75CC0FDE0B5C813405110EA4F726192CB7E50D67AF16DA7649F70C2615E81781D9800AE00D1CFDEB43CF099574F13C570D1008462C466D3CF1CB06F210902B6AEE990598FDBEB244C5A0043ACE27E8A7E6AD02D75A6EB1DFB0E6016E79685C2D22990000000000000000]
  ++ [0x247883A84E4F9010237E623D2BA01BC8228193F543CA873C21820A01AC754CB1207FB5172F32FE671F7A8568CB06CECE1E726AA1E754D20C1D6753E032EA0EFE1C592FAD295B567F1B47EBF73882A0A31A33760A7F60509E191BBA891F1708B51800A563161C543316E221CD9D0CDE5815C01A39FBD687A0149A784BCD1B8AFF]
  ++ [0x32D7B5A5596BEBE03201CC2C000599FD3129EE960DDF1680305013AB7CE0E5B72F7431F26A05C8132E963FAC9C0EA78E2DB632D4EC3293B42CD4011C8F11979B2BEF9FE83C135D712B09044D313A67872A20230E1151F1BB2934F0979A3715FC284760FD30D552CD275767F54042CD9A2664F8D569394D912570068E7EF5A1E7]
  ++ [0x3F469C22EF8466C63E8BC1179E0CAA9D3DCF68E36752A0FA3D118D66C4D4E5543C52285C1C0280403B9133567FEAD8BD3ACEA7C065D41DFD3A0A7EDA4C112CE73944B1B952662C6B387D3945C340AA6637B40E398CFCDB6B36E9291EAA65B497361C824D7990D7AF354E11EB0029A6F9347DCFE71C303DA233ABB3FAA02166CE]

/-- CS[k] = cos(2πk/1024) -/
def tCS : List Nat :=
  [0x3FBAA73FE3E8AB953FC395F97AB612343FCBE75E5C7280D93FD39B5A0310742A3FDAB1D96CE787863FE12ACB1CE35A813FE7061F1AAEB79B3FEC43C6F2DAFBC73FF0E3B5B703BE633FF4E5DFFDEEB93A3FF84A3BE3A7F05F3FFB10C1099A19763FFD396896A342573FFEC42D3725B6AF3FFFB10B1D15249B4000000000000000]
  ++ [0x3ED87EFBEB776E613EEB33474240EEC23EFD4C53CC7ADCDD3F0EC9F4E297526B3F1FABFF5C83B59D3F2FF2499213350F3F3F9CAB5B65907D3F4EAAFE114A2D433F5D1D1C8D9F75B13F6AF2E32BAE82473F782C2FC8830BF53F84C8E1C33FA68F3F90C8D9FD6E42993F9C2BFADB4CF5A93FA6F228441708A93FB11B47A24A4B3C]
  ++ [0x3D5B65D1CF511B373D77B191BE16E8723D9365A7877F08463DAE81CED092C67A3DC905C4B53B77923DE2F147C8E784B23DFC4418172BD8E43E14FDF72461AE553E2D1EA7EE40B9DB3E44A5EEEC75B3703E5B939211353A0B3E71E758C9CB118A3E87A10BFF25B9383E9CC076165E599C3EB14562F13D08483EC52F9FEEB96056]
  ++ [0x3B470752CD130F543B6CA4C4714135953B91AF968204C05B3BB6276D998478C23BDA0BEFBC8FB36A3BFD5CC45B7C55573C201994530157E03C424209ED0DC97F3C63D5D0E19C49913C84D4965782FCD43CA53E08E53FF8C83CC511D891C223DD3CE44FB6D52E88913D02F75699A2198C3D21086C3BEFE4E73D3E82AD8C5BB4BB]
  ++ [0x38A0840256D20DD438CF166910E7363B38FD1CA44679E636392A96426823E9ED395782D3417200E23983E1E7F9F8B87939AFB3131665EBC239DAF5E8798EE5E23A05A9FD657B248D3A2FCEE87C6BB7EF3A596441C1DF3D843A8269A29B9273593AAADEA5D27D61403AD2C2E793CD15863AFA160571D9F2C03B20D79E651A8C51]
  ++ [0x356E64B22D81A8D435A5793C43AA215C35DC09687828E763361214B02A03FF3736479A8E00276857367C9A7DEAAE230A36B113FD242809C436E5068A32DC7B22371871A4EA09D175374B54CE6B21A4BF377DAF892701D40E37AF8158DF2A533F37E0C9C2A6EFBA243811884CE4AA921B3841BC7F52E35F26387165E3017B61A4]
  ++ [0x31B88A662D31982431F79947DF2819D232362CDFA93B43D93274449324C7F69F32B1DFC91CDBAD5532EEFDE98FAE8375332B9E5DB01A445E3367C08FE70E816833A363EBD501AAE333DE87DE535F286C34192BD575F26D1034534F408C4F03BB348CF1902335908E34C6123605F5C38634FEB0A53FCD39343536CC521D434606]
  ++ [0x2D881AE78304EA252DCE88A9D5515D122E1485662EDAF38A2E5A106FDFFF2C872E9F291B51A51A012EE3CEBE06E4C2572F2800AE9EABC97B2F6BBE44D55F5DBC2FAF06D9867B64462FF1D9C6AE2EE132303436676AF5975130761C17FF2EDBA430B78A35D2B198A330F8801F745D7D693138FD349BA954EE317900D62A2E816A]
  ++ [0x28E76A3730E68E39293489373612716C2981428BD800081229CD9577C7CBD2282A19813EB341365A2A65052546AB2B982AB020712EA26EA32AFAD26919D93F452B451A54BAE4A0AC2B8EF77CCA0318832BD8692B06E0E8782C216EAA3A59BDB72C6A07463837D2222CB2324BE0F07AE22CF9EF09235E200C2D413CCCFE779921]
  ++ [0x23E1E117790C35DE2434F33267D6B1632487ABF731583E7124DA0A99BA25BD51252C0E4EC5395056257DB64BF5E7D3EF25CF01C7D1D42D27261FEFF9C2E069C22670801A191CAD2A26C0B1620CB3E5702710830BBFD64398275FF45240A1727927AF04718B06877F27FDB2A68AADA89B284BFE2F1CD762BE2899E64A123BAC30]
  ++ [0x1E83E0EAF85113D11EDC1952EF78D5891F3405963FD067421F8BA4DBF89AB9FB1FE2F64BE7120FB62039F90E987D6DB32090AC4D5C4434DD20E70F3245FFDB2D213D20E82F8BC1012192E09ABB131D3921E84D76551CFB22223D66A83696450822922B5E66D9D67D22E69AC7BDB69141233AB413E5736FDA238E76735CD190D9]
  ++ [0x18DAA52EC8A4AFD219372A63BC93D72D1993716141BDFEBB19EF7943A8ED8A2E1A4B4127DEA1E4901AA6C82B6D3FC98B1B020D6C7F4009141B5D1009E15CC02B1BB7CF2304BD01341C1249D8011EE6A01C6C7F4997000A901CC66E9931C45E171D2016E8E9DB5AC71D79775B86E389551DD28F1481CC57F11E2B5D3806F63B1E]
  ++ [0x12F422DAEC0386A3135410C2E18151B113B3CEFA0414B77D14135C94176601431472B8A5571053C014D1E24278E76A251530D880AF3C2381158F9A75AB1FDCFE15EE27379EA69359164C7DDD3F27C61116AA9D7DC77E16B217088530FA459EAF1766340F2418F64B17C3A9311DCCE7021820E3B04EAAC3F3187DE2A6AEA962D2]
  ++ [0xCDEE5F96E21B3330D415012D802284F0DA399779EB391370E05C1353F27B17E0E67C659895943120EC9A7F2A2A188AF0F2B650F080D0DA90F8CFCBD90AF8D580FEE6E0D6FF6FC5A104FB80E37FDADFF10B0D9CFDBDB90141111D262B1F677611172A0D77651772411D3443F4CDB3DD21233BBABC3BB71661294062ED59F05A9]
  ++ [0x6A9EDC9125700DE070DE171E7B0B53D0771C3B2EBA7F24507D59395AA5CC38D08395023DD418E92089CF8676D7ABB5609008B6A763DE75B0964083747309D1109C76DD866C689DD0A2ABB58949F2CED0A8DEFC2CBE2F8FD0AF10A22459FE32A0B5409827B25591F0BB6ECEF285F98A40C19B3744E3262DD0C7C5C1E34D3055B]
  ++ [0x6487C3F99C01C400C90E8FE6F63C23012D936BBE30EFD30192155F7A3667E001F693731D1CF010025B0CAEB28AB9A302BF801A5219A86D0323ECBE21BB027D038851A2581AFC5A03ECADCF3F041BFE0451004D35C26CA004B54824B3867D730519845E49C8256B057DB402A6A9063005E1D61A9756C8560645E9AF0A6D0AF8]

/-- SN[k] = sin(2πk/1024) -/
def tSN : List Nat :=
  [0x5E1D61A9756C856057DB402A6A906300519845E49C8256B04B54824B3867D730451004D35C26CA003ECADCF3F041BFE038851A2581AFC5A0323ECBE21BB027D02BF801A5219A86D025B0CAEB28AB9A301F693731D1CF0100192155F7A3667E0012D936BBE30EFD300C90E8FE6F63C23006487C3F99C01C40000000000000000]
  ++ [0xC19B3744E3262DD0BB6ECEF285F98A40B5409827B25591F0AF10A22459FE32A0A8DEFC2CBE2F8FD0A2ABB58949F2CED09C76DD866C689DD0964083747309D1109008B6A763DE75B089CF8676D7ABB5608395023DD418E9207D59395AA5CC38D0771C3B2EBA7F245070DE171E7B0B53D06A9EDC9125700DE0645E9AF0A6D0AF8]
  ++ [0x1233BBABC3BB716611D3443F4CDB3DD21172A0D7765177241111D262B1F6776110B0D9CFDBDB9014104FB80E37FDADFF0FEE6E0D6FF6FC5A0F8CFCBD90AF8D580F2B650F080D0DA90EC9A7F2A2A188AF0E67C659895943120E05C1353F27B17E0DA399779EB391370D415012D802284F0CDEE5F96E21B3330C7C5C1E34D3055B]
  ++ [0x1820E3B04EAAC3F317C3A9311DCCE7021766340F2418F64B17088530FA459EAF16AA9D7DC77E16B2164C7DDD3F27C61115EE27379EA69359158F9A75AB1FDCFE1530D880AF3C238114D1E24278E76A251472B8A5571053C014135C941766014313B3CEFA0414B77D135410C2E18151B112F422DAEC0386A31294062ED59F05A9]
  ++ [0x1DD28F1481CC57F11D79775B86E389551D2016E8E9DB5AC71CC66E9931C45E171C6C7F4997000A901C1249D8011EE6A01BB7CF2304BD01341B5D1009E15CC02B1B020D6C7F4009141AA6C82B6D3FC98B1A4B4127DEA1E49019EF7943A8ED8A2E1993716141BDFEBB19372A63BC93D72D18DAA52EC8A4AFD2187DE2A6AEA962D2]
  ++ [0x233AB413E5736FDA22E69AC7BDB6914122922B5E66D9D67D223D66A83696450821E84D76551CFB222192E09ABB131D39213D20E82F8BC10120E70F3245FFDB2D2090AC4D5C4434DD2039F90E987D6DB31FE2F64BE7120FB61F8BA4DBF89AB9FB1F3405963FD067421EDC1952EF78D5891E83E0EAF85113D11E2B5D3806F63B1E]
  ++ [0x284BFE2F1CD762BE27FDB2A68AADA89B27AF04718B06877F275FF45240A172792710830BBFD6439826C0B1620CB3E5702670801A191CAD2A261FEFF9C2E069C225CF01C7D1D42D27257DB64BF5E7D3EF252C0E4EC539505624DA0A99BA25BD512487ABF731583E712434F33267D6B16323E1E117790C35DE238E76735CD190D9]
  ++ [0x2CF9EF09235E200C2CB2324BE0F07AE22C6A07463837D2222C216EAA3A59BDB72BD8692B06E0E8782B8EF77CCA0318832B451A54BAE4A0AC2AFAD26919D93F452AB020712EA26EA32A65052546AB2B982A19813EB341365A29CD9577C7CBD2282981428BD8000812293489373612716C28E76A3730E68E392899E64A123BAC30]
  ++ [0x3138FD349BA954EE30F8801F745D7D6930B78A35D2B198A330761C17FF2EDBA4303436676AF597512FF1D9C6AE2EE1322FAF06D9867B64462F6BBE44D55F5DBC2F2800AE9EABC97B2EE3CEBE06E4C2572E9F291B51A51A012E5A106FDFFF2C872E1485662EDAF38A2DCE88A9D5515D122D881AE78304EA252D413CCCFE779921]
  ++ [0x34FEB0A53FCD393434C6123605F5C386348CF1902335908E34534F408C4F03BB34192BD575F26D1033DE87DE535F286C33A363EBD501AAE33367C08FE70E8168332B9E5DB01A445E32EEFDE98FAE837532B1DFC91CDBAD553274449324C7F69F32362CDFA93B43D931F79947DF2819D231B88A662D319824317900D62A2E816A]
  ++ [0x3841BC7F52E35F263811884CE4AA921B37E0C9C2A6EFBA2437AF8158DF2A533F377DAF892701D40E374B54CE6B21A4BF371871A4EA09D17536E5068A32DC7B2236B113FD242809C4367C9A7DEAAE230A36479A8E00276857361214B02A03FF3735DC09687828E76335A5793C43AA215C356E64B22D81A8D43536CC521D434606]
  ++ [0x3AFA160571D9F2C03AD2C2E793CD15863AAADEA5D27D61403A8269A29B9273593A596441C1DF3D843A2FCEE87C6BB7EF3A05A9FD657B248D39DAF5E8798EE5E239AFB3131665EBC23983E1E7F9F8B879395782D3417200E2392A96426823E9ED38FD1CA44679E63638CF166910E7363B38A0840256D20DD4387165E3017B61A4]
  ++ [0x3D21086C3BEFE4E73D02F75699A2198C3CE44FB6D52E88913CC511D891C223DD3CA53E08E53FF8C83C84D4965782FCD43C63D5D0E19C49913C424209ED0DC97F3C201994530157E03BFD5CC45B7C55573BDA0BEFBC8FB36A3BB6276D998478C23B91AF968204C05B3B6CA4C4714135953B470752CD130F543B20D79E651A8C51]
  ++ [0x3EB14562F13D08483E9CC076165E599C3E87A10BFF25B9383E71E758C9CB118A3E5B939211353A0B3E44A5EEEC75B3703E2D1EA7EE40B9DB3E14FDF72461AE553DFC4418172BD8E43DE2F147C8E784B23DC905C4B53B77923DAE81CED092C67A3D9365A7877F08463D77B191BE16E8723D5B65D1CF511B373D3E82AD8C5BB4BB]
  ++ [0x3FA6F228441708A93F9C2BFADB4CF5A93F90C8D9FD6E42993F84C8E1C33FA68F3F782C2FC8830BF53F6AF2E32BAE82473F5D1D1C8D9F75B13F4EAAFE114A2D433F3F9CAB5B65907D3F2FF2499213350F3F1FABFF5C83B59D3F0EC9F4E297526B3EFD4C53CC7ADCDD3EEB33474240EEC23ED87EFBEB776E613EC52F9FEEB96056]
  ++ [0x3FFFB10B1D15249B3FFEC42D3725B6AF3FFD396896A342573FFB10C1099A19763FF84A3BE3A7F05F3FF4E5DFFDEEB93A3FF0E3B5B703BE633FEC43C6F2DAFBC73FE7061F1AAEB79B3FE12ACB1CE35A813FDAB1D96CE787863FD39B5A0310742A3FCBE75E5C7280D93FC395F97AB612343FBAA73FE3E8AB953FB11B47A24A4B3C]

end Sys2Proof.Machine.Fix
end

