-- ==== Sys2Proof/Machine/Num.lean ====
section
/-!
DEFINITION. Exact arithmetic and every rounding of 06: values are dyadic, roundings go through whole numbers, and the
transcendental recipes work on multiples of 2^−62.
-/
namespace Sys2Proof.Machine

/-- An exact value: NaN, an infinity, or ±m × 2^e (the sign of a zero is kept). -/
inductive Val where
  | nan
  | inf (neg : Bool)
  | fin (neg : Bool) (m : Nat) (e : Int)
deriving DecidableEq, Repr, Inhabited

/-- m × 2^e for a signed m. -/
structure Dy where
  m : Int
  e : Int
deriving DecidableEq, Repr, Inhabited

def pow2 (k : Int) : Nat := 2 ^ k.toNat

/-- a × 2^k as a whole number when k ≥ 0 (else the value is cut). -/
def Dy.shiftTo (a : Dy) (e : Int) : Int := a.m * pow2 (a.e - e)

def Dy.add (a b : Dy) : Dy := let e := min a.e b.e; { m := a.shiftTo e + b.shiftTo e, e := e }
def Dy.neg (a : Dy) : Dy := { a with m := -a.m }
def Dy.sub (a b : Dy) : Dy := a.add b.neg
def Dy.mul (a b : Dy) : Dy := { m := a.m * b.m, e := a.e + b.e }
def Dy.lt (a b : Dy) : Bool := let e := min a.e b.e; decide (a.shiftTo e < b.shiftTo e)
def Dy.le (a b : Dy) : Bool := let e := min a.e b.e; decide (a.shiftTo e ≤ b.shiftTo e)
def Dy.sum (l : List Dy) : Dy := l.foldl Dy.add { m := 0, e := 0 }
def Dy.ofInt (n : Int) : Dy := { m := n, e := 0 }
/-- A multiple of 2^−62. -/
def Dy.ofFix (n : Int) : Dy := { m := n, e := -62 }
/-- floor(v × 2^k). -/
def Dy.floorAt (a : Dy) (k : Int) : Int := if 0 ≤ a.e + k then a.m * pow2 (a.e + k) else a.m / pow2 (-(a.e + k))
/-- floor62 (R126), as a multiple of 2^−62. -/
def Dy.floor62 (a : Dy) : Int := a.floorAt 62
/-- floor62 of a product of two multiples of 2^−62. -/
def mulF (a b : Int) : Int := a * b / (2 ^ 62 : Nat)

def Val.dy : Val → Dy
  | .fin s m e => { m := if s then -(m : Int) else m, e := e }
  | _ => { m := 0, e := 0 }

/-- The value of a dyadic number; a zero has the given sign. -/
def Dy.val (a : Dy) (zneg : Bool := false) : Val :=
  if a.m = 0 then .fin zneg 0 0 else .fin (decide (a.m < 0)) a.m.natAbs a.e

def Val.isNan : Val → Bool
  | .nan => true
  | _ => false
def Val.isZero : Val → Bool
  | .fin _ 0 _ => true
  | _ => false
def Val.neg : Val → Val
  | .nan => .nan
  | .inf s => .inf !s
  | .fin s m e => .fin (!s) m e
def Val.abs : Val → Val
  | .nan => .nan
  | .inf _ => .inf false
  | .fin _ m e => .fin false m e
def Val.sign : Val → Bool
  | .nan => false
  | .inf s => s
  | .fin s _ _ => s

/-- Exact sum: NaN for opposite infinities; an exact zero is +0 unless both addends are −0 (09 R172). -/
def Val.add : Val → Val → Val
  | .nan, _ => .nan
  | _, .nan => .nan
  | .inf s, .inf t => if s = t then .inf s else .nan
  | .inf s, .fin _ _ _ => .inf s
  | .fin _ _ _, .inf t => .inf t
  | .fin s m e, .fin t n f => ((Val.fin s m e).dy.add (Val.fin t n f).dy).val (s && t)

/-- Exact product; 0 × ∞ is NaN, and a zero takes the xor of the signs. -/
def Val.mul : Val → Val → Val
  | .nan, _ => .nan
  | _, .nan => .nan
  | .inf s, .inf t => .inf (s != t)
  | .inf s, .fin t n _ => if n = 0 then .nan else .inf (s != t)
  | .fin s m _, .inf t => if m = 0 then .nan else .inf (s != t)
  | .fin s m e, .fin t n f => .fin (s != t) (m * n) (e + f)

/-- An exact zero that a word computes is +0 (R116), but for the words of 09 Table 52 (09 R172). -/
def Val.plusZero (v : Val) : Val := if v.isZero then .fin false 0 0 else v

/-- a < b on exact values; false with a NaN; the two zeros are equal. -/
def Val.lt : Val → Val → Bool
  | .nan, _ => false
  | _, .nan => false
  | .inf s, .inf t => s && !t
  | .inf s, .fin _ _ _ => s
  | .fin _ _ _, .inf t => !t
  | a, b => a.dy.lt b.dy

def Val.eq : Val → Val → Bool
  | .nan, _ => false
  | _, .nan => false
  | a, b => !a.lt b && !b.lt a

/-- The larger; −0 counts below +0; NaN propagates (09 R175, R181). -/
def Val.max (a b : Val) : Val :=
  if a.isNan || b.isNan then .nan
  else if a.lt b then b else if b.lt a then a else if a.isZero && a.sign then b else a
def Val.min (a b : Val) : Val :=
  if a.isNan || b.isNan then .nan
  else if a.lt b then a else if b.lt a then b else if b.isZero && b.sign then b else a

/-! ## Rounding -/

/-- Nearest whole number to a/b, ties to even. -/
def rneDiv (a b : Nat) : Nat :=
  let q := a / b
  let r := a % b
  if 2 * r < b then q else if b < 2 * r then q + 1 else q + q % 2

/-- m × 2^k to the nearest whole number. -/
def rneShift (m : Nat) (k : Int) : Nat := if 0 ≤ k then m * pow2 k else rneDiv m (pow2 (-k))

/-- Magnitude bits of a binary float with p significant bits and smallest quantum 2^emin; `top` is the pattern of ∞. -/
def packMag (p : Nat) (emin : Int) (top m : Nat) (e : Int) : Nat :=
  if m = 0 then 0
  else
    let q := max (Int.ofNat m.log2 + e - (Int.ofNat p - 1)) emin
    min top ((q - emin).toNat * 2 ^ (p - 1) + rneShift m (e - q))

/-- rne_fp32 (R116). -/
def toFP32 : Val → Nat
  | .nan => 0x7FC00000
  | .inf s => if s then 0xFF800000 else 0x7F800000
  | .fin s m e => packMag 24 (-149) 0x7F800000 m e + if s then 2 ^ 31 else 0

/-- The single rounding of an exact value to BF16 (R117). -/
def toBF16 : Val → Nat
  | .nan => 0x7FC0
  | .inf s => if s then 0xFF80 else 0x7F80
  | .fin s m e => packMag 8 (-133) 0x7F80 m e + if s then 2 ^ 15 else 0

/-- num/den × 2^x to p significant bits; the value must be positive. -/
def packRat (p : Nat) (emin : Int) (top num den : Nat) (x : Int) : Nat :=
  if num = 0 then 0
  else
    let t0 := Int.ofNat num.log2 - Int.ofNat den.log2
    let t := if num * pow2 (-t0) < den * pow2 t0 then t0 - 1 else t0
    let q := max (t + x - (Int.ofNat p - 1)) emin
    let k := x - q
    min top ((q - emin).toNat * 2 ^ (p - 1) + rneDiv (num * pow2 k) (den * pow2 (-k)))

/-- rne_fp32 of a quotient of dyadic numbers, with a sign; the denominator is not zero. -/
def ratFP32 (neg : Bool) (a b : Dy) : Nat :=
  packRat 24 (-149) 0x7F800000 a.m.natAbs b.m.natAbs (a.e - b.e) + if neg then 2 ^ 31 else 0

/-- Integer square root from bit k down. -/
def isqrtFrom (n : Nat) : Nat → Nat → Nat
  | 0, r => r
  | k + 1, r => isqrtFrom n k (if (r + 2 ^ k) * (r + 2 ^ k) ≤ n then r + 2 ^ k else r)

def isqrt (n : Nat) : Nat := isqrtFrom n (n.log2 / 2 + 1) 0

/-- rne_fp32 of √(num/den × 2^x), for a positive value: a root of at least 60 bits with a sticky bit below. -/
def rootFP32 (num den : Nat) (x : Int) : Nat :=
  let x' := if x % 2 = 0 then x else x - 1
  let n := if x % 2 = 0 then num else 2 * num
  let k := den.log2 + 62
  let v := n * 2 ^ (2 * k) / den
  let r := isqrt v
  let exact := r * r * den == n * 2 ^ (2 * k)
  packMag 24 (-149) 0x7F800000 (2 * r + if exact then 0 else 1) (x' / 2 - Int.ofNat k - 1)

/-! ## Decoding (R114–R121) -/

/-- A binary float: sign, exponent field of `ew` bits, mantissa of `mw` bits. -/
def ofFloat (ew mw : Nat) (v : Nat) : Val :=
  let s := bitAt v (ew + mw)
  let e := bitsAt v mw ew
  let m := bitsAt v 0 mw
  let bias : Int := 2 ^ (ew - 1) - 1
  if e = 2 ^ ew - 1 then (if m = 0 then .inf s else .nan)
  else if e = 0 then .fin s m (1 - bias - mw)
  else .fin s (2 ^ mw + m) (e - bias - mw)

def ofFP32 (v : Nat) : Val := ofFloat 8 23 v
def ofBF16 (v : Nat) : Val := ofFloat 8 7 v

/-- Exponent bits, mantissa bits and bias of a narrow format (Table 35). -/
def narrowShape : Nat → Nat × Nat × Int
  | 2 => (4, 3, 7)
  | 3 => (5, 2, 15)
  | 4 => (3, 2, 3)
  | _ => (2, 1, 1)

/-- A narrow code's value (R118). -/
def ofNarrow (f v : Nat) : Val :=
  let (ew, mw, bias) := narrowShape f
  if v = 0 then .fin false 0 0
  else if (f = 2 ∨ f = 3) ∧ v % 128 = 127 then .nan
  else .fin (bitAt v (ew + mw)) (2 ^ mw + bitsAt v 0 mw) (bitsAt v mw ew - bias - mw)

/-- A two's-complement value of w bits. -/
def ofSigned (w v : Nat) : Int := if v < 2 ^ (w - 1) then (v : Int) else (v : Int) - 2 ^ w

/-- The exact value of an element code (R114–R120). -/
def decodeElem (f v : Nat) : Val :=
  match f with
  | 0 => ofFP32 v
  | 1 => ofBF16 v
  | 6 => (Dy.ofInt (ofSigned 8 v)).val
  | 7 => (Dy.ofInt v).val
  | 8 => (Dy.ofInt (ofSigned 4 v)).val
  | 11 => (Dy.ofInt (ofSigned 32 v)).val
  | 12 => (Dy.ofInt v).val
  | _ => ofNarrow f v

/-- An SE8 scale (R121). -/
def ofScale (s : Nat) : Val := if s = 255 then .nan else .fin false 1 (Int.ofNat s - 127)

/-- Codebook weights of a code (R124): the value of coordinate j. -/
def vq2Weight (ent code j : Nat) : Val :=
  let par := (List.range 7).foldl (fun a i => a != bitAt code i) false
  let neg := if j = 7 then par else bitAt code j
  let k := if bitAt code 7 then 2 else 1
  let m := k * bitsAt ent (4 * j) 4
  .fin (neg && m != 0) m (-1)

/-! ## Encoding (R119, R120, R122) -/

/-- Largest magnitude of a narrow format. -/
def narrowMax : Nat → Dy
  | 2 => { m := 448, e := 0 }
  | 3 => { m := 98304, e := 0 }
  | 4 => { m := 28, e := 0 }
  | _ => { m := 6, e := 0 }

/-- A positive magnitude to m mantissa bits, exponent unbounded (rne_m of R119). -/
def rneMant (mw m : Nat) (e : Int) : Dy :=
  let q := Int.ofNat m.log2 + e - mw
  { m := rneShift m (e - q), e := q }

/-- The code of a representable nonzero magnitude. -/
def encodeNarrow (f : Nat) (neg : Bool) (y : Dy) : Nat :=
  let (ew, mw, bias) := narrowShape f
  let t := Int.ofNat y.m.natAbs.log2 + y.e
  let frac := ({ m := y.m, e := y.e } : Dy).floorAt (mw - t) - 2 ^ mw
  frac.toNat + (t + bias).toNat * 2 ^ mw + if neg then 2 ^ (ew + mw) else 0

/-- cvt_narrow (R119). -/
def cvtNarrow (f : Nat) (ovn : Bool) : Val → Nat
  | .nan => if f = 2 ∨ f = 3 then 0x7F else 0
  | .inf s => if ovn then 0x7F else encodeNarrow f s (narrowMax f)
  | .fin s m e =>
    if m = 0 then 0
    else
      let (_, mw, bias) := narrowShape f
      let lo : Dy := if s then { m := 1, e := -bias } else { m := 2 ^ mw + 1, e := -bias - mw }
      let x : Dy := { m := m, e := e }
      if x.le { lo with e := lo.e - 1 } then 0
      else
        let y := if x.lt lo then lo else rneMant mw m e
        if (narrowMax f).lt y then (if ovn then 0x7F else encodeNarrow f s (narrowMax f)) else encodeNarrow f s y

/-- Range of an integer format. -/
def intRange : Nat → Int × Int
  | 6 => (-128, 127)
  | 7 => (0, 255)
  | 8 => (-8, 7)
  | 11 => (-(2 ^ 31), 2 ^ 31 - 1)
  | _ => (0, 2 ^ 32 - 1)

/-- An integer as a code of its format. -/
def intCode (f : Nat) (n : Int) : Nat := (n % (2 ^ fmtBits f : Nat)).toNat

def clampInt (lo hi n : Int) : Int := if n < lo then lo else if hi < n then hi else n

/-- cvt_int (R120). -/
def cvtInt (f : Nat) : Val → Nat
  | .nan => 0
  | .inf s => intCode f (if s then (intRange f).1 else (intRange f).2)
  | .fin s m e =>
    let n : Int := rneShift m e
    intCode f (clampInt (intRange f).1 (intRange f).2 (if s then -n else n))

/-- A value into a format (09 R179). -/
def encodeElem (f : Nat) (ovn : Bool) (v : Val) : Nat :=
  match f with
  | 0 => toFP32 v
  | 1 => toBF16 v
  | 2 => cvtNarrow 2 ovn v
  | 3 => cvtNarrow 3 ovn v
  | 4 => cvtNarrow 4 ovn v
  | 5 => cvtNarrow 5 ovn v
  | f => cvtInt f v

/-- rne_bf16 of an FP32 pattern (R117). -/
def rneBF16 (x : Nat) : Nat :=
  if 0x7F800000 < x % 2 ^ 31 then 0x7FC0 else (x + 0x7FFF + x / 2 ^ 16 % 2) % 2 ^ 32 / 2 ^ 16

/-- An FP32 result into FP32 or BF16 (R128, 09 R181). -/
def roundTo (f x : Nat) : Nat := if f = 1 then rneBF16 x else x

/-- emax of R122. -/
def emaxOf : Nat → Int
  | 2 => 8
  | 3 => 16
  | 4 => 4
  | 5 => 2
  | 6 => 6
  | _ => 2

/-- qscale (R122). -/
def qscale (f : Nat) (blk : List Val) : Nat :=
  if blk.any fun v => match v with
    | .fin _ _ _ => false
    | _ => true
  then 255
  else
    match (blk.foldl (fun a v => Val.max a v.abs) (.fin false 0 0)) with
    | .fin _ m e =>
      if m = 0 then 127 else (clampInt 0 254 (Int.ofNat m.log2 + e - emaxOf f + 127)).toNat
    | _ => 255

/-- qelem (R122). -/
def qelem (f s : Nat) (v : Val) : Nat :=
  if s = 255 then 0
  else
    let x := v.mul (.fin false 1 (127 - Int.ofNat s))
    if f = 6 ∨ f = 8 then cvtInt f x else cvtNarrow f false x

/-! ## FP32 arithmetic and sums -/

/-- The FP32 sum of two patterns with the signed zeros of IEEE 754 (02 R61). -/
def fadd32 (a b : Nat) : Nat := toFP32 ((ofFP32 a).add (ofFP32 b))

/-- rne_fp32 of the sum of an accumulator and a chunk: an exact zero is +0 (R116, R125). -/
def accAdd (a b : Nat) : Nat := toFP32 ((ofFP32 a).add (ofFP32 b)).plusZero

/-- chunk_round of the terms of a chunk (R125). -/
def chunkRound (l : List Val) : Nat :=
  if l.any (·.isNan) then 0x7FC00000
  else
    let pos := l.any (· == Val.inf false)
    let neg := l.any (· == Val.inf true)
    if pos && neg then 0x7FC00000
    else if pos then 0x7F800000
    else if neg then 0xFF800000
    else toFP32 ((Dy.sum (l.map Val.dy)).val)

/-- Sum of a list in chunks of 32 from an FP32 start (R125, 09 R181); the fuel is the number of chunks. -/
def chunkSum : Nat → Nat → List Val → Nat
  | 0, acc, _ => acc
  | n + 1, acc, l => if l.isEmpty then acc else chunkSum n (accAdd acc (chunkRound (l.take 32))) (l.drop 32)

/-! ## Transcendental words (R126–R129) -/

/-- exp2core (R127): the exponent and the fix62 factor. -/
def exp2core (z : Dy) : Int × Int :=
  let n := z.floorAt 6
  let i := (n % 64).toNat
  let e := (n - i) / 64
  let r := (z.sub { m := n, e := -6 }).floor62
  let h3 := mulF Fix.c4 r + Fix.c3
  let h2 := mulF h3 r + Fix.c2
  let h1 := mulF h2 r + Fix.c1
  let h0 := mulF h1 r + Fix.c0
  (e, mulF (Fix.entry Fix.tT i) h0)

/-- log2core (R127) of a positive m × 2^e, in fix62. -/
def log2core (m : Nat) (e : Int) : Int :=
  let t := m.log2
  let E := Int.ofNat t + e
  let x : Dy := { m := m, e := -(t : Int) }
  let i := (x.floorAt 6 - 64).toNat
  let b := Fix.entry Fix.tB i
  let tt := (x.mul (Dy.ofFix b)).floor62 - Fix.one
  let h4 := mulF Fix.d5 tt + Fix.d4
  let h3 := mulF h4 tt + Fix.d3
  let h2 := mulF h3 tt + Fix.d2
  let h1 := mulF h2 tt + Fix.d1
  E * Fix.one + Fix.entry Fix.tG i + mulF h1 tt

/-- sg (R127), as a dyadic number. -/
def sg (z : Dy) : Dy :=
  let lim : Dy := { m := 160, e := 0 }
  let z' := if z.lt lim.neg then lim.neg else if lim.lt z then lim else z
  let r := exp2core z'
  { m := r.2, e := r.1 - 62 }

def dyOne : Dy := { m := 1, e := 0 }
def log2eDy : Dy := Dy.ofFix Fix.log2e

/-- VEXP2's recipe on a finite z (Table 37). -/
def exp2Of (z : Dy) : Nat :=
  if Dy.le { m := 128, e := 0 } z then 0x7F800000
  else if z.lt { m := -151, e := 0 } then 0
  else let r := exp2core z; toFP32 (Dy.val { m := r.2, e := r.1 - 62 })

/-- The function words of 09 in the order of their function codes. -/
inductive Fn where
  | exp | exp2 | log2 | rcp | rsqrt | sqrt | tanh | sigm | silu | gelu
deriving DecidableEq, Repr

/-- A function word on an FP32 value (Table 37). -/
def Fn.eval (f : Fn) (v : Val) : Nat :=
  match v with
  | .nan => 0x7FC00000
  | .inf s =>
    match f with
    | .exp | .exp2 => if s then 0 else 0x7F800000
    | .log2 | .sqrt => if s then 0x7FC00000 else 0x7F800000
    | .rcp => if s then 0x80000000 else 0
    | .rsqrt => if s then 0x7FC00000 else 0
    | .tanh => if s then 0xBF800000 else 0x3F800000
    | .sigm => if s then 0 else 0x3F800000
    | .silu | .gelu => if s then 0x80000000 else 0x7F800000
  | .fin s m e =>
    let x := (Val.fin s m e).dy
    match f with
    | .exp => exp2Of (x.mul log2eDy)
    | .exp2 => exp2Of x
    | .log2 => if m = 0 then 0xFF800000 else if s then 0x7FC00000 else toFP32 ((Dy.ofFix (log2core m e)).val)
    | .rcp => if m = 0 then (if s then 0xFF800000 else 0x7F800000) else ratFP32 s dyOne { m := m, e := e }
    | .sqrt => if m = 0 then (if s then 0x80000000 else 0) else if s then 0x7FC00000 else rootFP32 m 1 e
    | .rsqrt => if m = 0 then (if s then 0xFF800000 else 0x7F800000) else if s then 0x7FC00000 else rootFP32 1 m (-e)
    | .tanh =>
      if x.lt { m := 1, e := -12 } && Dy.lt { m := -1, e := -12 } x then toFP32 (.fin s m e)
      else
        let V := sg ((Dy.mul { m := m, e := e + 1 } log2eDy))
        ratFP32 s (V.sub dyOne) (V.add dyOne)
    | .sigm => ratFP32 false dyOne (dyOne.add (sg (x.neg.mul log2eDy)))
    | .silu => ratFP32 s x (dyOne.add (sg (x.neg.mul log2eDy)))
    | .gelu =>
      if Dy.le { m := 16, e := 0 } x then toFP32 (.fin s m e)
      else if x.le { m := -16, e := 0 } then 0x80000000
      else
        let c := ((x.mul x).mul x).mul (Dy.ofFix Fix.k2)
        let u := ((Dy.ofFix Fix.k1).mul (x.add (Dy.ofFix c.floor62))).floor62
        ratFP32 s x (dyOne.add (sg ((Dy.ofFix (-2 * u)).mul log2eDy)))

/-- rot_cs (R129) for a position in range: cosine and sine as FP32. -/
def rotCs (pos f : Nat) : Nat × Nat :=
  let ph := pos * f % 2 ^ 32
  let q := ph / 2 ^ 30
  let k := ph / 2 ^ 22 % 256
  let d : Int := (ph % 2 ^ 22 : Nat) * Fix.w
  let d2 := mulF d d
  let d4 := mulF d2 d2
  let cd := Fix.one - d2 / 2 + mulF d4 Fix.h24
  let sd := d - mulF (mulF d d2) Fix.h6 + mulF (mulF d4 d) Fix.h120
  let C := Fix.entry Fix.tCS k
  let S := Fix.entry Fix.tSN k
  let c0 := (C * cd - S * sd) / (2 ^ 62 : Nat)
  let s0 := (S * cd + C * sd) / (2 ^ 62 : Nat)
  let p := match q with
    | 0 => (c0, s0)
    | 1 => (-s0, c0)
    | 2 => (-c0, -s0)
    | _ => (s0, -c0)
  (toFP32 ((Dy.ofFix p.1).val), toFP32 ((Dy.ofFix p.2).val))

/-- rng32 (09 R186). -/
def rng32 (key ctr : Word) : Nat :=
  let z0 := ctr * 0x9E3779B97F4A7C15#64 + key
  let z1 := (z0 ^^^ (z0 >>> 30)) * 0xBF58476D1CE4E5B9#64
  let z2 := (z1 ^^^ (z1 >>> 27)) * 0x94D049BB133111EB#64
  let z3 := z2 ^^^ (z2 >>> 31)
  z3.toNat / 2 ^ 32

/-- unif (R186), exact. -/
def unif (key ctr : Word) : Dy := { m := (rng32 key ctr / 256 : Nat), e := -24 }

end Sys2Proof.Machine
end

