-- ==== Sys2Proof/Machine/Compute.lean ====
section
/-!
DEFINITION. What matrix and vector commands write: tiles as rows of codes (06 R115), the compute words (08 R159–R163), and
every vector word (09 R175–R188).
-/
namespace Sys2Proof.Machine

abbrev Cells := List Host.Cell

/-! ## Tiles in a memory -/

/-- Codes in a row: one per element, for VQ2 one per eight. -/
def Tile.codes (t : Tile) : Nat := if t.fmt = 9 then t.cols / 8 else t.cols

/-- n codes of w bits from a byte string (R115). -/
def unpack (w n : Nat) (bs : List Byte) : List Nat := let v := natOf bs; (List.range n).map fun i => bitsAt v (w * i) w

/-- Codes of w bits packed into one number. -/
def packNat (w : Nat) : List Nat → Nat
  | [] => 0
  | c :: r => c % 2 ^ w + 2 ^ w * packNat w r

def pack (w : Nat) (l : List Nat) : List Byte := bytesOf ((l.length * w + 7) / 8) (packNat w l)

/-- Row r of a tile at a base key, as codes. -/
def Tile.row (t : Tile) (m : Cells) (base r : Nat) : List Nat :=
  unpack (fmtBits t.fmt) t.codes (Memory.readZero m (base + t.off + r * t.stride) t.rb)

/-- Scales of row r. -/
def Tile.scales (t : Tile) (m : Cells) (base r : Nat) : List Nat :=
  (Memory.readZero m (base + t.sco + r * t.ns) t.ns).map (·.toNat)

/-- Byte position p of a tile's image (07 R132) as an offset of its memory. -/
def Tile.imgOff (t : Tile) (p : Nat) : Nat :=
  if p < t.rows * t.rb then t.off + p / t.rb * t.stride + p % t.rb else t.sco + (p - t.rows * t.rb)

/-- n bytes of a tile's image from position p. -/
def Tile.imgGet (t : Tile) (m : Cells) (base p n : Nat) : List Byte :=
  (List.range n).map fun i => (Memory.read m (base + t.imgOff (p + i))).getD 0#8

/-- Place bytes of a tile's image from position p. -/
def Tile.imgPut (t : Tile) (m : Cells) (base p : Nat) : List Byte → Cells
  | [] => m
  | b :: r => Tile.imgPut t (Memory.write m (base + t.imgOff p) b) base (p + 1) r

/-! ## Results -/

/-- Codes a command writes: the key of the first, the bits of each. -/
structure RowWrite where
  key : Nat
  bits : Nat
  codes : List Nat
deriving DecidableEq, Repr, Inhabited

/-- Apply writes; `keep k` keeps the old value of the k-th code of all (08 R167, 09 R173). -/
def applyRows (keep : Nat → Bool) : Nat → List RowWrite → Cells → Cells
  | _, [], m => m
  | k, w :: r, m =>
    let n := w.codes.length
    let old := unpack w.bits n (Memory.readZero m w.key ((n * w.bits + 7) / 8))
    let new := w.codes.mapIdx fun i c => if keep (k + i) then old.getD i c else c
    applyRows keep (k + n) r (Memory.writeBytes m w.key (pack w.bits new))

/-- A row of a tile's elements to write. -/
def Tile.put (t : Tile) (base r : Nat) (codes : List Nat) : RowWrite :=
  { key := base + t.off + r * t.stride, bits := fmtBits t.fmt, codes := codes }

def Tile.putScales (t : Tile) (base r : Nat) (codes : List Nat) : RowWrite :=
  { key := base + t.sco + r * t.ns, bits := 8, codes := codes }

/-! ## Matrix words -/

/-- Element values of the first n columns of row r, scales applied (R118–R121, R124). -/
def Tile.vals (t : Tile) (m : Cells) (base : Nat) (cb : Vector W32 256) (r n : Nat) : List Val :=
  let cs := t.row m base r
  let ss := t.scales m base r
  (List.range n).map fun k =>
    let v := if t.fmt = 9 then
        let code := cs.getD (k / 8) 0
        vq2Weight (cb.toList.getD (code / 256) 0#32).toNat code (k % 8)
      else decodeElem t.fmt (cs.getD k 0)
    if t.sc then v.mul (ofScale (ss.getD (k / 32) 0)) else v

/-- The shape register (Table 44). -/
structure Shape where
  bt : Bool
  m : Nat
  n : Nat
  k : Nat
deriving DecidableEq, Repr, Inhabited

def shapeOf (v : Word) : Shape := { bt := bitAt v.toNat 48, m := bitsAt v.toNat 32 16, n := bitsAt v.toNat 16 16, k := bitsAt v.toNat 0 16 }

/-- The columns of B as lists over k (R154). -/
def bColumns (m : Cells) (base : Nat) (cb : Vector W32 256) (b : Tile) (sh : Shape) : List (List Val) :=
  if sh.bt then (List.range sh.n).map fun j => b.vals m base cb j sh.k
  else
    let rows := (List.range sh.k).map fun k => b.vals m base cb k sh.n
    (List.range sh.n).map fun j => rows.map fun r => r.getD j .nan

/-- MMA and MVM (R159): the A tile may be another core's (MMAP.fol takes the lead's, R164). -/
def mmaRows (m : Cells) (cb : Vector W32 256) (aBase dBase bBase : Nat) (a b d : Tile) (sh : Shape) : List RowWrite :=
  let cols := bColumns m bBase cb b sh
  (List.range sh.m).map fun i =>
    let av := a.vals m aBase cb i sh.k
    let dv := d.row m dBase i
    d.put dBase i (cols.mapIdx fun j bv => chunkSum ((sh.k + 31) / 32) (dv.getD j 0) (List.zipWith Val.mul av bv))

/-- MZERO (R163). -/
def mzeroRows (base : Nat) (d : Tile) : List RowWrite := (List.range d.rows).map fun r => d.put base r (List.replicate d.cols 0)

/-! ## Vector words -/

/-- Rows of B as a vector word with modes sees them (09 Table 50): the codes of row i, and their format. -/
def bRow (m : Cells) (base : Nat) (mode : Nat) (tb : Tile) (scalar : Nat) (cols i : Nat) : List Nat :=
  match mode with
  | 0 => tb.row m base i
  | 1 => tb.row m base 0
  | 2 => List.replicate cols ((tb.row m base i).getD 0 0)
  | _ => List.replicate cols scalar

def isFloat (f : Nat) : Bool := f == 0 || f == 1
def isInt (f : Nat) : Bool := f == 6 || f == 7 || f == 11 || f == 12
def fltOf (f v : Nat) : Val := if f = 1 then ofBF16 v else ofFP32 v
def fltTo (f : Nat) (v : Val) : Nat := if f = 1 then toBF16 v else toFP32 v
def intOf (f v : Nat) : Int := if f = 6 then ofSigned 8 v else if f = 11 then ofSigned 32 v else (v : Int)

/-- An element-wise word: float and integer results from a, b and the old element of D. -/
structure EwOp where
  flt : Val → Val → Val → Val
  int : Nat → Int → Int → Int

/-- Apply an element-wise word to every element (09 R175). -/
def ewRows (m : Cells) (base : Nat) (op : EwOp) (mode : Nat) (ta tb td : Tile) (scalar : Nat) : List RowWrite :=
  (List.range td.rows).map fun i =>
    let ca := ta.row m base i
    let cd := td.row m base i
    let fb := if mode = 3 then (if isFloat ta.fmt then 0 else ta.fmt) else tb.fmt
    let sc := if isFloat ta.fmt then scalar % 2 ^ 32 else scalar % 2 ^ fmtBits ta.fmt
    let cb := bRow m base mode tb sc td.cols i
    td.put base i (ca.mapIdx fun j a =>
      let b := cb.getD j 0
      if isFloat td.fmt then fltTo td.fmt (op.flt (fltOf ta.fmt a) (fltOf fb b) (fltOf td.fmt (cd.getD j 0)))
      else intCode td.fmt (op.int td.fmt (intOf ta.fmt a) (intOf fb b)))

/-- A bitwise word (VAND, VOR, VXOR). -/
def bitRows (m : Cells) (base : Nat) (f : Nat → Nat → Nat) (mode : Nat) (ta tb td : Tile) (scalar : Nat) : List RowWrite :=
  (List.range td.rows).map fun i =>
    let cb := bRow m base mode tb (scalar % 2 ^ fmtBits td.fmt) td.cols i
    td.put base i ((ta.row m base i).mapIdx fun j a => f a (cb.getD j 0))

/-- A comparison word (R176). -/
def cmpRows (m : Cells) (base : Nat) (f : Val → Val → Bool) (mode : Nat) (ta tb td : Tile) (scalar : Nat) : List RowWrite :=
  (List.range td.rows).map fun i =>
    let fb := if mode = 3 then (if isFloat ta.fmt then 0 else ta.fmt) else tb.fmt
    let sc := if isFloat ta.fmt then scalar % 2 ^ 32 else scalar % 2 ^ fmtBits ta.fmt
    let cb := bRow m base mode tb sc td.cols i
    let val := fun (fm v : Nat) => if isFloat fm then fltOf fm v else (Dy.ofInt (intOf fm v)).val
    td.put base i ((ta.row m base i).mapIdx fun j a => if f (val ta.fmt a) (val fb (cb.getD j 0)) then 1 else 0)

/-- VSEL (R176). -/
def selRows (m : Cells) (base mode : Nat) (ta tb td : Tile) (scalar : Nat) : List RowWrite :=
  (List.range td.rows).map fun i =>
    let cb := bRow m base mode tb (scalar % 2 ^ fmtBits td.fmt) td.cols i
    let ca := ta.row m base i
    td.put base i ((td.row m base i).mapIdx fun j d => if ca.getD j 0 = 0 then d else cb.getD j 0)

/-- VBCAST (R177): k = 3 takes the scalar. Of a VQ2 tile, k = 1 and 2 replicate the first 16-bit code, eight elements at a
time (DESIGN CHOICE, log 119: R177 speaks of single elements). -/
def bcastRows (m : Cells) (base k : Nat) (ta td : Tile) (scalar : Nat) : List RowWrite :=
  (List.range td.rows).map fun i =>
    td.put base i (match k with
      | 0 => ta.row m base 0
      | 1 => List.replicate td.codes ((ta.row m base i).getD 0 0)
      | 2 => List.replicate td.codes ((ta.row m base 0).getD 0 0)
      | _ => List.replicate td.codes (scalar % 2 ^ fmtBits td.fmt))

/-- VTRANS (R177). -/
def transRows (m : Cells) (base : Nat) (ta td : Tile) : List RowWrite :=
  let rows := (List.range ta.rows).map fun i => ta.row m base i
  (List.range td.rows).map fun j => td.put base j (rows.map fun r => r.getD j 0)

/-- VMOV (R177): raw rows and scales. -/
def movRows (m : Cells) (base : Nat) (ta td : Tile) : List RowWrite :=
  (List.range td.rows).map (fun i => td.put base i (ta.row m base i))
    ++ (if td.sc then (List.range td.rows).map fun i => td.putScales base i (ta.scales m base i) else [])

/-- A function word (R178). -/
def fnRows (m : Cells) (base : Nat) (f : Fn) (ta td : Tile) : List RowWrite :=
  (List.range td.rows).map fun i => td.put base i ((ta.row m base i).map fun a => roundTo td.fmt (f.eval (fltOf ta.fmt a)))

/-- VCVT (R179). -/
def cvtRows (m : Cells) (base : Nat) (ovn : Bool) (ta td : Tile) : List RowWrite :=
  (List.range td.rows).map fun i => td.put base i ((ta.row m base i).map fun a => encodeElem td.fmt ovn (decodeElem ta.fmt a))

/-- Blocks of up to 32 elements; the fuel is the number of blocks. -/
def blocks {α : Type} : Nat → List α → List (List α)
  | 0, _ => []
  | n + 1, l => if l.isEmpty then [] else l.take 32 :: blocks n (l.drop 32)

/-- VQUANT (R180). -/
def quantRows (m : Cells) (base : Nat) (ta td : Tile) : List RowWrite :=
  ((List.range td.rows).map fun i =>
    let bs := blocks td.ns ((ta.row m base i).map fun a => fltOf ta.fmt a)
    let ss := bs.map (qscale td.fmt)
    [td.put base i ((List.zipWith (fun b s => b.map fun v => qelem td.fmt s v) bs ss).flatten), td.putScales base i ss]).flatten

/-- VDQUANT (R180). -/
def dquantRows (m : Cells) (base : Nat) (ta td : Tile) : List RowWrite :=
  (List.range td.rows).map fun i =>
    let ss := ta.scales m base i
    td.put base i ((ta.row m base i).mapIdx fun j a => fltTo td.fmt ((decodeElem ta.fmt a).mul (ofScale (ss.getD (j / 32) 0))).plusZero)

/-- Column 0 of each row (R181). -/
def col0 (base : Nat) (td : Tile) (f : Nat → Nat) : List RowWrite := (List.range td.rows).map fun i => td.put base i [f i]

def maxVals : List Val → Val
  | [] => .inf true
  | v :: r => r.foldl Val.max v
def minVals : List Val → Val
  | [] => .inf false
  | v :: r => r.foldl Val.min v

/-- VRSUM of a row of values from an FP32 start. -/
def rsum (acc : Nat) (l : List Val) : Nat := chunkSum ((l.length + 31) / 32) acc l

def rsumRows (m : Cells) (base : Nat) (acc : Bool) (ta td : Tile) : List RowWrite :=
  col0 base td fun i =>
    let a0 := if acc then toFP32 (fltOf td.fmt ((td.row m base i).getD 0 0)) else 0
    roundTo td.fmt (rsum a0 ((ta.row m base i).map fun a => fltOf ta.fmt a))

def rmaxRows (m : Cells) (base : Nat) (f : List Val → Val) (ta td : Tile) : List RowWrite :=
  col0 base td fun i => fltTo td.fmt (f ((ta.row m base i).map fun a => fltOf ta.fmt a))

/-- Index of the first largest element, or of the first NaN (R182). -/
def argmaxGo : Nat → Option (Nat × Val) → List Val → Nat
  | _, b, [] => match b with
    | some x => x.1
    | none => 0
  | j, b, v :: r =>
    if v.isNan then j
    else match b with
      | none => argmaxGo (j + 1) (some (j, v)) r
      | some x => argmaxGo (j + 1) (some (if x.2.lt v then (j, v) else x)) r

def argmaxRows (m : Cells) (base : Nat) (ta td : Tile) : List RowWrite :=
  col0 base td fun i => argmaxGo 0 none ((ta.row m base i).map fun a => fltOf ta.fmt a)

/-- VSMAXO (R183). Where D and the state overlap, row by row the state is written before D (DESIGN CHOICE, log 120: R183
does not say which write remains). -/
def smaxoRows (m : Cells) (base : Nat) (ta ts td : Tile) : List RowWrite :=
  ((List.range td.rows).map fun i =>
    let st := ts.row m base i
    let mo := ofFP32 (st.getD 0 0)
    let lo := ofFP32 (st.getD 1 0)
    let av := (ta.row m base i).map fun a => fltOf ta.fmt a
    let mn := maxVals (mo :: av)
    let ex := fun (x : Val) => Fn.eval .exp (ofFP32 (toFP32 (x.add mn.neg)))
    let c := if mo.eq mn then 0x3F800000 else ex mo
    let p := av.map fun a => if a = .inf true then 0 else ex a
    let s := rsum 0 (p.map ofFP32)
    [ts.put base i [toFP32 mn, toFP32 ((lo.mul (ofFP32 c)).add (ofFP32 s)).plusZero, c], td.put base i (p.map (roundTo td.fmt))]).flatten

/-- VSMAXF (R184). -/
def smaxfRows (m : Cells) (base : Nat) (ta ts td : Tile) : List RowWrite :=
  (List.range td.rows).map fun i =>
    let q := ofFP32 (Fn.eval .rcp (ofFP32 ((ts.row m base i).getD 1 0)))
    td.put base i ((ta.row m base i).map fun a => fltTo td.fmt ((fltOf ta.fmt a).mul q).plusZero)

/-- VROT (R185): tab is the LOCAL offset of the frequency table. -/
def rotRows (m : Cells) (base : Nat) (half : Bool) (ta td : Tile) (tab pos0 dpos : Nat) : List RowWrite :=
  let n := td.cols / 2
  let fs := unpack 32 n (Memory.readZero m (base + tab) (4 * n))
  (List.range td.rows).map fun i =>
    let ca := (ta.row m base i).map fun a => fltOf ta.fmt a
    td.put base i ((List.range td.cols).map fun j =>
      let p := if half then j % n else j / 2
      let x := ca.getD (if half then p else 2 * p) .nan
      let y := ca.getD (if half then p + n else 2 * p + 1) .nan
      let cs := rotCs (pos0 + i * dpos) (fs.getD p 0)
      let c := ofFP32 cs.1
      let s := ofFP32 cs.2
      let first := if half then decide (j < n) else j % 2 == 0
      fltTo td.fmt (if first then (x.mul c).add (y.mul s).neg else (x.mul s).add (y.mul c)).plusZero)

/-- VRNG (R187). -/
def rngRows (base : Nat) (td : Tile) (key ctr : Word) : List RowWrite :=
  (List.range td.rows).map fun i =>
    td.put base i ((List.range td.cols).map fun j =>
      let c := ctr + BitVec.ofNat 64 (i * td.cols + j)
      if td.fmt = 12 then rng32 key c
      else if td.fmt = 0 then toFP32 (unif key c).val
      else toBF16 (Dy.val { m := (rng32 key c / 2 ^ 24 : Nat), e := -8 }))

/-- The smallest index whose prefix sum exceeds a threshold (R188). -/
def sampleGo : Nat → Dy → Dy → List Dy → Nat
  | j, _, _, [] => j
  | j, acc, th, w :: r => let a := acc.add w; if th.lt a then j else sampleGo (j + 1) a th r

def sampleRow (l : List Val) (u : Dy) : Nat :=
  match l.findIdx? fun v => v == Val.inf false with
  | some j => j
  | none =>
    let ws := l.map fun v => if v.isNan || v.sign then ({ m := 0, e := 0 } : Dy) else v.dy
    let T := Dy.sum ws
    if T.m = 0 then 0xFFFFFFFF else sampleGo 0 { m := 0, e := 0 } (u.mul T) ws

def sampleRows (m : Cells) (base : Nat) (ta td : Tile) (key ctr : Word) : List RowWrite :=
  col0 base td fun i => sampleRow ((ta.row m base i).map fun a => fltOf ta.fmt a) (unif key (ctr + BitVec.ofNat 64 i))

/-! The element-wise words of Table 52. -/

def opAdd : EwOp := { flt := fun a b _ => a.add b, int := fun _ a b => a + b }
def opSub : EwOp := { flt := fun a b _ => a.add b.neg, int := fun _ a b => a - b }
def opMul : EwOp := { flt := fun a b _ => a.mul b, int := fun _ a b => a * b }
def opFma : EwOp := { flt := fun a b d => (a.mul b).add d, int := fun _ a _ => a }
def opMin : EwOp := { flt := fun a b _ => a.min b, int := fun _ a b => if b < a then b else a }
def opMax : EwOp := { flt := fun a b _ => a.max b, int := fun _ a b => if a < b then b else a }
def opAbs : EwOp := { flt := fun a _ _ => a.abs, int := fun _ a _ => a.natAbs }
def opNeg : EwOp := { flt := fun a _ _ => a.neg, int := fun _ a _ => -a }
def opAdds : EwOp := { flt := fun a _ _ => a, int := fun f a b => clampInt (intRange f).1 (intRange f).2 (a + b) }
def opShl : EwOp := { flt := fun a _ _ => a, int := fun f a b => a * 2 ^ ((b % (fmtBits f : Int)).toNat) }
def opShr : EwOp := { flt := fun a _ _ => a, int := fun f a b => a / (2 ^ ((b % (fmtBits f : Int)).toNat) : Nat) }
/-- VSCL: s in the low half of gB, t in the high half. -/
def opScl (g : Nat) : EwOp :=
  { flt := fun a _ _ => (a.mul (ofFP32 (g % 2 ^ 32))).add (ofFP32 (g / 2 ^ 32)), int := fun _ a _ => a }

/-- The opB of a word with modes: the mode, and the tile or register of the command. -/
def modeNat (m : BitVec 2) : Nat := m.toNat

/-- What a vector command of a core writes (09). -/
def vecRows (m : Cells) (rank : Nat) (c : Cmd) : List RowWrite :=
  let base := localKey rank 0
  let d := tileOf c.d0
  let a := tileOf c.d1
  let b := tileOf c.d2
  let g := c.r0.toNat
  match decode c.word with
  | .error _ => []
  | .ok i =>
    match i with
    | .vadd _ _ _ k => ewRows m base opAdd k.toNat a b d g
    | .vsub _ _ _ k => ewRows m base opSub k.toNat a b d g
    | .vmul _ _ _ k => ewRows m base opMul k.toNat a b d g
    | .vfma _ _ _ k => ewRows m base opFma k.toNat a b d g
    | .vmin _ _ _ k => ewRows m base opMin k.toNat a b d g
    | .vmax _ _ _ k => ewRows m base opMax k.toNat a b d g
    | .vabs _ _ => ewRows m base opAbs 3 a b d 0
    | .vneg _ _ => ewRows m base opNeg 3 a b d 0
    | .vscl _ _ _ => ewRows m base (opScl g) 3 a b d 0
    | .vadds _ _ _ k => ewRows m base opAdds k.toNat a b d g
    | .vand _ _ _ k => bitRows m base (· &&& ·) k.toNat a b d g
    | .vor _ _ _ k => bitRows m base (· ||| ·) k.toNat a b d g
    | .vxor _ _ _ k => bitRows m base (· ^^^ ·) k.toNat a b d g
    | .vshl _ _ _ k => ewRows m base opShl k.toNat a b d g
    | .vshr _ _ _ k => ewRows m base opShr k.toNat a b d g
    | .vcmpeq _ _ _ k => cmpRows m base Val.eq k.toNat a b d g
    | .vcmplt _ _ _ k => cmpRows m base Val.lt k.toNat a b d g
    | .vcmple _ _ _ k => cmpRows m base (fun x y => x.lt y || x.eq y) k.toNat a b d g
    | .vsel _ _ _ k => selRows m base k.toNat a b d g
    | .vmov _ _ => movRows m base a d
    | .vbcast _ _ k => bcastRows m base k.toNat a d 0
    | .vbcastScalar _ _ => bcastRows m base 3 a d g
    | .vtrans _ _ => transRows m base a d
    | .vexp _ _ => fnRows m base .exp a d
    | .vexp2 _ _ => fnRows m base .exp2 a d
    | .vlog2 _ _ => fnRows m base .log2 a d
    | .vrcp _ _ => fnRows m base .rcp a d
    | .vrsqrt _ _ => fnRows m base .rsqrt a d
    | .vsqrt _ _ => fnRows m base .sqrt a d
    | .vtanh _ _ => fnRows m base .tanh a d
    | .vsigm _ _ => fnRows m base .sigm a d
    | .vsilu _ _ => fnRows m base .silu a d
    | .vgelu _ _ => fnRows m base .gelu a d
    | .vcvt _ _ o => cvtRows m base (o == 1#1) a d
    | .vquant _ _ => quantRows m base a d
    | .vdquant _ _ => dquantRows m base a d
    | .vrsum _ _ k => rsumRows m base (k == 1#1) a d
    | .vrmax _ _ => rmaxRows m base maxVals a d
    | .vrmin _ _ => rmaxRows m base minVals a d
    | .vsmaxo _ _ _ => smaxoRows m base a b d
    | .vsmaxf _ _ _ => smaxfRows m base a b d
    | .vrot _ _ _ h => rotRows m base (h == 1#1) a d g (c.r1.toNat % 2 ^ 32) (c.r1.toNat / 2 ^ 32)
    | .vrng _ _ => rngRows base d c.r0 c.r1
    | .vsample _ _ _ => sampleRows m base a d c.r0 c.r1
    | .vargmax _ _ => argmaxRows m base a d
    | _ => []

end Sys2Proof.Machine
end

