-- ==== Sys2Proof/Machine/Engines.lean ====
section
/-!
DEFINITION. Engine queues and timelines (05 R106), starting and completing commands (07 R149–R152, 08 R165–R167, 09 R170,
15 R270, R271), engine faults (24 R376–R378), copy beats (07 R137–R143, R410) and arrivals (05 R109).
-/
namespace Sys2Proof.Machine

/-! ## Queues and timelines -/

def Core.engine (u : Core) : EngId → Engine
  | .cpe => u.cpe
  | .mat => u.mat
  | .vec => u.vec

def Core.setEngine (u : Core) (e : EngId) (x : Engine) : Core :=
  match e with
  | .cpe => { u with cpe := x }
  | .mat => { u with mat := x }
  | .vec => { u with vec := x }

def Core.modEngine (u : Core) (e : EngId) (f : Engine → Engine) : Core := u.setEngine e (f (u.engine e))

/-- ENG of TCAUSE (22 Table 115). -/
def engNo : EngId → Nat
  | .cpe => 1
  | .mat => 2
  | .vec => 3

/-- The completed value of a timeline counter: every command below the lowest outstanding number (05 R106). -/
def Engine.completed (e : Engine) : Nat :=
  match e.queue.foldl (fun (a : Option Nat) c => match a with
    | none => some c.num
    | some n => some (min n c.num)) none with
  | some n => n - 1
  | none => e.issued

/-- A queue holds 16 commands (02 R34). -/
def Engine.full (e : Engine) : Bool := decide (16 ≤ e.queue.length)

/-- Place a command; it takes the next number of its counter. -/
def Engine.push (e : Engine) (c : Cmd) : Engine :=
  { e with queue := e.queue ++ [{ c with num := e.issued + 1 }], issued := e.issued + 1 }

def Engine.find (e : Engine) (num : Nat) : Option Cmd := e.queue.find? fun c => c.num = num
def Engine.drop (e : Engine) (num : Nat) : Engine := { e with queue := e.queue.filter fun c => c.num ≠ num }
def Engine.set (e : Engine) (c : Cmd) : Engine := { e with queue := e.queue.map fun x => if x.num = c.num then c else x }

def State.cmd? (s : State) (rank : Nat) (e : EngId) (num : Nat) : Option Cmd := ((s.unitAt rank).engine e).find num
def State.setCmd (s : State) (rank : Nat) (e : EngId) (c : Cmd) : State := s.modUnit rank fun u => u.modEngine e fun x => x.set c
def State.dropCmd (s : State) (rank : Nat) (e : EngId) (num : Nat) : State := s.modUnit rank fun u => u.modEngine e fun x => x.drop num

/-- A waiting copy has landed: its attached matrix command may start (07 R143). -/
def State.landAttached (s : State) (rank copyNum : Nat) : State :=
  s.modUnit rank fun u => u.modEngine .mat fun e =>
    { e with queue := e.queue.map fun c => if c.attachedTo = some copyNum then { c with landed := true } else c }

/-! ## Faults -/

/-- Mark a faulted replayable command and the commands queued behind it as held (04 R89, 24 R376). A promotion keeps the
page it has withdrawn. -/
def Engine.hold (e : Engine) (num : Nat) : Engine :=
  { e with queue := e.queue.map fun c =>
      if c.num = num ∨ (num < c.num ∧ c.st = .queued)
      then { c with st := .held, beat := 0, early := [], stage := [], aux := [], epoch := none, met := false, granted := none, eligible := none }
      else c }

/-- Core event of a completion of an engine (22 Table 116). -/
def doneEvent : EngId → Nat
  | .cpe => 6
  | .mat => 7
  | .vec => 8

/-- A command completes and leaves its queue. -/
def State.doneCmd (s : State) (rank : Nat) (e : EngId) (num : Nat) : State :=
  (s.dropCmd rank e num).modUnit rank fun u => u.countEvent (doneEvent e) 1

/-- An engine command faults. A fault that is not replayable leaves the command complete and holds nothing (24 R378): its
attached matrix command may start (DESIGN CHOICE, log 114: 07 R143 speaks of a copy whose last byte lands), and the page a
promotion has withdrawn goes back to its pool (DEDUCED, log 115). An uncorrectable fault while the context's interval is open
makes the context due to be rolled back (24 R393). -/
def State.engFault (s : State) (rank : Nat) (e : EngId) (c : Cmd) (cause : Nat) (replayable : Bool) (status : Nat) (addr : Word) : State :=
  let s := s.gateDone rank (.copy c.num)
  let ctx := (s.unitAt rank).unit.ctx
  let f : EngFault := { eng := engNo e, cause := cause, replayable := replayable, status := BitVec.ofNat 32 status, addr := addr, cmd := c }
  let s2 := if replayable then s.modUnit rank fun u => u.modEngine e fun q => q.hold c.num
    else match c.owns with
      | some p => ((s.doneCmd rank e c.num).landAttached rank c.num).pageBack ctx p
      | none => (s.doneCmd rank e c.num).landAttached rank c.num
  if cause == cUNCORR_READ && (match s.ctx? ctx with
      | some k => k.ckptOpen && !k.killed
      | none => false)
  then s2.modCtx ctx fun k => { k with dataFault := some (k.dataFault.getD { cause := cause, addr := addr.toNat, rank := some rank, pos := c.pos }) }
  else s2.modUnit rank fun u => { u with faults := u.faults ++ [f] }

/-- Faults in the order of R376: CPE, matrix, vector; within one engine by timeline number. -/
def insertFault (f : EngFault) : List EngFault → List EngFault
  | [] => [f]
  | g :: r => if f.eng < g.eng ∨ (f.eng = g.eng ∧ f.cmd.num < g.cmd.num) then f :: g :: r else g :: insertFault f r

def sortFaults (l : List EngFault) : List EngFault := l.foldl (fun a f => insertFault f a) []

/-- Release every held command (24 R377). -/
def Engine.release (e : Engine) : Engine :=
  { e with queue := e.queue.map fun c => if c.st = .held then { c with st := .queued } else c }

/-- Drop every held command; it counts as complete. The attached command of a dropped copy goes with it. -/
def Core.dropHeld (u : Core) : Core :=
  let gone := (u.cpe.queue.filter fun c => c.st = .held).map (·.num)
  let keep (c : Cmd) : Bool := c.st != .held && !(match c.attachedTo with
    | some n => decide (n ∈ gone) && !c.landed
    | none => false)
  { u with cpe := { u.cpe with queue := u.cpe.queue.filter keep }, mat := { u.mat with queue := u.mat.queue.filter keep },
           vec := { u.vec with queue := u.vec.queue.filter keep } }

/-- Pages that promotions of a list of commands have withdrawn go back to their pools (19 R318). -/
def State.giveBack (s : State) (ctx : Nat) (l : List Cmd) : State :=
  l.foldl (fun s c => match c.owns with
    | some p => s.pageBack ctx p
    | none => s) s

/-- Drop a unit's held commands (24 R377), with the pages that held promotions own. -/
def State.dropHeld (s : State) (rank : Nat) : State :=
  let u := s.unitAt rank
  (s.modUnit rank Core.dropHeld).giveBack u.unit.ctx (u.cpe.queue.filter fun c => c.st = .held)

/-! ## Pair sites (08 R164–R166) -/

def isMmap (w : W32) : Bool := match decode w with
  | .ok (.mmapLead _ _ _ _) => true
  | .ok (.mmapFol _ _ _) => true
  | _ => false

def isLead (w : W32) : Bool := match decode w with
  | .ok (.mmapLead _ _ _ _) => true
  | _ => false

/-- MMA, MMAP and MVM compute; they need a grant of the ramp limiter (15 R270). -/
def isCompute (w : W32) : Bool := match decode w with
  | .ok (.mma _ _ _ _ _) => true
  | .ok (.mvm _ _ _ _ _) => true
  | .ok (.mmapLead _ _ _ _) => true
  | .ok (.mmapFol _ _ _) => true
  | _ => false

/-- The core a core pairs with: the same core number in the cluster c xor 1. -/
def partner (rank : Nat) : Nat := rankOf (dieOf rank) (clusterOf rank ^^^ 1) (coreOf rank)
/-- The pair site of a core. -/
def pairSite (rank : Nat) : Nat := clusterOf rank / 2 * 8 + coreOf rank
def State.epoch (s : State) (rank : Nat) : Nat := (alGet (pairSite rank) (s.die (dieOf rank)).pairs).getD 0
def State.bumpEpoch (s : State) (rank : Nat) : State :=
  let e := s.epoch rank
  s.modDie (dieOf rank) fun d => { d with pairs := alSet (pairSite rank) ((e + 1) % 2 ^ 32) d.pairs }

/-- The half of a core that is at the rendezvous or computing. -/
def Core.half (u : Core) : Option Cmd := u.mat.queue.find? fun c => isMmap c.word && c.epoch.isSome

/-- The rail of a unit (16 R274): a core's is its cluster's; what is not a core of a D-die follows its cluster 0, of a P-die
stays on the high rail. -/
def State.railHigh (s : State) (rank : Nat) : Bool :=
  let die := dieOf rank
  if !isCoreRank rank && isPDie die then true
  else match alGet (if isCoreRank rank then clusterOf rank else 0) (s.die die).clusters with
    | some k => k.railHigh
    | none => true

def State.cluster (s : State) (die c : Nat) : Cluster := (alGet c (s.die die).clusters).getD {}
def State.modCluster (s : State) (die c : Nat) (f : Cluster → Cluster) : State :=
  s.modDie die fun d => { d with clusters := alSet c (f ((alGet c d.clusters).getD {})) d.clusters }

/-- Ranks of a cluster's cores. -/
def coresOf (die c : Nat) : List Nat := (List.range 4).map fun k => rankOf die c k

/-- An MMAP half is at the rendezvous of a site of a cluster (16 R280). -/
def State.pairBusy (s : State) (die c : Nat) : Bool :=
  (coresOf die c ++ coresOf die (c ^^^ 1)).any fun r => (s.unitAt r).half.isSome

/-- The clk from which a compute command has occupied a core's array: its start, or a waiting half's grant (15 R271, 16
R280). -/
def Core.activeFrom (u : Core) : Option Nat := u.mat.queue.findSome? fun c => if isCompute c.word then c.granted else none

/-- Insert a completion: the latest first, ties by lowest rank (15 R271). -/
def noteRecent (k : Nat × Nat × Nat) : List (Nat × Nat × Nat) → List (Nat × Nat × Nat)
  | [] => [k]
  | x :: r => if x.2.2 < k.2.2 ∨ (x.2.2 = k.2.2 ∧ k.1 < x.1) then k :: x :: r else x :: noteRecent k r

/-- A core's array has been occupied from a clk and is free now: its limiter and its cluster's meter note it (15 R271, 16
R276). -/
def State.noteDone (s : State) (rank : Nat) (start : Option Nat) : State :=
  match start with
  | none => s
  | some g =>
    let ctx := (s.unitAt rank).unit.ctx
    let f := fun (l : Limiter) => { l with past := (rank, g, s.clk) :: l.past,
                                           recent := noteRecent (rank, ctx, s.clk) (l.recent.filter fun x => x.1 ≠ rank) }
    (s.modDie (dieOf rank) fun d => if s.railHigh rank then { d with limHigh := f d.limHigh } else { d with limLow := f d.limLow }).modCluster
      (dieOf rank) (clusterOf rank) fun k => { k with busyClk := k.busyClk + (s.clk - max g s.power.epochAt) }

/-- The rail that is ordered for a cluster, at a clk, when it is to stand on one. -/
def Cluster.order (k : Cluster) (high : Bool) (now : Nat) : Cluster :=
  { k with pendingRail := if high = k.railHigh then none else some high, ordered := now }

/-- The last half of a site has left: each cluster gets its own rail again (16 R280). -/
def State.pairLeft (s : State) (rank : Nat) : State :=
  let die := dieOf rank
  let c := clusterOf rank
  if s.pairBusy die c then s
  else [c, c ^^^ 1].foldl (fun s c => s.modCluster die c fun k => { k with joining := false }.order k.own s.clk) s

/-- A half abandons the pair (R166): EPOCH rises, its tdD stays, and it is held for replay. -/
def State.abandonHalf (s : State) (rank : Nat) : State :=
  match (s.unitAt rank).half with
  | none => s
  | some c => (((s.bumpEpoch rank).noteDone rank c.granted).engFault rank .mat c cPAIR_ABANDON true
      (1 * 2 ^ 28 + 2 * 2 ^ 24 + (c.epoch.getD 0) % 2 ^ 24) 0#64).pairLeft rank

/-- A core leaves its pair: its own half, if at the rendezvous or computing, counts as queued again, and the partner
that waits or computes with it abandons. -/
def State.leavePair (s : State) (rank : Nat) : State :=
  match (s.unitAt rank).half with
  | none => s
  | some c =>
    let s1 := (s.noteDone rank c.granted).setCmd rank .mat { c with epoch := none, met := false, granted := none, eligible := none, st := .queued }
    match (s1.unitAt (partner rank)).half with
    | some p => if p.epoch = c.epoch ∧ (s1.unitAt (partner rank)).unit.ctx = (s1.unitAt rank).unit.ctx then s1.abandonHalf (partner rank)
      else s1.pairLeft rank
    | none => s1.pairLeft rank

/-! ## Starting -/

/-- The scoreboard lets a command start: no earlier command of any engine conflicts (07 R149), every earlier load and atomic
has returned, so that the command is no longer tentative (02 R407, 07 R150), and every earlier own store to a granule of its
sets has performed (07 R150). A copy does not hold its attached command (07 R143). -/
def Core.clearFor (u : Core) (rank : Nat) (c : Cmd) : Bool :=
  let mine := c.sets rank
  !(u.cmdsAll.any fun x => decide (x.seq < c.seq) && !(decide (c.attachedTo = some x.num) && u.cpe.queue.any fun y => y.num = x.num && y.seq = x.seq)
      && setsConflict (x.sets rank) mine)
  && !(u.loads.any fun l => decide (l.seq < c.seq))
  && !(u.stores.any fun e => decide (e.seq < c.seq) && !e.performed && (match e.loc with
      | .lcl r off => decide (r = rank) && (anyMeet [.lcl off e.bytes.length] mine.1 || anyMeet [.lcl off e.bytes.length] mine.2)
      | _ => false))

/-- Commands of a queue ahead of one. -/
def Engine.ahead (e : Engine) (c : Cmd) : List Cmd := e.queue.filter fun x => x.num < c.num

/-- Engine rules of starting, apart from the scoreboard: queue order, and how many may be in progress (07 R151, 08 R167,
09 R170). -/
def Core.turnOf (u : Core) (e : EngId) (c : Cmd) : Bool :=
  let q := u.engine e
  let running := q.queue.filter fun x => x.st = .running
  c.st == .queued && (q.ahead c).all (fun x => x.st = .running) && (match e with
    | .cpe => decide (running.length < 4)
    | .vec => running.isEmpty
    | .mat => decide (running.length < 2) && !(isCompute c.word && running.any fun x => isCompute x.word)
        && (c.attachedTo.isNone || c.landed))

/-- A command could start now but for the ramp limiter. -/
def Core.ready (u : Core) (rank : Nat) (e : EngId) (c : Cmd) : Bool := u.turnOf e c && u.clearFor rank c

def causeStatusCpe (fn row : Nat) : Nat := fn * 2 ^ 26 + row

/-- The function code of a CPE word. -/
def cpeFn (w : W32) : Nat := (fld w 20 6).toNat

/-- Addresses of a GATHER or SCATTER (R139): the failing entry and its cause, or the block addresses. -/
def gatherAddrs (x : IdxReg) (mem : Word) (bs : Nat) : Nat → Nat → Except (Nat × Nat) (List Word)
  | 0, _ => .ok []
  | n + 1, j =>
    if x.cnt ≤ j ∨ x.bnd.toNat ≤ (x.ent.toList.getD j 0#32).toNat then .error (j, cBOUNDS)
    else match ptrAdd mem (Int.ofNat ((x.ent.toList.getD j 0#32).toNat * bs)) with
      | none => .error (j, cADDR_RANGE)
      | some a => match gatherAddrs x mem bs n (j + 1) with
        | .ok l => .ok (a :: l)
        | .error e => .error e

/-- Block of a GATHER or SCATTER: rows per block. -/
def Cmd.blockRows (c : Cmd) : Nat := match decode c.word with
  | .ok (.gather _ _ _ _ k) => 2 ^ k.toNat
  | .ok (.scatter _ _ _ k) => 2 ^ k.toNat
  | _ => 1

/-! ## Copy beats -/

/-- One unit of transfer: its memory pointer, image position, length, and the row or entry of the status. -/
structure Beat where
  ptr : Option Word
  pos : Nat
  n : Nat
  row : Nat
  from_ : Word                         -- start and length of the run of memory the unit is part of
  len : Nat
deriving DecidableEq, Repr, Inhabited

/-- Cut [0, n) into units of 128 bytes. -/
def units (n : Nat) : List (Nat × Nat) := (List.range ((n + 127) / 128)).map fun i => (128 * i, min 128 (n - 128 * i))

/-- Row of an image position; ROWS in the scale area (R136). -/
def Tile.statusRow (t : Tile) (p : Nat) : Nat := if p < t.rows * t.rb then p / t.rb else t.rows

/-- Image positions of block j of a GATHER or SCATTER: b rows, then their scales (R139), as runs. -/
def Tile.blockRuns (t : Tile) (b j : Nat) : List (Nat × Nat) :=
  (j * b * t.rb, b * t.rb) :: (if t.sc then [(t.rows * t.rb + j * b * t.ns, b * t.ns)] else [])

/-- Runs of an image cut into units; the pointer runs on from the block's address. -/
def cutRuns (ptr : Word) (row total : Nat) : Nat → List (Nat × Nat) → List Beat
  | _, [] => []
  | at_, (p, n) :: r =>
    (units n).map (fun u => { ptr := ptrAdd ptr (Int.ofNat (at_ + u.1)), pos := p + u.1, n := u.2, row := row, from_ := ptr, len := total })
      ++ cutRuns ptr row total (at_ + n) r

/-- The units of transfer of a copy command. -/
def Cmd.beats (c : Cmd) : List Beat :=
  let t0 := tileOf c.d0
  let t1 := tileOf c.d1
  let linear := fun (t : Tile) => (units t.imageSize).map fun u =>
    ({ ptr := ptrAdd c.r0 (Int.ofNat u.1), pos := u.1, n := u.2, row := t.statusRow u.1, from_ := c.r0, len := t.imageSize } : Beat)
  let strided := fun (t : Tile) => ((List.range t.rows).map fun r => (units t.rb).map fun u =>
    ({ ptr := ptrAdd c.r0 (Int.ofNat (r * c.r1.toNat + u.1)), pos := r * t.rb + u.1, n := u.2, row := r,
       from_ := if c.r1.toNat = t.rb then c.r0 else c.r0 + BitVec.ofNat 64 (r * c.r1.toNat),
       len := if c.r1.toNat = t.rb then t.rows * t.rb else t.rb } : Beat)).flatten
  let blocked := fun (t : Tile) => (c.aux.mapIdx fun j a =>
    cutRuns a j (c.blockRows * (t.rb + t.ns)) 0 (t.blockRuns c.blockRows j)).flatten
  let inner : List Beat := [{ ptr := none, pos := 0, n := 0, row := 0, from_ := 0#64, len := 0 }]
  match decode c.word with
  | .error _ => []
  | .ok i =>
    match i with
    | .cpin _ _ _ => linear t0
    | .cpout _ _ => linear t1
    | .cptin _ _ _ => strided t0
    | .cptout _ _ => strided t1
    | .gather _ _ _ _ _ => blocked t0
    | .scatter _ _ _ _ => blocked t1
    | .idxld _ _ => (units (4 * (c.r1.toNat % 128))).map fun u =>
        { ptr := ptrAdd c.r0 (Int.ofNat u.1), pos := u.1, n := u.2, row := u.1 / 4, from_ := c.r0, len := 0 }
    | .promote _ => match c.aux with
      | src :: _ :: _ :: _ :: _ :: _ :: res :: _ => if res = 0#64 then (List.range 512).map fun k => { ptr := ptrAdd src (Int.ofNat (128 * k)), pos := 128 * k, n := 128, row := 0, from_ := src, len := 65536 } else []
      | _ => []
    | .cpll _ _ _ => inner
    | .fill _ _ => inner
    | _ => []

/-- The destination reads from memory (CPIN, CPTIN, GATHER, IDXLD, PROMOTE's copy). -/
inductive CopyDir where
  | inward
  | outward
  | inner
deriving DecidableEq, Repr

/-- The units of transfer of a copy land in any order (11 R223); the rows of a CPTOUT and the blocks of a SCATTER are written
in order, since later ones may cover the same bytes (R137, R139). -/
def Cmd.anyOrder (c : Cmd) : Bool := match decode c.word with
  | .ok (.cptout _ _) => false
  | .ok (.scatter _ _ _ _) => false
  | _ => true

/-- A unit of transfer may move next: the first that has not moved, or where order is free any other. -/
def Cmd.mayMove (c : Cmd) (i : Nat) : Bool := i == c.beat || (c.anyOrder && decide (c.beat < i) && !c.early.contains i)

/-- The unit of transfer that moves next: where several may, a free choice (log 18). -/
def Cmd.pickBeat (c : Cmd) (tick : Nat) : Nat :=
  let l := (List.range c.beats.length).filter c.mayMove
  if l.length ≤ 1 then c.beat else l.getD (Config.anyBeat tick % l.length) c.beat

/-- The first of n units from i on that has not moved. -/
def nextBeat (early : List Nat) : Nat → Nat → Nat
  | 0, i => i
  | n + 1, i => if early.contains i then nextBeat early n (i + 1) else i

/-- A unit of transfer has moved. -/
def Cmd.noteBeat (c : Cmd) (i : Nat) : Cmd :=
  if i = c.beat then
    let b := nextBeat c.early c.early.length (i + 1)
    { c with beat := b, early := c.early.filter fun j => decide (b < j), atBank := none }
  else { c with early := i :: c.early, atBank := none }

def Cmd.dir (c : Cmd) : CopyDir := match decode c.word with
  | .ok (.cpout _ _) => .outward
  | .ok (.cptout _ _) => .outward
  | .ok (.scatter _ _ _ _) => .outward
  | .ok (.cpll _ _ _) => .inner
  | .ok (.fill _ _) => .inner
  | _ => .inward

/-- Resolve a memory operand of an engine to where it performs. -/
inductive RRes where
  | ok (loc : Loc) (s : State)
  | miss (s : State)
  | fault (cause : Nat) (s : State)

/-- The space, rank and translation checks of a copy's piece (R136, 04 R72, R77, Table 27). -/
def State.resolve (s : State) (rank : Nat) (cpe : Bool) (p : Word) (n : Nat) (kind : AccKind) : RRes :=
  let ctx := (s.unitAt rank).unit.ctx
  match spaceOf p with
  | 0 => match s.xlate rank cpe p.toNat kind with
    | .ok pa attr s1 => if s1.portRefuses ctx pa then .fault cFABRIC s1 else .ok (.global pa attr) s1
    | .miss s1 => .miss s1
    | .fault c s1 => .fault c s1
  | 1 => match s.rankFault ctx rank 1 (rankField p) (offOf p) n with
    | some c => .fault c s
    | none => .ok (.shared (dieOf (resolveRank rank 1 (rankField p))) (offOf p)) s
  | 2 => match s.rankFault ctx rank 2 (rankField p) (offOf p) n with
    | some c => .fault c s
    | none => .ok (.lcl (resolveRank rank 2 (rankField p)) (offOf p)) s
  | _ => .fault cADDR_SPACE s

/-- Outcome of one unit of transfer; of a fault, the image position of the bytes that were being moved. -/
inductive BeatRes where
  | moved (s : State)
  | wait (s : State)
  | fault (cause : Nat) (addr : Word) (s : State) (pos : Nat := 0)

/-- The image position of a fault, from that of the piece it lies in. -/
def BeatRes.atPos (r : BeatRes) (pos : Nat) : BeatRes := match r with
  | .fault c a s k => .fault c a s (pos + k)
  | r => r

/-- A read of a piece of a core's LOCAL memory has failed: the unit that cannot be read, and its place in the piece. -/
def State.readFault (s : State) (loc : Loc) (p : Word) (n cause : Nat) : BeatRes :=
  match loc with
  | .lcl r off => match (List.range n).find? fun i => cause == cUNCORR_READ && (s.unitAt r).localBad (off + i) 1 with
    | some i => .fault cause (mkPtr 2 r ((off + i) / 32 * 32)) s i
    | none => .fault cause p s
  | _ => .fault cause p s

/-- The page's own policy decides allocation for a copy engine. -/
def Loc.alloc : Loc → Bool
  | .global _ attr => attr.pol == 0
  | _ => false

/-- An access of a copy is held at a SHARED bank. -/
def State.noteBank (s : State) (rank num : Nat) (loc : Loc) : State :=
  match loc, s.cmd? rank .cpe num with
  | .shared die _, some c => s.setCmd rank .cpe { c with atBank := some die }
  | _, _ => s

/-- Read a piece for a copy command. -/
def State.cpeRead (s : State) (rank num : Nat) (p : Word) (n : Nat) : Except BeatRes (List Byte × State) :=
  match s.resolve rank true p n .load with
  | .miss s1 => .error (.wait s1)
  | .fault c s1 => .error (.fault c p s1)
  | .ok loc s1 => match s1.gateFor rank loc n (.copy num) with
    | .wait s2 => .error (.wait s2)
    | .fail c s2 => .error (.fault c p s2)
    | .go s1 => match s1.loadAt rank (s1.unitAt rank).unit.ctx loc loc.alloc n with
      | .ok bs s2 => .ok (bs, s2)
      | .bad c s2 => .error (s2.readFault loc p n c)
      | .hold => .error (.wait (s1.noteBank rank num loc))

/-- Write a piece for a copy command: a failed read-modify-write is reported and the copy goes on (12 R243). -/
def State.cpeWrite (s : State) (rank num : Nat) (p : Word) (bytes : List Byte) : BeatRes :=
  let ctx := (s.unitAt rank).unit.ctx
  match s.resolve rank true p bytes.length .store with
  | .miss s1 => .wait s1
  | .fault c s1 => .fault c p s1
  | .ok loc s1 => match s1.gateFor rank loc bytes.length (.copy num) with
    | .wait s2 => .wait s2
    | .fail c s2 => .fault c p s2
    | .go s1 => match s1.storeAt (cpeWriter rank ctx) rank ctx loc loc.alloc bytes with
      | .ok _ s2 => .moved (s2.l1Write rank loc bytes)
      | .bad c s2 =>
        if c = cUNCORR_WRITE then .moved (s2.reportMem ctx (some (rank, (s2.unitAt rank).ctl.tlevel.toNat)) c p.toNat bytes.length)
        else if c = cUNDO_OVERFLOW then .wait s2
        else .fault c p s2
      | .hold => .wait (s1.noteBank rank num loc)

/-- Cut bytes at 128-byte lines of their address, so that no piece crosses a page: pointer, offset, length. -/
def pieces (p : Word) (n : Nat) : List (Word × Nat × Nat) :=
  (vaPieces (n + 1) p.toNat n).map fun x => (p + BitVec.ofNat 64 (x.1 - p.toNat), x.1 - p.toNat, x.2)

/-- The 512-byte block of an address lies whole within a run, which then reaches its slice as one write (12 R233; log 124). -/
def wholeBlock (p from_ : Word) (len : Nat) : Bool :=
  decide (from_.toNat ≤ p.toNat / 512 * 512) && decide (p.toNat / 512 * 512 + 512 ≤ from_.toNat + len)

/-- Where the bytes a copy reads land. -/
def State.land (s : State) (rank : Nat) (c : Cmd) (pos : Nat) (bytes : List Byte) : State :=
  { s with mem := (tileOf c.d0).imgPut s.mem (localKey rank 0) pos bytes }

/-- A copied page's destination pointer (PROMOTE). -/
def Cmd.promoteDst (c : Cmd) : Word := c.aux.getD 1 0#64

/-- Image position of byte k of the run of memory that a unit of an outward copy lies in. -/
def Cmd.runPos (c : Cmd) (b : Beat) (p : Word) (k : Nat) : Nat :=
  let t := tileOf c.d1
  let n := c.blockRows * t.rb
  match decode c.word with
  | .ok (.scatter _ _ _ _) => if k < n then b.row * n + k else t.rows * t.rb + b.row * c.blockRows * t.ns + (k - n)
  | _ => b.pos + k - (p.toNat - b.from_.toNat)

/-- The writes of a unit of an outward copy: pointer and length. A block that its run covers is one write, made where its
first byte comes. -/
def Beat.parts (b : Beat) (p : Word) : List (Word × Nat) :=
  (pieces p b.n).filterMap fun x =>
    if spaceOf p = 0 && wholeBlock x.1 b.from_ b.len then (if x.1.toNat % 512 = 0 then some (x.1, 512) else none) else some (x.1, x.2.2)

/-- Image positions of n bytes of an outward copy from an address of a unit's run. -/
def Cmd.partPos (c : Cmd) (b : Beat) (p x : Word) (n : Nat) : List Nat :=
  (List.range n).map fun i => c.runPos b p (x.toNat - b.from_.toNat + i)

/-- What LOCAL memory holds at image positions of an outward copy's tile. -/
def State.imgBytes (s : State) (rank : Nat) (c : Cmd) (l : List Nat) : List Byte :=
  l.map fun k => (Memory.read s.mem (localKey rank ((tileOf c.d1).imgOff k))).getD 0#8

/-- Write a part of an outward copy. -/
def State.movePart (s : State) (rank : Nat) (c : Cmd) (b : Beat) (p x : Word) (n : Nat) : BeatRes :=
  let l := c.partPos b p x n
  match l.find? fun k => (s.unitAt rank).localBad ((tileOf c.d1).imgOff k) 1 with
  | some k => .fault cUNCORR_READ (mkPtr 2 rank ((tileOf c.d1).imgOff k / 32 * 32)) s k
  | none => (s.cpeWrite rank c.num x (s.imgBytes rank c l)).atPos (l.headD 0)

/-- Read bytes for a copy command, cut at lines. -/
def State.cpeReadAll (s : State) (rank num : Nat) (p : Word) (n : Nat) : Except BeatRes (List Byte × State) :=
  (pieces p n).foldl (fun a x => match a with
    | .error e => .error e
    | .ok (bs, s) => match s.cpeRead rank num x.1 x.2.2 with
      | .error e => .error e
      | .ok (b, s1) => .ok (bs ++ b, s1)) (.ok ([], s))

/-- Move one unit of transfer. A promotion writes each block of its page at once. -/
def State.moveBeat (s : State) (rank : Nat) (c : Cmd) (b : Beat) : BeatRes :=
  match b.ptr with
  | none => .fault cADDR_RANGE c.r0 s b.pos
  | some p => match decode c.word, c.dir with
    | .ok (.promote _), _ =>
      if b.pos % 512 ≠ 0 then .moved s
      else match s.cpeReadAll rank c.num p 512 with
        | .error r => r
        | .ok (bs, s1) => s1.cpeWrite rank c.num (c.promoteDst + BitVec.ofNat 64 b.pos) bs
    | _, .outward => (b.parts p).foldl (fun (a : BeatRes) x => match a with
      | .moved s => s.movePart rank c b p x.1 x.2
      | r => r) (.moved s)
    | i, _ => (pieces p b.n).foldl (fun (a : BeatRes) x => match a with
      | .moved s => match s.cpeRead rank c.num x.1 x.2.2 with
        | .error r => r.atPos (b.pos + x.2.1)
        | .ok (bs, s1) => match i with
          | .ok (.idxld _ _) =>
            .moved (s1.setCmd rank .cpe (match s1.cmd? rank .cpe c.num with
              | some k => { k with stage := k.stage ++ bs.mapIdx fun i v => (b.pos + x.2.1 + i, v.toNat) }
              | none => c))
          | _ => .moved (s1.land rank c (b.pos + x.2.1) bs)
      | r => r) (.moved s)

/-- The row or entry of a copy's status for bytes at an image position (R136). -/
def Cmd.statusAt (c : Cmd) (b : Beat) (pos : Nat) : Nat := match decode c.word with
  | .ok (.cpin _ _ _) => (tileOf c.d0).statusRow pos
  | .ok (.cptin _ _ _) => (tileOf c.d0).statusRow pos
  | .ok (.cpout _ _) => (tileOf c.d1).statusRow pos
  | .ok (.cptout _ _) => (tileOf c.d1).statusRow pos
  | .ok (.idxld _ _) => pos / 4
  | _ => b.row

/-- The local arrival word after an arrival of k bytes (05 R109): TARGET, COUNT, GEN, OVF as one 128-bit value. -/
def arriveWord (v k : Nat) : Nat :=
  let target := bitsAt v 0 32
  let count := bitsAt v 32 32
  let gen := bitsAt v 64 32
  let ovf := bitsAt v 96 1
  let c := count + k
  if target = 0 then
    if 2 ^ 32 ≤ c then target + (2 ^ 32 - 1) * 2 ^ 32 + gen * 2 ^ 64 + 2 ^ 96
    else target + c * 2 ^ 32 + gen * 2 ^ 64 + ovf * 2 ^ 96
  else target + c % target * 2 ^ 32 + (gen + c / target) % 2 ^ 32 * 2 ^ 64 + ovf * 2 ^ 96

/-- An arrival on a word of a core's LOCAL memory. -/
def State.arrive (s : State) (rank off k : Nat) : State :=
  let key := localKey rank off
  { s with mem := Memory.writeBytes s.mem key (bytesOf 16 (arriveWord (natOf (Memory.readZero s.mem key 16)) k)) }

/-- What happens when a copy's last byte has landed: the arrival (R142) and the attached command's release (R143). -/
def State.lastByte (s : State) (rank : Nat) (c : Cmd) : State :=
  let t := tileOf c.d0
  let raises := match decode c.word with
    | .ok (.cpin _ _ _) => t.aw
    | .ok (.cptin _ _ _) => t.aw
    | .ok (.cpll _ _ _) => t.aw
    | .ok (.gather _ _ _ _ _) => t.aw
    | .ok (.fill _ _) => t.aw
    | _ => false
  let s1 := if raises then s.arrive rank t.awo t.imageSize else s
  s1.landAttached rank c.num

/-- The local forms: CPLL (as if all read before any written) and FILL (R137, R140). -/
def State.innerCopy (s : State) (rank : Nat) (c : Cmd) : State :=
  let t0 := tileOf c.d0
  let t1 := tileOf c.d1
  let base := localKey rank 0
  match decode c.word with
  | .ok (.cpll _ _ _) => { s with mem := t0.imgPut s.mem base 0 (t1.imgGet s.mem base 0 t1.imageSize) }
  | .ok (.fill _ _) =>
    let row := pack (fmtBits t0.fmt) (List.replicate t0.codes (c.r0.toNat % 2 ^ fmtBits t0.fmt))
    let img := (List.replicate t0.rows row).flatten ++ List.replicate t0.scaleBytes (BitVec.ofNat 8 (c.r0.toNat / 2 ^ 56))
    { s with mem := t0.imgPut s.mem base 0 img }
  | _ => s

/-! ## Reads that cannot be corrected -/

/-- Bytes that hold the first n elements of a row (06 R115). -/
def Tile.colBytes (t : Tile) (n : Nat) : Nat := if t.fmt = 9 then (n + 7) / 8 * 2 else (n * fmtBits t.fmt + 7) / 8

/-- The first n elements of row r of a tile, with their scales. -/
def Tile.rowRes (t : Tile) (mk : Nat → Nat → Res) (r n : Nat) : List Res :=
  mk (t.off + r * t.stride) (t.colBytes n) :: (if t.sc then [mk (t.sco + r * t.ns) ((n + 31) / 32)] else [])

/-- The first rows and columns of a tile, each part with its row. -/
def Tile.reads (t : Tile) (mk : Nat → Nat → Res) (rows cols : Nat) : List (Nat × Res) :=
  ((List.range rows).map fun r => (t.rowRes mk r cols).map fun x => (r, x)).flatten

/-- A whole tile in LOCAL memory. -/
def Tile.readAll (t : Tile) : List (Nat × Res) := t.reads .lcl t.rows t.cols

/-- B of a compute word as the shape masks it (08 R154). -/
def bReads (wb : Bool) (b : Tile) (x : Shape) : List (Nat × Res) :=
  b.reads (if wb then .wb else .lcl) (if x.bt then x.n else x.k) (if x.bt then x.k else x.n)

/-- The second operand of a vector word in a mode (09 Table 50). -/
def modeReads (m : BitVec 2) (b : Tile) : List (Nat × Res) := if m = 3#2 then [] else b.readAll

/-- Columns lo … lo+n−1 of a state tile of FP32. -/
def Tile.stateReads (t : Tile) (lo n : Nat) : List (Nat × Res) := (List.range t.rows).map fun r => (r, .lcl (t.off + r * t.stride + 4 * lo) (4 * n))

/-- What a command reads of LOCAL memory and the weight buffer, each part with the row of its status: only what its rule
reads (08 R154, R160; 09 R175–R188). -/
def Cmd.reads (c : Cmd) : List (Nat × Res) :=
  let d := tileOf c.d0
  let a := tileOf c.d1
  let b := tileOf c.d2
  let x := shapeOf c.r0
  match decode c.word with
  | .error _ => []
  | .ok i =>
    match i with
    | .mma _ _ _ _ w => a.reads .lcl x.m x.k ++ bReads (w == 1#1) b x ++ d.reads .lcl x.m x.n
    | .mvm _ _ _ _ w => a.reads .lcl x.m x.k ++ bReads (w == 1#1) b x ++ d.reads .lcl x.m x.n
    | .mmapLead _ _ _ _ => a.reads .lcl x.m x.k ++ bReads true b x ++ d.reads .lcl x.m x.n
    | .mmapFol _ _ _ => bReads true b x ++ d.reads .lcl x.m x.n
    | .wbld _ _ | .cbld _ => a.readAll
    | .cpll _ _ _ => (List.range a.rows).map (fun r => (r, .lcl (a.off + r * a.stride) a.rb)) ++ (if a.sc then [(a.rows, .lcl a.sco a.scaleBytes)] else [])
    | .vadd _ _ _ m | .vsub _ _ _ m | .vmul _ _ _ m | .vmin _ _ _ m | .vmax _ _ _ m | .vadds _ _ _ m | .vand _ _ _ m
    | .vor _ _ _ m | .vxor _ _ _ m | .vshl _ _ _ m | .vshr _ _ _ m | .vcmpeq _ _ _ m | .vcmplt _ _ _ m | .vcmple _ _ _ m =>
      a.readAll ++ modeReads m b
    | .vfma _ _ _ m | .vsel _ _ _ m => a.readAll ++ modeReads m b ++ d.readAll
    | .vbcast _ _ k => if k = 1#2 then a.reads .lcl a.rows 1 else a.reads .lcl 1 (if k = 0#2 then a.cols else 1)
    | .vrsum _ _ k => a.readAll ++ (if k = 1#1 then d.reads .lcl d.rows 1 else [])
    | .vsmaxo _ _ _ => a.readAll ++ b.stateReads 0 2
    | .vsmaxf _ _ _ => a.readAll ++ b.stateReads 1 1
    | .vrot _ _ _ _ => a.readAll ++ [(0, .lcl c.r0.toNat (d.cols / 2 * 4))]
    | .vabs _ _ | .vneg _ _ | .vscl _ _ _ | .vmov _ _ | .vtrans _ _ | .vexp _ _ | .vexp2 _ _ | .vlog2 _ _ | .vrcp _ _
    | .vrsqrt _ _ | .vsqrt _ _ | .vtanh _ _ | .vsigm _ _ | .vsilu _ _ | .vgelu _ _ | .vcvt _ _ _ | .vquant _ _
    | .vdquant _ _ | .vrmax _ _ | .vrmin _ _ | .vargmax _ _ | .vsample _ _ _ => a.readAll
    | _ => []

/-- An unreadable 32-byte unit among bytes of LOCAL memory or of the weight buffer: its address. -/
def Core.badUnit (u : Core) (rank : Nat) : Res → Option Word
  | .lcl lo n => (u.badLocal.find? fun x => rangesMeet (x * 32) 32 lo n).map fun x => mkPtr 2 rank (x * 32)
  | .wb lo n => (u.badWb.find? fun x => rangesMeet (x * 32) 32 lo n).map fun _ => 0#64
  | _ => none

/-- The first row in which a command reads an unreadable unit, and the unit's address (08 R167, 09 R173). -/
def Core.badOperand (u : Core) (rank : Nat) (c : Cmd) : Option (Nat × Word) :=
  if u.badLocal.isEmpty && u.badWb.isEmpty then none
  else c.reads.foldl (fun (b : Option (Nat × Word)) x =>
    match u.badUnit rank x.2, b with
    | some a, none => some (x.1, a)
    | some a, some y => if x.1 < y.1 then some (x.1, a) else some y
    | none, b => b) none

end Sys2Proof.Machine
end

