-- ==== Sys2Proof/Machine/EngineRun.lean ====
section
/-!
DEFINITION. The steps an engine command takes: start, unit of transfer, completion (07, 08, 09), PROMOTE's Headgate step
(07 R144, 19 R322, R323), pair meeting and commit (08 R165), the ramp limiter (15 R270, R271, 16 R279, R280).
-/
namespace Sys2Proof.Machine

/-! ## PROMOTE -/

/-- The leaf of a page of a context, as a walker of a die finds it. -/
def State.leafOf (s : State) (die ctx va : Nat) : Except Nat TEntry × State :=
  match s.ctx? ctx with
  | none => (.error cTRANS_INVALID, s)
  | some c => s.walkFrom die ctx va 4 c.root

/-- Fields of the promotion descriptor as the command keeps them: SRC, DST, ENT, OLD and NEW, SH, VER, RES. -/
def promoteAux (bs : List Byte) (res : Nat) : List Word :=
  let w := fun (o n : Nat) => BitVec.ofNat 64 (natOf ((bs.drop o).take n))
  [w 0 8, w 8 8, w 16 8, w 24 8, w 32 8, BitVec.ofNat 64 (natOf ((bs.drop 40).take 4)), BitVec.ofNat 64 res]

/-- DST must lie on the near list of the stream's DDIE pool; it is withdrawn for a promotion (19 R322), which owns it from
then on. -/
def State.withdraw (s : State) (ctx : Nat) (sh dst : Word) : Option State :=
  let page := s.pageIndex ctx dst
  let die := match s.stream? ctx (offOf sh / 4096) with
    | some t => some t.ddie
    | none => (s.pageRec ctx page).map (·.home)
  match die with
  | none => none
  | some d =>
    let p := s.pool ctx d
    if (s.kvbase ctx).toNat ≤ dst.toNat ∧ page ∈ p.near
    then some ((s.setPool ctx d { p with near := p.near.erase page }).placePage ctx page .promote) else none

/-- DST belongs to the promotion: from an attempt that was held, or withdrawn now (04 R89, 19 R322). -/
def State.ownDst (s : State) (ctx : Nat) (c : Cmd) (sh dst : Word) : Option State :=
  if c.owns = some (s.pageIndex ctx dst) then some s else (s.giveBack ctx [c]).withdraw ctx sh dst

/-- PROMOTE starts: its descriptor, the checks of R144, and the withdrawal of DST. An operand that is no GLOBAL pointer ends it
with ADDR_SPACE, not replayable, and SH's space code is not looked at (DESIGN CHOICE, log 137: R144 names a cause for neither).
A fault carries the address of the operand that fails. -/
def State.startPromote (s : State) (rank : Nat) (c : Cmd) : State :=
  let ctx := (s.unitAt rank).unit.ctx
  let die := dieOf rank
  let st := causeStatusCpe 9 0
  match s.cpeReadAll rank c.num c.r0 48 with
  | .error (.wait s1) => s1
  | .error (.fault cs a s1 _) => s1.engFault rank .cpe c cs (cs != cUNCORR_READ) st a
  | .error (.moved s1) => s1
  | .ok (bs, s1) =>
    let aux := promoteAux bs 0
    let src := aux.getD 0 0#64
    let dst := aux.getD 1 0#64
    let ent := aux.getD 2 0#64
    let odd := [(src, 65536), (dst, 65536), (ent, 4)].find? fun x => x.1.toNat % x.2 != 0
    match odd, [src, dst, ent].find? fun p => spaceOf p != 0 with
    | some x, _ => s1.engFault rank .cpe c cMISALIGNED false st x.1
    | none, some p => s1.engFault rank .cpe c cADDR_SPACE false st p
    | none, none => match s1.leafOf die ctx src.toNat with
      | (.error x, s2) => s2.engFault rank .cpe c x (x != cUNCORR_READ) st src
      | (.ok ls, s2) => match s2.leafOf die ctx dst.toNat with
        | (.error x, s3) => s3.engFault rank .cpe c x (x != cUNCORR_READ) st dst
        | (.ok ld, s3) =>
          if ls.bits ≠ 16 then s3.engFault rank .cpe c cMISALIGNED false st src
          else if ld.bits ≠ 16 then s3.engFault rank .cpe c cMISALIGNED false st dst
          else match s3.ownDst ctx c (aux.getD 4 0#64) dst with
            | none => (s3.giveBack ctx [c]).engFault rank .cpe { c with owns := none } cOPERAND false st dst
            | some s4 =>
              let c1 := { c with st := .running, owns := some (s4.pageIndex ctx dst) }
              if ls.attr.far then s4.setCmd rank .cpe { c1 with aux := aux }
              else (s4.giveBack ctx [c1]).setCmd rank .cpe { c1 with aux := promoteAux bs 4, owns := none }

/-- A running PROMOTE has copied its page and has no result yet. -/
def Cmd.promoteDue (c : Cmd) : Bool :=
  c.st == .running && decide (cpeFn c.word = 9) && c.aux.getD 6 1#64 == 0#64 && decide (512 ≤ c.beat)

/-- The stream of a promotion, at the version it expects (R144): a closed stream matches no version (19 R323). -/
def State.promoteStream (s : State) (ctx : Nat) (c : Cmd) : Option Stream :=
  match s.stream? ctx (offOf (c.aux.getD 4 0#64) / 4096) with
  | some t => if t.version = (c.aux.getD 5 0#64).toNat then some t else none
  | none => none

/-- The CAS of a promotion at its entry's home, for a stream whose version fits, and where the pages go (07 R144, 19 R323):
the result, or none on an uncorrectable read. SRC goes home if the Headgate's record places it in that entry (19 R318). The
CAS counts as the copy engine's own write, for watchpoints and for the core's L1 (DESIGN CHOICE, log 113). -/
def State.promoteCas (s : State) (rank ctx : Nat) (w : Writer) (c : Cmd) (t : Stream) (pa : Nat) (attr : PageAttr) : Option Nat × State :=
  let word := fun (k : Nat) => c.aux.getD k 0#64
  match s.readHome pa attr (attr.pol = 0) 4 with
  | (.error _, s1) => (none, s1)
  | (.ok bs, s1) =>
    if natOf bs ≠ (word 3).toNat % 2 ^ 32 then (some 2, s1.giveBack ctx [c])
    else
      let new := bytesOf 4 ((word 3).toNat / 2 ^ 32)
      let r := s1.performWrite w pa attr (attr.pol = 0) new
      if r.1.isSome then (none, r.2)
      else
        let s2 := r.2.l1Write rank (.global pa attr) new
        let block := ((word 2).toNat - t.btab.toNat) / 4
        let s3 := s2.pageFromEntry ctx (s2.pageIndex ctx (word 0)) t.handle block
        (some 1, s3.placePage ctx (s3.pageIndex ctx (word 1)) (.entry t.handle block))

/-- The Headgate step (07 R144, 19 R323): version check and CAS as one step. -/
def State.promoteStep (s : State) (rank : Nat) (c : Cmd) : State :=
  let ctx := (s.unitAt rank).unit.ctx
  let ent := c.aux.getD 2 0#64
  let done := fun (s : State) (r : Nat) => s.setCmd rank .cpe { c with aux := c.aux.set 6 (BitVec.ofNat 64 r), owns := none }
  match s.promoteStream ctx c with
  | none => done (s.giveBack ctx [c]) 3
  | some t => match s.resolve rank true ent 4 .atomic with
    | .miss s1 => s1
    | .fault x s1 => s1.engFault rank .cpe c x (x != cUNCORR_READ) (causeStatusCpe 9 0) ent
    | .ok (.global pa attr) s1 =>
      if s1.keyBusy attr.key || s1.cutOff rank (.global pa attr) then s1
      else match s1.gateFor rank (.global pa attr) 4 (.copy c.num) with
      | .wait s2 => s2
      | .fail x s2 => s2.engFault rank .cpe c x true (causeStatusCpe 9 0) ent
      | .go s1 => match (s1.gateDone rank (.copy c.num)).promoteCas rank ctx (cpeWriter rank ctx) c t pa attr with
        | (none, s2) => s2.engFault rank .cpe c cUNCORR_READ false (causeStatusCpe 9 0) ent
        | (some r, s2) => done s2 r
    | .ok _ s1 => done (s1.giveBack ctx [c]) 2

/-! ## Subscriptions (07 R145–R148) -/

/-- Close a subscription of a unit. -/
def State.closeSub (s : State) (rank slot : Nat) : State :=
  let s0 := s.mapDies fun d => { d with subs := d.subs.filter fun h => !(decide (h.rank = rank) && decide (h.slot = slot)) }
  let s1 := { s0 with pushes := s0.pushes.filter fun p => !(decide (p.rank = rank) && decide (p.slot = slot)) }
  s1.modUnit rank fun u => { u with unit := { u.unit with subs := alDel slot u.unit.subs } }

def State.closeSubs (s : State) (rank : Nat) : State :=
  [0, 1, 2, 3].foldl (fun s k => s.closeSub rank k) s

/-- Open a subscription at its home; the count of pushes starts at a number, and the first may carry RESYNC. A range whose home
is another package's is counted on this package's die of that number, and never pushed to (DESIGN CHOICE, log 136: R145 says
nothing of subscriptions over the fabric). -/
def State.openSub (s : State) (ctx rank slot : Nat) (va : Word) (len : Nat) (ring : BitVec 128) (count : Nat) (resync : Bool) : Option Nat × State :=
  match s.ctxXlate (dieOf rank) ctx va.toNat .load with
  | (.error c, s1) => (some c, s1)
  | (.ok (pa, attr), s1) =>
    let home := homeDie pa
    if 512 ≤ (s1.die home).subs.length then (some cSUBSCR_FULL, s1)
    else
      let h : HomeSub := { ctx := ctx, rank := rank, slot := slot, va := va, pa := pa, len := len, key := (s1.keyId attr.key).getD 0,
                           ring := ring, count := count, free := (tileOf ring).rows, resync := resync }
      let s2 := s1.modDie home fun d => { d with subs := d.subs ++ [h] }
      (none, s2.modUnit rank fun u => { u with unit := { u.unit with subs := alSet slot { base := va, len := len, ring := ring, next := count } u.unit.subs } })

/-- SUBSCR completes: the checks that it makes when it executes, then the opening or closing (R145). -/
def State.finishSubscr (s : State) (rank : Nat) (c : Cmd) (slot : Nat) : State :=
  let ctx := (s.unitAt rank).unit.ctx
  let st := causeStatusCpe 10 0
  let len := c.r1.toNat
  if len = 0 then (s.closeSub rank slot).doneCmd rank .cpe c.num
  else if c.r0.toNat % 128 ≠ 0 ∨ len % 128 ≠ 0 then s.engFault rank .cpe c cOPERAND false st c.r0
  else match s.leafOf (dieOf rank) ctx c.r0.toNat with
    | (.error x, s1) => s1.engFault rank .cpe c x (x != cUNCORR_READ) st c.r0
    | (.ok e, s1) =>
      if c.r0.toNat / 2 ^ e.bits ≠ (c.r0.toNat + len - 1) / 2 ^ e.bits then s1.engFault rank .cpe c cOPERAND false st c.r0
      else match (s1.closeSub rank slot).openSub ctx rank slot c.r0 len c.d0 0 false with
        | (some x, s2) =>
          if x = cSUBSCR_FULL then s1.engFault rank .cpe c x false st c.r0 else s2.engFault rank .cpe c x (x != cUNCORR_READ) st c.r0
        | (none, s2) => s2.doneCmd rank .cpe c.num

/-- SLOTRET (R147). -/
def State.finishSlotret (s : State) (rank : Nat) (c : Cmd) (slot : Nat) : State :=
  let s1 := s.mapDies fun d => { d with subs := d.subs.map fun h =>
    if h.rank = rank ∧ h.slot = slot then { h with free := min (tileOf h.ring).rows (h.free + c.r0.toNat % 512) } else h }
  s1.doneCmd rank .cpe c.num

/-! ## Start -/

/-- A GATHER or SCATTER starts: every index is checked before any byte moves (R139). -/
def State.startGather (s : State) (rank : Nat) (c : Cmd) (x : BitVec 3) (t : Tile) : State :=
  let xr := (s.unitAt rank).xs.toList.getD x.toNat {}
  match gatherAddrs xr c.r0 c.r1.toNat (t.rows / c.blockRows) 0 with
  | .error (j, cs) => s.engFault rank .cpe c cs false (causeStatusCpe (cpeFn c.word) j) (if cs = cADDR_RANGE then c.r0 else 0#64)
  | .ok l => s.setCmd rank .cpe { c with st := .running, aux := l }

/-- An MMAP half reaches the rendezvous and reads EPOCH (R165). With the first half of a site both clusters get the lower of
the rails that R277 gives them; where they stand on different rails the high one goes to the low rail first (16 R280). -/
def State.reachPair (s : State) (rank : Nat) (c : Cmd) : State :=
  let die := dieOf rank
  let k := clusterOf rank
  let s1 := s.setCmd rank .mat { c with epoch := some (s.epoch rank), since := s.clk }
  if s.pairBusy die k then s1
  else
    let low := (s.cluster die k).own && (s.cluster die (k ^^^ 1)).own
    let parted := (s.cluster die k).railHigh != (s.cluster die (k ^^^ 1)).railHigh
    [k, k ^^^ 1].foldl (fun s c => s.modCluster die c fun x => { x.order low s.clk with joining := parted && x.railHigh }) s1

/-- The compute commands of a core's cluster are withheld (16 R278, R282). -/
def State.withheld (s : State) (rank : Nat) : Bool :=
  match alGet (clusterOf rank) (s.die (dieOf rank)).clusters with
  | some k => k.withheld || k.critical
  | none => false

/-- The units of a context go no further: a kill or a rollback of it waits for a command boundary (24 R384, R391). -/
def State.stopping (s : State) (ctx : Nat) : Bool := match s.ctx? ctx with
  | some c => c.stopDue.isSome
  | none => false

/-- ENGINE_COMMAND_START. A compute word needs its grant (15 R270): without one it becomes eligible, unless its cluster's are
withheld (16 R278). -/
def State.startCmd (s : State) (rank : Nat) (e : EngId) (num : Nat) : State :=
  let u := s.unitAt rank
  match (u.engine e).find num with
  | none => s
  | some c =>
    if !(u.ready rank e c) || s.stopping u.unit.ctx then s
    else match decode c.word with
      | .error _ => s
      | .ok i =>
        match i with
        | .gather _ x _ _ _ => s.startGather rank c x (tileOf c.d0)
        | .scatter x _ _ _ => s.startGather rank c x (tileOf c.d1)
        | .promote _ => s.startPromote rank c
        | .mma _ _ _ _ _ | .mvm _ _ _ _ _ =>
          if s.withheld rank then s else s.setCmd rank e { c with eligible := some (c.eligible.getD s.clk) }
        | .mmapLead _ _ _ _ | .mmapFol _ _ _ =>
          if c.epoch.isNone && ((u.engine e).ahead c).isEmpty then s.reachPair rank c else s
        | _ => s.setCmd rank e { c with st := .running }

/-! ## Units of transfer -/

/-- CPE_BEAT: a unit of transfer of a running copy moves. -/
def State.cpeBeat (s : State) (rank num index : Nat) : State :=
  match s.cmd? rank .cpe num with
  | none => s
  | some c =>
    let bs := c.beats
    if c.st ≠ .running ∨ c.mayMove index = false then s
    else match bs[index]? with
      | none => s
      | some b =>
        let after := fun (s : State) =>
          let c1 := ((s.cmd? rank .cpe num).getD c).noteBeat index
          let s1 := s.setCmd rank .cpe { c1 with landed := decide (bs.length ≤ c1.beat) }
          if bs.length ≤ c1.beat then s1.lastByte rank c else s1
        if c.dir = .inner then
          match (s.unitAt rank).badOperand rank c with
          | some (r, a) => s.engFault rank .cpe c cUNCORR_READ false (causeStatusCpe (cpeFn c.word) r) a
          | none => after (s.innerCopy rank c)
        else match s.moveBeat rank c b with
          | .moved s1 => after (s1.gateUsed rank (.copy c.num))
          | .wait s1 => s1
          | .fault cs a s1 pos =>
            s1.engFault rank .cpe c cs (cs != cUNCORR_READ && cs != cADDR_RANGE) (causeStatusCpe (cpeFn c.word) (c.statusAt b pos)) a

/-! ## Completion -/

/-- Write staged bytes into an index register (R138). -/
def loadIndex (x : IdxReg) (c : Cmd) : IdxReg :=
  let n := c.r1.toNat % 128
  let byte := fun (i : Nat) => ((c.stage.find? fun p => p.1 = i).map (·.2)).getD 0
  { ent := Vector.ofFn fun i => if i.val < n then BitVec.ofNat 32 (byte (4 * i.val) + 256 * byte (4 * i.val + 1) + 65536 * byte (4 * i.val + 2)
      + 16777216 * byte (4 * i.val + 3)) else x.ent[i],
    cnt := n, bnd := BitVec.ofNat 32 (c.r1.toNat / 2 ^ 32) }

/-- A CPE command completes. -/
def State.finishCpe (s : State) (rank : Nat) (c : Cmd) : State :=
  let done := fun (s : State) => (s.gateDone rank (.copy c.num)).doneCmd rank .cpe c.num
  if c.st ≠ .running ∨ c.beat < c.beats.length then s
  else match decode c.word with
    | .ok (.idxld x _) => done (s.modUnit rank fun u => { u with xs := u.xs.set! x.toNat (loadIndex (u.xs.toList.getD x.toNat {}) c) })
    | .ok (.promote _) =>
      let res := c.aux.getD 6 0#64
      if res = 0#64 then s
      else match ptrAdd c.r0 44 with
        | none => done s
        | some p => match s.cpeWrite rank c.num p (bytesOf 4 res.toNat) with
          | .moved s1 => done s1
          | .wait s1 => s1
          | .fault cs a s1 _ => s1.engFault rank .cpe c cs true (causeStatusCpe 9 0) a
    | .ok (.subscr _ _ k) => s.finishSubscr rank c k.toNat
    | .ok (.slotret _ k) => s.finishSlotret rank c k.toNat
    | .ok _ => done s
    | .error _ => s

/-- Keys and descriptors of a compute command's operands. -/
def State.computeRows (s : State) (rank : Nat) (c : Cmd) (aRank : Nat) (a : Tile) (wb : Bool) : List RowWrite :=
  let u := s.unitAt rank
  mmaRows s.mem u.codebook.ent (localKey aRank 0) (localKey rank 0) (if wb then wbKey rank 0 else localKey rank 0) a (tileOf c.d2) (tileOf c.d0) (shapeOf c.r0)

/-- Apply a command's writes; an uncorrectable operand leaves each code old or new (08 R167, 09 R173). -/
def State.applyCmd (s : State) (rank : Nat) (e : EngId) (c : Cmd) (rows : List RowWrite) (status : Nat → Nat) : State :=
  match (s.unitAt rank).badOperand rank c with
  | none => { s with mem := applyRows (fun _ => false) 0 rows s.mem }.doneCmd rank e c.num
  | some (r, a) => ({ s with mem := applyRows (Config.keepsOld s.tick) 0 rows s.mem }).engFault rank e c cUNCORR_READ false (status r) a

/-- A matrix command completes (08 R159–R163). A WBLD or CBLD that meets an uncorrectable read writes nothing, and WHW and the
codebook's validity stay (DESIGN CHOICE, log 118: R167 speaks of elements of D). -/
def State.finishMat (s : State) (rank : Nat) (c : Cmd) : State :=
  let status := fun (fn _row : Nat) => fn * 2 ^ 28 + 1 * 2 ^ 24
  let a := tileOf c.d1
  let d := tileOf c.d0
  if c.st ≠ .running then s
  else match decode c.word with
    | .ok (.mma _ _ _ _ w) => (s.applyCmd rank .mat c (s.computeRows rank c rank a (w == 1#1)) (status 0)).noteDone rank c.granted
    | .ok (.mvm _ _ _ _ w) => (s.applyCmd rank .mat c (s.computeRows rank c rank a (w == 1#1)) (status 4)).noteDone rank c.granted
    | .ok (.mzero _) => s.applyCmd rank .mat c (mzeroRows (localKey rank 0) d) (status 5)
    | .ok (.wbld _ _) =>
      match (s.unitAt rank).badOperand rank c with
      | some (_, x) => s.engFault rank .mat c cUNCORR_READ false (status 2 0) x
      | none =>
        let s1 := { s with mem := d.imgPut s.mem (wbKey rank 0) 0 (a.imgGet s.mem (localKey rank 0) 0 a.imageSize) }
        let top := max (d.off + d.span) (if d.sc then d.sco + d.scaleBytes else 0)
        (s1.modUnit rank fun u => { u with ctl := { u.ctl with whw := max u.ctl.whw top } }).doneCmd rank .mat c.num
    | .ok (.cbld _) =>
      match (s.unitAt rank).badOperand rank c with
      | some (_, x) => s.engFault rank .mat c cUNCORR_READ false (status 3 0) x
      | none =>
        let es := ((List.range a.rows).map fun r => a.row s.mem (localKey rank 0) r).flatten
        (s.modUnit rank fun u => { u with codebook := { valid := true, ent := Vector.ofFn fun i => BitVec.ofNat 32 (es.getD i.val 0) } }).doneCmd rank .mat c.num
    | _ => s

/-- A vector command completes. -/
def State.finishVec (s : State) (rank : Nat) (c : Cmd) : State :=
  if c.st ≠ .running then s
  else
    let major := if fld c.word 26 6 = 0x35#6 then 2 ^ 25 else 0
    let status := fun (r : Nat) => (fld c.word 20 6).toNat * 2 ^ 26 + major + 1 * 2 ^ 21 + r
    s.applyCmd rank .vec c (vecRows s.mem rank c) status

/-! ## Pairs -/

/-- Both halves of a pair site as seen from one core: its own and its partner's. -/
def State.halves (s : State) (rank : Nat) : Option (Cmd × Cmd) :=
  match (s.unitAt rank).half, (s.unitAt (partner rank)).half with
  | some a, some b => some (a, b)
  | _, _ => none

/-- PAIR_MISMATCH ends a half (R165): not replayable, its tdD unchanged. -/
def State.mismatch (s : State) (rank : Nat) (c : Cmd) : State :=
  s.engFault rank .mat c cPAIR_MISMATCH false (1 * 2 ^ 28 + 3 * 2 ^ 24 + (c.epoch.getD 0) % 2 ^ 24) 0#64

/-- PAIR_MEET (R165): both wait with the same EPOCH and equal contexts, on one rail; they are eligible from this clk on (16
R280) unless their clusters' commands are withheld (16 R278). -/
def State.pairMeet (s : State) (rank : Nat) : State :=
  let p := partner rank
  match s.halves rank with
  | none => s
  | some (a, b) =>
    if a.met ∨ b.met ∨ a.epoch ≠ b.epoch ∨ a.epoch ≠ some (s.epoch rank) ∨ (s.unitAt rank).unit.ctx ≠ (s.unitAt p).unit.ctx
      ∨ s.railHigh rank ≠ s.railHigh p then s
    else
      let x := shapeOf a.r0
      let y := shapeOf b.r0
      if isLead a.word = isLead b.word ∨ x.m ≠ y.m ∨ x.k ≠ y.k ∨ 128 < x.n ∨ 128 < y.n then
        (((s.mismatch rank a).mismatch p b).bumpEpoch rank).pairLeft rank
      else
        let at_ := fun (r : Nat) => if s.withheld r then none else some s.clk
        (s.setCmd rank .mat { a with met := true, eligible := at_ rank }).setCmd p .mat { b with met := true, eligible := at_ p }

/-- PAIR_COMMIT: both halves write their tdD together and EPOCH rises (R165). A half that meets an uncorrectable operand
faults, its tdD unchanged, and the other abandons (R166). -/
def State.pairCommit (s : State) (rank : Nat) : State :=
  let p := partner rank
  match s.halves rank with
  | none => s
  | some (a, b) =>
    if a.st ≠ .running ∨ b.st ≠ .running then s
    else
      let lead := if isLead a.word then rank else p
      let aTile := tileOf (if isLead a.word then a.d1 else b.d1)
      let bad := fun (r : Nat) (c : Cmd) => (s.unitAt r).badOperand r c
      let fault := fun (r : Nat) (c : Cmd) (x : Nat × Word) (s : State) =>
        (s.engFault r .mat c cUNCORR_READ false (1 * 2 ^ 28 + 1 * 2 ^ 24 + (c.epoch.getD 0) % 2 ^ 24) x.2).noteDone r c.granted |>.pairLeft r
      match bad rank a, bad p b with
      | some x, _ => fault rank a x (s.abandonHalf p)
      | none, some y => fault p b y (s.abandonHalf rank)
      | none, none =>
        let ra := s.computeRows rank a lead aTile true
        let rb := s.computeRows p b lead aTile true
        let s1 := { s with mem := applyRows (fun _ => false) 0 (ra ++ rb) s.mem }
        let s2 := ((s1.doneCmd rank .mat a.num).doneCmd p .mat b.num).bumpEpoch rank
        ((s2.noteDone rank a.granted).noteDone p b.granted).pairLeft rank

/-- The partner's half has come to the rendezvous of a half: same EPOCH, same context. -/
def State.partnerCame (s : State) (rank : Nat) (c : Cmd) : Bool :=
  match (s.unitAt (partner rank)).half with
  | some b => b.epoch == c.epoch && (s.unitAt (partner rank)).unit.ctx == (s.unitAt rank).unit.ctx
  | none => false

/-- PAIR_ABANDON (R166): the partner has not come within 4096 clk, or the half's EPOCH is no longer current. -/
def State.pairTimeout (s : State) (rank : Nat) : State :=
  match (s.unitAt rank).half with
  | none => s
  | some c =>
    if c.met then s
    else if c.epoch = some (s.epoch rank) ∧ (s.clk < c.since + 4096 ∨ s.partnerCame rank c = true) then s
    else s.abandonHalf rank

end Sys2Proof.Machine
end

