-- ==== Sys2Proof/Machine/Ramp.lean ====
section
/-!
DEFINITION. The ramp limiter of a die's rails, its fillers, and the switching of a cluster's rail (15 R270–R272, 16 R274,
R279–R281). A limiter's steps are taken one by one, whenever RAMP_STEP comes: commands keep the clk from which they are
eligible, and arrays the clk from which and to which they were occupied.
-/
namespace Sys2Proof.Machine

/-! ## Grants (15 R270) -/

/-- G[j] of a ramp table (16 Table 87). -/
def grantsAt (rampt : Word) (j : Nat) : Nat := bitsAt rampt.toNat (4 * j) 4

/-- The command of a core that is eligible for a grant: an MMA or MVM that could start, or a met half. -/
def State.eligibleCmd (s : State) (rank : Nat) : Option Cmd :=
  let u := s.unitAt rank
  if s.withheld rank then none
  else u.mat.queue.find? fun c => isCompute c.word && c.granted.isNone && c.st == .queued
    && (if isMmap c.word then c.met else u.ready rank .mat c)

/-- Insert a core by eligibility, then rank (15 R270). -/
def insertBy (k : Nat × Nat) : List (Nat × Nat) → List (Nat × Nat)
  | [] => [k]
  | x :: r => if k.1 < x.1 ∨ (k.1 = x.1 ∧ k.2 < x.2) then k :: x :: r else x :: insertBy k r

/-- A command that could start but for the limiter is eligible from that clk on (15 R270). -/
def State.noteEligible (s : State) : State :=
  (s.units.filter fun u => !u.2.mat.queue.isEmpty).foldl (fun s u => match s.eligibleCmd u.1 with
    | some c => if c.eligible.isSome then s else s.setCmd u.1 .mat { c with eligible := some s.clk }
    | none => s) s

/-- Grant a core's command a slot: an MMA or MVM starts in its clk; a pair starts with its second grant (16 R280). -/
def State.grant (s : State) (rank clk : Nat) : State :=
  match s.eligibleCmd rank with
  | none => s
  | some c =>
    if isMmap c.word then
      match (s.unitAt (partner rank)).half with
      | some p =>
        if p.granted.isSome then (s.setCmd rank .mat { c with granted := some clk, st := .running }).setCmd (partner rank) .mat { p with st := .running }
        else s.setCmd rank .mat { c with granted := some clk }
      | none => s
    else s.setCmd rank .mat { c with granted := some clk, st := .running }

/-- Slots taken by commands in their order: a slot goes to the first command that was eligible by its clk, else it is lost.
The cores granted with their clk, and the commands left over. -/
def takeSlots : List Nat → List (Nat × Nat) → List (Nat × Nat) × List (Nat × Nat)
  | [], l => ([], l)
  | _, [] => ([], [])
  | t :: r, x :: l =>
    if x.1 ≤ t then ((x.2, t) :: (takeSlots r l).1, (takeSlots r l).2) else takeSlots r (x :: l)

/-! ## Limiters -/

def Die.limiter (d : Die) (high : Bool) : Limiter := if high then d.limHigh else d.limLow
def Die.setLimiter (d : Die) (high : Bool) (l : Limiter) : Die := if high then { d with limHigh := l } else { d with limLow := l }

/-- The clk of the grants of a limiter's open step (15 R270). -/
def Limiter.slots (l : Limiter) : List Nat :=
  let g := grantsAt l.rampt l.level
  (List.range g).map fun i => l.opened + 4 * i / g

/-- Cores that have run and draw from a rail of a die. -/
def State.limited (s : State) (die : Nat) (high : Bool) : List Nat :=
  (s.units.map (·.1)).filter fun r => isCoreRank r && decide (dieOf r = die) && s.railHigh r == high

/-- An array was occupied in some clk from lo to below hi. -/
def State.occupied (s : State) (l : Limiter) (rank lo hi : Nat) : Bool :=
  (match (s.unitAt rank).activeFrom with
    | some g => decide (g < hi)
    | none => false)
  || l.past.any fun x => decide (x.1 = rank) && decide (x.2.1 < hi) && decide (lo < x.2.2)

/-- The eligible commands of a rail in the order of 15 R270. -/
def State.eligibles (s : State) (die : Nat) (high : Bool) : List (Nat × Nat) :=
  (s.limited die high).foldl (fun l r => match s.eligibleCmd r with
    | some c => match c.eligible with
      | some e => insertBy (e, r) l
      | none => l
    | none => l) []

/-- Slots of the open step that have been taken. -/
def State.slotsTaken (s : State) (die : Nat) (high : Bool) : List Nat :=
  let l := (s.die die).limiter high
  (((s.limited die high).filterMap fun r => (s.unitAt r).activeFrom) ++ l.past.map fun x => x.2.1).filter fun g => decide (l.opened ≤ g)

/-- The slots of the open step that have come go to the commands eligible by them. -/
def State.offerSlots (s : State) (die : Nat) (high : Bool) : State :=
  let free := ((s.slotsTaken die high).foldl (fun l g => l.erase g) ((s.die die).limiter high).slots).filter fun t => decide (t ≤ s.clk)
  (takeSlots free (s.eligibles die high)).1.foldl (fun s x => s.grant x.1 x.2) s

/-! ## Rails (16 R274, R279, R280) -/

/-- A cluster's arrays leave one limiter's count and join the other's at a boundary of the old one (R279). -/
def State.switchRail (s : State) (die c : Nat) (high : Bool) : State :=
  let cs := coresOf die c
  let d := s.die die
  let old := d.limiter !high
  let new := d.limiter high
  let n := (cs.filter fun r => s.occupied old r (old.opened - 1) old.opened || r ∈ old.fillers).length
  let mine := fun (x : Nat × Nat × Nat) => cs.contains x.1
  let old' := { old with prev := old.prev - n, past := old.past.filter fun x => !mine x, recent := old.recent.filter fun x => !mine x,
                         fillers := old.fillers.filter fun r => !(cs.contains r) }
  let new' := { new with prev := new.prev + n, past := old.past.filter mine ++ new.past,
                         recent := (old.recent.filter mine).foldr noteRecent new.recent,
                         fillers := new.fillers ++ old.fillers.filter fun r => cs.contains r }
  (s.modDie die fun d => (d.setLimiter (!high) old').setLimiter high new').modCluster die c fun k =>
    { k with railHigh := high, joining := false, pendingRail := k.pendingRail.filter fun h => h ≠ high }

/-- The rail a cluster goes to at a boundary of its limiter, ordered before it (R274). A switch that would part the clusters of a
pair in use is held, unless both go together; where they stand on different rails the low one waits for the high one (R280). -/
def State.railDue (s : State) (die c at_ : Nat) : Option Bool :=
  let k := s.cluster die c
  let p := s.cluster die (c ^^^ 1)
  if at_ ≤ k.ordered then none
  else if k.joining then some false
  else (k.pendingRail.filter fun h => h ≠ k.railHigh).filter fun h =>
    !s.pairBusy die c || (if k.railHigh == p.railHigh then p.pendingRail == some h else !h)

/-- Clusters of a rail that switch at its limiter's boundary do so. -/
def State.switchDue (s : State) (die : Nat) (high : Bool) : State :=
  let at_ := ((s.die die).limiter high).opened
  let due := (List.range (clustersOf die)).filterMap fun c =>
    if (s.cluster die c).railHigh == high then (s.railDue die c at_).map fun h => (c, h) else none
  due.foldl (fun s x => s.switchRail die x.1 x.2) s

/-! ## The step (15 R270, R271) -/

/-- A filler step of an array is charged to the context whose command last ran on it, and to its cluster's meter (15 R271,
16 R278, R281). It keeps the array busy for the step (16 R276). -/
def State.chargeFiller (s : State) (die : Nat) (x : Nat × Nat × Nat) : State :=
  (s.modCtx x.2.1 fun c => { c with energy := c.energy + s.power.fille }).modCluster die (clusterOf x.1) fun k =>
    { k with used := k.used + s.power.fille, busyClk := k.busyClk + 4 }

/-- A step of a limiter ends: fillers go on arrays that were idle all through it, the level changes, clusters whose switch has
been ordered change rail, and the next step begins under the ramp table as it then is. -/
def State.closeStep (s : State) (die : Nat) (high : Bool) : State :=
  let lim := (s.die die).limiter high
  let next := lim.opened + 4
  let g := grantsAt lim.rampt lim.level
  let refused := (s.eligibles die high).filter fun x => decide (x.1 < next)
  let active := (s.limited die high).filter fun r => s.occupied lim r (next - 1) next
  let idle := lim.recent.filter fun x => !(s.occupied lim x.1 lim.opened next)
  let fill := idle.take (lim.prev - g - active.length)
  let total := active.length + fill.length
  let level := if !refused.isEmpty then min 15 (lim.level + 1) else if total < lim.prev ∨ total = 0 then lim.level - 1 else lim.level
  let s1 := s.modDie die fun d => d.setLimiter high { lim with
    level := level, prev := total, opened := next, rampt := d.rampt, fillers := fill.map (·.1), past := lim.past.filter fun x => decide (next ≤ x.2.2) }
  let s2 := fill.foldl (fun s x => s.chargeFiller die x) s1
  let s3 := refused.foldl (fun s x => s.modUnit x.2 fun u => u.countEvent 10 (next - max lim.opened x.1)) s2
  ((s3.dieEvent die 8 refused.length).dieEvent die 9 fill.length).switchDue die high

/-- The steps of a limiter that have ended, and the slots of the open one that have come. -/
def State.rampSteps (die : Nat) (high : Bool) : Nat → State → State
  | 0, s => s
  | n + 1, s =>
    let s1 := s.offerSlots die high
    if s1.clk < ((s1.die die).limiter high).opened + 4 then s1 else State.rampSteps die high n (s1.closeStep die high)

/-- Nothing goes on under a limiter: at level 0 its steps pass without an effect. -/
def State.rampRests (s : State) (die : Nat) (high : Bool) : Bool :=
  let l := (s.die die).limiter high
  l.level == 0 && l.prev == 0 && l.past.isEmpty && (s.limited die high).all fun r => (s.unitAt r).activeFrom.isNone && (s.eligibleCmd r).isNone

/-- RAMP_STEP brings a limiter up to the present clk; a limiter at rest goes straight to its last step. -/
def State.rampStep (s : State) (die : Nat) (high : Bool) : State :=
  let l := (s.die die).limiter high
  let late := (s.clk - l.opened) / 4
  if s.rampRests die high && decide (0 < late) then
    State.rampSteps die high 2 (s.modDie die fun d => d.setLimiter high { l with opened := l.opened + 4 * (late - 1) })
  else State.rampSteps die high (late + 1) s

/-- Both limiters of a die come up to the present clk. -/
def State.rampDie (s : State) (die : Nat) : State := (s.rampStep die false).rampStep die true

/-- Every limiter of the package comes up to the present clk. -/
def State.rampAll (s : State) : State := (s.dies.map (·.1)).foldl (fun s d => s.rampDie d) s

end Sys2Proof.Machine
end

