-- ==== Sys2Proof/Machine/Object.lean ====
section
/-!
DEFINITION. Continuation objects (10 R209–R217): CSTATE and its changes, the image of a unit, the continuation pool
(R201), what a suspension does with engine work (R214), and the restoring of a unit (R215).
-/
namespace Sys2Proof.Machine

/-- The engine of a word (01 Table 3). -/
def engOf (w : W32) : EngId :=
  if fld w 26 6 = 0x32#6 then .cpe else if fld w 26 6 = 0x33#6 then .mat else .vec

/-! ## Queues of a die -/

/-- Put work on a die's ready queue (14 R262). -/
def State.enqueue (s : State) (die : Nat) (w : Work) (prio : Nat) : State :=
  s.modDie die fun d => { d with ready := d.ready ++ [{ work := w, prio := prio, ready := s.clk }] }

/-- Put work on a D-die's memory-side queue. -/
def State.enqueueMem (s : State) (die : Nat) (w : Work) (prio : Nat) : State :=
  s.modDie die fun d => { d with memReady := d.memReady ++ [{ work := w, prio := prio, ready := s.clk }] }

/-- A stage object of a saved group: its record in the group image (14 R261). -/
def GroupImage.holds (g : GroupImage) (ctx : Nat) (p : Word) : Bool :=
  decide (g.ctx = ctx) && g.stages.any fun x => decide (x.2.1.ptr = p)

/-- The stage of a saved group whose object a record names becomes ready in its image. -/
def Work.wake (o : ObjRec) : Work → Work
  | .image g => if g.holds o.ctx o.ptr then .image { g with stages := g.stages.map fun x =>
      if x.2.1.ptr = o.ptr then (x.1, { o with boundTo := none }, false) else x } else .image g
  | w => w

/-- A group image of a die's queue holds an object. -/
def Work.holds (ctx : Nat) (p : Word) : Work → Bool
  | .image g => g.holds ctx p
  | _ => false

/-- An object is a stage of a saved group (14 R261). -/
def State.inImage (s : State) (ctx : Nat) (p : Word) : Bool := s.dies.any fun d => d.2.ready.any fun i => i.work.holds ctx p

/-- Queue an object on the die HDIE names; a memory-side unit's on the memory-side queue; a stage of a saved group becomes
ready within its image. -/
def State.enqueueObj (s : State) (o : ObjRec) : State :=
  if s.inImage o.ctx o.ptr then
    s.mapDies fun d => { d with ready := d.ready.map fun i => { i with work := i.work.wake o } }
  else if o.cls = 2 then s.enqueueMem o.hdie (.object o) o.prio else s.enqueue o.hdie (.object o) o.prio

/-! ## CSTATE (Tables 59, 60) -/

structure CState where
  version : Nat
  hdie : Nat
  cause : Nat
  cls : Nat
  layout : Nat
  pool : Bool
  prio : Nat
  state : Nat
deriving DecidableEq, Repr

def sFREE := 0
def sWRITING := 1
def sPARKED := 2
def sRUNNING := 3
def sDISCARDED := 4

def cstateOf (v : Nat) : CState :=
  { version := bitsAt v 32 32, hdie := bitsAt v 26 6, cause := bitsAt v 22 4, cls := bitsAt v 20 2, layout := bitsAt v 12 8,
    pool := bitAt v 11, prio := bitsAt v 9 2, state := bitsAt v 0 3 }

def CState.pack (c : CState) : Nat :=
  c.version * 2 ^ 32 + c.hdie * 2 ^ 26 + c.cause * 2 ^ 22 + c.cls * 2 ^ 20 + c.layout * 2 ^ 12 + (if c.pool then 2 ^ 11 else 0)
    + c.prio * 2 ^ 9 + c.state

/-- A change of state: VERSION goes up by 1 (R211). -/
def CState.to (c : CState) (st : Nat) : CState := { c with state := st, version := (c.version + 1) % 2 ^ 32 }

def State.cstate (s : State) (die ctx : Nat) (p : Word) : Except Nat CState × State :=
  match s.ctxReadNat die ctx p.toNat 8 with
  | (.ok v, s1) => (.ok (cstateOf v), s1)
  | (.error c, s1) => (.error c, s1)

def State.putCState (s : State) (die ctx : Nat) (p : Word) (c : CState) : State :=
  (s.ctxWrite die ctx p.toNat (bytesOf 8 c.pack)).2

/-- CAS of an object from a state, and a version where one is expected, to another; the new CSTATE. -/
def State.moveObj (s : State) (die ctx : Nat) (p : Word) (from_ : Nat) (version : Option Nat) (dest : Nat) : Option CState × State :=
  match s.cstate die ctx p with
  | (.ok c, s1) =>
    if c.state = from_ ∧ version.getD c.version = c.version then (some (c.to dest), s1.putCState die ctx p (c.to dest)) else (none, s1)
  | (.error _, s1) => (none, s1)

/-- A 4-byte field of an object. -/
def State.objField (s : State) (die ctx : Nat) (p : Word) (off : Nat) : Nat :=
  match (s.ctxReadNat die ctx (p.toNat + off) 4).1 with
  | .ok v => v
  | .error _ => 0

def State.outst (s : State) (die ctx : Nat) (p : Word) : Nat := s.objField die ctx p 0x10

/-- Address and access checks on an object (R212): the cause and the address of TVAL. -/
def State.checkAccess (s : State) (die ctx : Nat) (p : Word) (n : Nat) (kind : AccKind) : Option (Nat × Word) × State :=
  if spaceOf p ≠ 0 then (some (cADDR_SPACE, p), s)
  else if p.toNat / 2 ^ 57 ≠ 0 then (some (cADDR_RANGE, p), s)
  else if p.toNat % 256 ≠ 0 then (some (cMISALIGNED, p), s)
  else match s.ctxCheck die ctx p.toNat n kind with
    | (some (c, va), s1) => (some (c, BitVec.ofNat 64 va), s1)
    | (none, s1) => (none, s1)

/-! ## The image of a unit (Table 58) -/

/-- SIZE of a unit's object (R209). -/
def Core.objSize (u : Core) : Nat := 0x3000 + 128 * ((u.ctl.whw + 127) / 128) + u.ctl.lkeep.toNat

/-- What a suspension records besides the unit. -/
structure Park where
  cause : Nat
  pc : Word
  waiton : Word := 0#64
  waitval : Word := 0#64
  key : Nat := 0
  rights : Nat := 0
  dst : Option Nat := none
deriving DecidableEq, Repr

def w8 (w : Word) : List Byte := bytesOf 8 w.toNat
def zeros (n : Nat) : List Byte := List.replicate n 0#8

/-- The control-register image (22 Table 114). -/
def Core.crImage (u : Core) : List Byte :=
  let c := u.ctl
  bytesOf 8 (c.tlevel.toNat + if c.dzt then 256 else 0) ++ w8 c.tcause1 ++ w8 c.tcause2 ++ w8 c.tret1 ++ w8 c.tret2 ++ w8 c.tval1
    ++ w8 c.tval2 ++ w8 c.tscr1 ++ w8 c.tscr2 ++ w8 c.tvec ++ bytesOf 8 c.spinl ++ w8 u.ssp ++ w8 c.stgno ++ w8 c.stgnext
    ++ w8 c.stgprev ++ w8 c.evsel ++ (c.wpaddr.toList.map w8).flatten ++ (c.wpctl.toList.map w8).flatten
    ++ (c.evcnt.toList.map w8).flatten

/-- The loop bank of a trap level (02 R49). -/
def Core.bank (u : Core) : Vector LoopLevel 4 := u.loops.toList.getD u.ctl.tlevel.toNat (Vector.replicate 4 {})

def loopImage (l : LoopLevel) : List Byte := w8 l.start ++ w8 l.stop ++ w8 l.remaining ++ bytesOf 8 (if l.active then 1 else 0)

def idxImage (x : IdxReg) : List Byte :=
  (x.ent.toList.map fun e => bytesOf 4 e.toNat).flatten ++ bytesOf 4 x.cnt ++ bytesOf 4 x.bnd.toNat ++ zeros 8

def subImage : Option SubRec → List Byte
  | none => zeros 32
  | some r => w8 r.base ++ bytesOf 4 r.len ++ bytesOf 4 r.next ++ bytesOf 16 r.ring.toNat

/-- A saved engine command: its captured registers and descriptors. -/
def cmdImage (c : Cmd) : List Byte :=
  bytesOf 4 c.word.toNat ++ bytesOf 4 (if c.attachedTo.isSome && !c.landed then 1 else 0) ++ bytesOf 8 c.num ++ w8 c.r0 ++ w8 c.r1 ++ w8 c.r2
    ++ bytesOf 16 c.d0.toNat ++ bytesOf 16 c.d1.toNat ++ bytesOf 16 c.d2.toNat ++ zeros 40

def insertSeq (c : Cmd) : List Cmd → List Cmd
  | [] => [c]
  | x :: r => if c.seq < x.seq then c :: x :: r else x :: insertSeq c r

/-- Commands not yet started or not completed, in program order. -/
def Core.savedCmds (u : Core) : List Cmd := u.cmdsAll.foldl (fun l c => insertSeq c l) []

/-- Pad to a length. -/
def padTo (n : Nat) (l : List Byte) : List Byte := l ++ zeros (n - l.length)

/-- The next push number of a subscription (07 R148). -/
def State.nextPush (s : State) (rank slot : Nat) (r : SubRec) : SubRec :=
  match s.dies.findSome? fun d => d.2.subs.find? fun h => decide (h.rank = rank) && decide (h.slot = slot) with
  | some h => { r with next := h.count }
  | none => r

/-- The bytes of an object from 0x008 on. -/
def State.unitImage (s : State) (rank : Nat) (k : Park) (outst : Nat) : List Byte :=
  let u := s.unitAt rank
  let step := if u.unit.isStep then u.unit.sweepPtr else 0#64
  bytesOf 4 k.key ++ bytesOf 4 k.rights ++ bytesOf 4 outst ++ bytesOf 4 u.objSize ++ w8 k.waiton ++ w8 k.waitval ++ w8 k.pc
    ++ w8 u.dict.ptr ++ bytesOf 2 u.dict.count ++ zeros 6 ++ bytesOf 8 u.cpe.issued ++ bytesOf 8 u.mat.issued ++ bytesOf 8 u.vec.issued
    ++ bytesOf 4 u.ctl.whw ++ bytesOf 4 u.ctl.lkeep.toNat ++ w8 (u.unit.ckpt.getD 0#64) ++ zeros 8 ++ bytesOf 4 u.unit.sptop
    ++ bytesOf 4 (if u.unit.isStep then u.unit.stepNo else 0) ++ w8 step ++ zeros 128
    ++ (u.regs.toList.map w8).flatten ++ u.crImage ++ (u.tds.toList.map fun t => bytesOf 16 t.toNat).flatten
    ++ (u.xs.toList.map idxImage).flatten ++ (u.bank.toList.map loopImage).flatten
    ++ ([0, 1, 2, 3].map fun i => subImage ((alGet i u.unit.subs).map (s.nextPush rank i))).flatten ++ bytesOf 128 (if u.codebook.valid then 1 else 0)
    ++ padTo 6144 ((u.savedCmds.take 48).map cmdImage).flatten ++ (u.codebook.ent.toList.map fun e => bytesOf 4 e.toNat).flatten
    ++ zeros 1024 ++ padTo (128 * ((u.ctl.whw + 127) / 128)) (Memory.readZero s.mem (wbKey rank 0) u.ctl.whw)
    ++ Memory.readZero s.mem (localKey rank 0) u.ctl.lkeep.toNat

/-- Remember what the object's layout has no field for (log 29). -/
def State.rememberPark (s : State) (ctx rank : Nat) (p : Word) (k : Park) : State :=
  let u := s.unitAt rank
  let x : Parked := { ctx := ctx, ptr := p, dst := k.dst, sweep := if u.unit.isStep then u.unit.sweep else 0,
                      uid := u.unit.uid, bound := if u.heldFor.isSome then some rank else none,
                      fence := u.unit.fence,
                      faults := u.faults.filter fun f => !f.replayable,
                      cmds := (u.savedCmds.take 48).map fun c => (c.word, c.num, c.idx, c.pos) }
  { s with parked := x :: s.parked.filter fun y => !(decide (y.ctx = ctx) && decide (y.ptr = p)) }

def State.parkedInfo (s : State) (ctx : Nat) (p : Word) : Option Parked := s.parked.find? fun y => decide (y.ctx = ctx) && decide (y.ptr = p)
def State.forgetPark (s : State) (ctx : Nat) (p : Word) : State :=
  { s with parked := s.parked.filter fun y => !(decide (y.ctx = ctx) && decide (y.ptr = p)) }

/-- Write a unit into an object that has passed its checks: WRITING, the image, PARKED; the version it is parked at. -/
def State.writeUnit (s : State) (rank : Nat) (p : Word) (k : Park) (outst : Nat) : Nat × State :=
  let u := s.unitAt rank
  let ctx := u.unit.ctx
  let die := dieOf rank
  match s.cstate die ctx p with
  | (.error _, s1) => (0, s1)
  | (.ok c, s1) =>
    let c1 := c.to sWRITING
    let s2 := s1.putCState die ctx p c1
    let s3 := (s2.ctxWrite die ctx (p.toNat + 8) (s2.unitImage rank k outst)).2
    let c2 : CState := { c1.to sPARKED with hdie := die, cause := k.cause, cls := classOf rank, layout := 1, prio := u.unit.prio }
    (c2.version, (s3.putCState die ctx p c2).rememberPark ctx rank p k)

/-! ## The continuation pool (R201) -/

inductive PopRes where
  | ok (p : Word) (s : State)
  | none (s : State)
  | bad (cause : Nat) (p : Word) (s : State)

/-- The state checks on an object a unit is to be written into (Table 60, R217). -/
def writableState (c : CState) (own : Bool) (outst : Nat) : Option Nat :=
  if c.state = sDISCARDED ∧ outst ≠ 0 then some cCONT_INFLIGHT
  else if c.state = sFREE ∨ c.state = sDISCARDED ∨ (own = true ∧ c.state = sRUNNING) then none else some cCONT_STATE

/-- Take an object for an image of n bytes from the pool of a context. One that turns out unusable is dropped from the pool; where
its NEXT cannot be read, what the head then names is a free value (log 138: R201 says that the object is dropped, and nothing of
how the one below it is found). -/
def State.popPool (s : State) (die ctx n : Nat) : PopRes :=
  match s.ctx? ctx with
  | none => .none s
  | some x =>
    if x.osize < n then .none s
    else match s.ctxReadNat die ctx x.pool.toNat 16 with
      | (.error c, s1) => .bad c x.pool s1
      | (.ok head, s1) =>
        let p := BitVec.ofNat 64 (head % 2 ^ 64)
        if p = 0#64 then .none s1
        else
          let drop := fun (s : State) (next : Nat) => (s.ctxWrite die ctx x.pool.toNat (bytesOf 8 next ++ bytesOf 8 (head / 2 ^ 64 + 1))).2
          match s1.ctxReadNat die ctx (p.toNat + 0x68) 8 with
          | (.error c, s2) => .bad c p (drop s2 (Config.lostNext s2.tick).toNat)
          | (.ok next, s2) =>
            let s3 := drop s2 next
            match s3.checkAccess die ctx p n .store with
            | (some (c, _), s4) => .bad c p s4
            | (none, s4) => match s4.cstate die ctx p with
              | (.error c, s5) => .bad c p s5
              | (.ok c, s5) => match writableState c false (s5.outst die ctx p) with
                | some f => .bad f p s5
                | none => .ok p s5

/-- Push an object on the pool. -/
def State.pushPool (s : State) (die ctx : Nat) (p : Word) : State :=
  match s.ctx? ctx with
  | none => s
  | some x => match s.ctxReadNat die ctx x.pool.toNat 16 with
    | (.error _, s1) => s1
    | (.ok head, s1) =>
      let s2 := (s1.ctxWrite die ctx (p.toNat + 0x68) (bytesOf 8 (head % 2 ^ 64))).2
      (s2.ctxWrite die ctx x.pool.toNat (w8 p ++ bytesOf 8 (head / 2 ^ 64 + 1))).2

/-- The origin of a unit that ends or suspends into another object goes from RUNNING to FREE (R211): its new CSTATE. -/
def State.freeOrigin (s : State) (rank : Nat) : Option CState × State :=
  let u := (s.unitAt rank).unit
  match u.origin with
  | none => (none, s)
  | some (p, v) => s.moveObj (dieOf rank) u.ctx p sRUNNING (some v) sFREE

/-- The origin of a unit that ends goes to FREE, and back to the pool when POOL = 1 (R207). -/
def State.returnOrigin (s : State) (rank : Nat) : State :=
  let u := (s.unitAt rank).unit
  match u.origin, s.freeOrigin rank with
  | some (p, _), (some c, s1) => if c.pool then s1.pushPool (dieOf rank) u.ctx p else s1
  | _, (_, s1) => s1

/-- The origin of a unit that is restarted or rolled back goes from RUNNING to DISCARDED (14 R258, 24 R391). -/
def State.discardOrigin (s : State) (rank : Nat) : State :=
  let u := (s.unitAt rank).unit
  match u.origin with
  | none => s
  | some (p, v) => (s.moveObj (dieOf rank) u.ctx p sRUNNING (some v) sDISCARDED).2

/-! ## Walks served at once -/

/-- One walk, done whole (04 R80–R86): a leaf enters the die's cache, a fault waits for the requester. -/
def State.serveWalk (s : State) (die : Nat) (w : Walk) : State :=
  match s.ctx? w.ctx with
  | none => s
  | some c =>
    let failed := fun (s : State) (x : Nat) => s.modDie die fun d => { d with walks := d.walks ++ [{ w with ended := some x }] }
    match s.walkFrom die w.ctx (w.region * 65536) 4 c.root with
    | (.ok e, s1) => match s1.setLeafBits die w.ctx e.leafPa 32 with
      | (none, s2) => s2.modDie die fun d => { d with tlb := addT 8192 d.tlb e }
      | (some x, s2) => failed s2 x
    | (.error x, s1) => failed s1 x

/-- Serve every miss of a die (when a suspension waits for its commands). -/
def State.serveMisses (s : State) (die : Nat) : State :=
  let todo := (s.die die).missq ++ (s.die die).walks.filter fun w => w.ended.isNone
  if todo.isEmpty then s
  else
    let s1 := s.modDie die fun d => { d with missq := [], walks := d.walks.filter fun w => w.ended.isSome }
    todo.foldl (fun s w => (s.serveWalk die w).dieEvent die 10 1) s1

/-! ## Engine work at a suspension (R214) -/

/-- Run a started copy as far as it goes. -/
def State.runCopy (s : State) (rank num : Nat) : Nat → State
  | 0 => s
  | f + 1 => match s.cmd? rank .cpe num with
    | none => s
    | some c =>
      if c.st ≠ .running then s
      else if c.beat < c.beats.length then State.runCopy ((s.cpeBeat rank num c.beat).serveMisses (dieOf rank)) rank num f
      else if c.promoteDue then State.runCopy ((s.promoteStep rank c).serveMisses (dieOf rank)) rank num f
      else State.runCopy ((s.finishCpe rank c).serveMisses (dieOf rank)) rank num f

/-- A copy whose memory operand lies in the core's own LOCAL memory. -/
def Cmd.ownTarget (c : Cmd) (rank : Nat) : Bool := decide (spaceOf c.r0 = 2) && decide (resolveRank rank 2 (rankField c.r0) = rank)

/-- A started copy whose remaining writes leave the core's own memories (R214). A PROMOTE whose descriptor lies in the core's
own LOCAL memory makes its last access there with its result, and so runs to its end. -/
def Cmd.goesOut (c : Cmd) (rank : Nat) : Bool :=
  c.st == .running && (c.dir == .outward || decide (cpeFn c.word = 9)) && !c.ownTarget rank

/-- A promotion. -/
def Cmd.isPromote (c : Cmd) : Bool := decide (cpeFn c.word = 9)

/-- Resolve an operand of a copy that leaves its unit; a miss is served at once. -/
def State.resolveNow (s : State) (rank : Nat) (p : Word) (n : Nat) (kind : AccKind) : RRes :=
  match s.resolve rank true p n kind with
  | .miss s1 => (s1.serveMisses (dieOf rank)).resolve rank true p n kind
  | r => r

/-- The writes of an outgoing copy with their places so far; or its fault, with address and row; or none, when a point holds
one of its reads. -/
abbrev OutRes := Except (Option (Nat × Word × Nat)) (List (Loc × Word × List Byte)) × State

/-- One more write of an outgoing copy. -/
def State.outWrite (s : State) (rank : Nat) (x : Word) (bytes : List Byte) (row : Nat) (l : List (Loc × Word × List Byte)) : OutRes :=
  match s.resolveNow rank x bytes.length .store with
  | .ok loc s1 => (.ok (l ++ [(loc, x, bytes)]), s1)
  | .miss s1 => (.error none, s1)
  | .fault cs s1 => (.error (some (cs, x, row)), s1)

/-- The block of a promotion's page at a beat. -/
def State.outPage (s : State) (rank : Nat) (c : Cmd) (b : Beat) (p : Word) (l : List (Loc × Word × List Byte)) : OutRes :=
  if b.pos % 512 ≠ 0 then (.ok l, s)
  else
    let s1 := match s.resolveNow rank p 512 .load with
      | .ok _ s1 => s1
      | .miss s1 => s1
      | .fault _ s1 => s1
    match s1.cpeReadAll rank c.num p 512 with
    | .ok (bs, s2) => s2.outWrite rank (c.promoteDst + BitVec.ofNat 64 b.pos) bs 0 l
    | .error (.fault cs a s2 _) => (.error (some (cs, a, 0)), s2)
    | .error (.wait s2) => (.error none, s2)
    | .error (.moved s2) => (.error none, s2)

/-- The part of a unit of an outward copy. -/
def State.outPart (s : State) (rank : Nat) (c : Cmd) (b : Beat) (p x : Word) (n : Nat) (l : List (Loc × Word × List Byte)) : OutRes :=
  let ps := c.partPos b p x n
  match ps.find? fun k => (s.unitAt rank).localBad ((tileOf c.d1).imgOff k) 1 with
  | some k => (.error (some (cUNCORR_READ, mkPtr 2 rank ((tileOf c.d1).imgOff k / 32 * 32), c.statusAt b k)), s)
  | none => s.outWrite rank x (s.imgBytes rank c ps) (c.statusAt b (ps.headD 0)) l

/-- Units of transfer that a copy has not moved. -/
def Cmd.unmoved (c : Cmd) : List Nat := (List.range c.beats.length).filter fun i => decide (c.beat ≤ i) && !c.early.contains i

/-- The remaining writes of an outgoing copy. -/
def State.outWrites (s : State) (rank : Nat) (c : Cmd) : OutRes :=
  (c.unmoved.map fun i => c.beats.getD i default).foldl (fun (a : OutRes) b =>
    match a.1 with
    | .error _ => a
    | .ok l => match b.ptr with
      | none => (.error (some (cADDR_RANGE, c.r0, c.statusAt b b.pos)), a.2)
      | some p =>
        if c.isPromote then a.2.outPage rank c b p l
        else (b.parts p).foldl (fun (a : OutRes) x =>
          match a.1 with
          | .error _ => a
          | .ok l => a.2.outPart rank c b p x.1 x.2 l) (.ok l, a.2)) (.ok [], s)

/-- Where a promotion's last steps go: its block-table entry and its result. -/
def State.outPromote (s : State) (rank : Nat) (c : Cmd) : Except (Option (Nat × Word × Nat)) (Loc × Loc × Word) × State :=
  let ent := c.aux.getD 2 0#64
  match s.resolveNow rank ent 4 .atomic with
  | .miss s1 => (.error none, s1)
  | .fault x s1 => (.error (some (x, ent, 0)), s1)
  | .ok le s1 => match ptrAdd c.r0 44 with
    | none => (.error (some (cADDR_RANGE, c.r0, 0)), s1)
    | some p => match s1.resolveNow rank p 4 .store with
      | .miss s2 => (.error none, s2)
      | .fault x s2 => (.error (some (x, p, 0)), s2)
      | .ok lr s2 => (.ok (le, lr, p), s2)

/-- An outgoing command with all that is left of it. -/
def State.outgoingOf (s : State) (rank : Nat) (c : Cmd) (obj : Word) : Except (Option (Nat × Word × Nat)) Outgoing × State :=
  let u := (s.unitAt rank).unit
  let o : Outgoing := { ctx := u.ctx, cmd := c, obj := obj, writes := [], uid := u.uid,
                        step := if u.isStep then some (u.sweep, u.stepNo) else none }
  match s.outWrites rank c with
  | (.error e, s1) => (.error e, s1)
  | (.ok ws, s1) =>
    if c.isPromote then match s1.outPromote rank c with
      | (.error e, s2) => (.error e, s2)
      | (.ok x, s2) => (.ok { o with writes := ws, ent := some x.1, res := some x.2 }, s2)
    else (.ok { o with writes := ws }, s1)

/-- Step 2 of R214: started commands make their last access to LOCAL memory and the weight buffer; a met pair commits; a
half that still waits for its partner leaves the rendezvous. -/
def State.settleEngines (s : State) (rank : Nat) : State :=
  let u := s.unitAt rank
  let s1 := (u.cpe.queue.filter fun c => c.st = .running).foldl (fun s c =>
    if c.goesOut rank then
      match s.outgoingOf rank c 0#64 with
      | (.ok _, s1) => s1
      | (.error none, s1) => s1
      | (.error (some (cs, a, r)), s1) => s1.engFault rank .cpe c cs (cs != cUNCORR_READ && cs != cADDR_RANGE) (causeStatusCpe (cpeFn c.word) r) a
    else s.runCopy rank c.num (4 * c.beats.length + 2200)) s
  let s2 := match u.half with
    | some c =>
      if c.met then
        let p := partner rank
        let s2 := match (s1.unitAt p).half with
          | some b => (s1.setCmd rank .mat { c with st := .running }).setCmd p .mat { b with st := .running }
          | none => s1
        s2.pairCommit rank
      else s1.leavePair rank
    | none => s1
  let s3 := ((s2.unitAt rank).mat.queue.filter fun c => c.st = .running).foldl (fun s c => s.finishMat rank c) s2
  ((s3.unitAt rank).vec.queue.filter fun c => c.st = .running).foldl (fun s c => s.finishVec rank c) s3

/-- Every started command has made its last access to the core's memories (step 2 of R214). -/
def State.settledEngines (s : State) (rank : Nat) : Bool :=
  (s.unitAt rank).cmdsAll.all fun c => c.st != .running || (c.goesOut rank && match (s.outgoingOf rank c 0#64).1 with
    | .ok _ => true
    | .error _ => false)

/-- Step 3 of R214: the outgoing commands leave the queue with their writes. -/
def State.sendOutgoing (s : State) (rank : Nat) (obj : Word) : Nat × State :=
  ((s.unitAt rank).cpe.queue.filter fun c => c.goesOut rank).foldl (fun (a : Nat × State) c =>
    match a.2.outgoingOf rank c obj with
    | (.ok o, s1) => (a.1 + 1, (s1.modUnit rank fun u => { u with outgoing := u.outgoing ++ [o] }).dropCmd rank .cpe c.num)
    | (.error _, s1) => (a.1, s1)) (0, s)

/-- OUTST of an object falls by one; an object parked at its home for it becomes ready at 0 (Table 57). -/
def State.outstDone (s : State) (ctx : Nat) (obj : Word) : State :=
  let n := s.outst headDie ctx obj
  let s1 := (s.ctxWrite headDie ctx (obj.toNat + 0x10) (bytesOf 4 (n - 1))).2
  if 1 < n then s1
  else
    let ready := (s1.dies.map fun d => d.2.homeWait.filter fun o => decide (o.ctx = ctx) && decide (o.ptr = obj)).flatten
    let s2 := s1.mapDies fun d => { d with homeWait := d.homeWait.filter fun o => !(decide (o.ctx = ctx) && decide (o.ptr = obj)) }
    ready.foldl (fun s o => s.enqueueObj o) s2

/-- A point holds an access for now. -/
def State.holdsAt (s : State) (rank : Nat) (loc : Loc) (n : Nat) : Bool := s.cutOff rank loc || match loc with
  | .shared die off => (s.die die).holdsShared die off n
  | .global _ attr => s.keyBusy attr.key
  | _ => false

/-- A write of an outgoing command performs; what it meets is reported, since its unit has left. -/
def State.outStore (s : State) (rank : Nat) (o : Outgoing) (loc : Loc) (p : Word) (bytes : List Byte) : State :=
  match s.gateFor rank loc bytes.length (.out o.obj o.cmd.num) with
  | .wait s1 => s1
  | .fail c s1 => s1.reportMem o.ctx (some (rank, 0)) c p.toNat bytes.length
  | .go s => match s.storeAt { cpeWriter rank o.ctx with unit := none, step := o.step } rank o.ctx loc loc.alloc bytes with
  | .ok _ s1 => s1.l1Write rank loc bytes
  | .bad c s1 => if c = cUNDO_OVERFLOW then s1 else s1.reportMem o.ctx (some (rank, 0)) c p.toNat bytes.length
  | .hold => s

/-- The result of an outgoing promotion: its Headgate step (07 R144), made for the context that issued it. -/
def State.outResult (s : State) (rank : Nat) (o : Outgoing) (ent : Loc) : Option Nat × State :=
  let known := (o.cmd.aux.getD 6 0#64).toNat
  if known ≠ 0 then (some known, s)
  else match s.promoteStream o.ctx o.cmd, ent with
    | none, _ => (some 3, s.giveBack o.ctx [o.cmd])
    | some t, .global pa attr =>
      match s.promoteCas rank o.ctx { cpeWriter rank o.ctx with unit := none, step := o.step } o.cmd t pa attr with
      | (some r, s1) => (some r, s1)
      | (none, s1) => (none, (s1.giveBack o.ctx [o.cmd]).reportMem o.ctx (some (rank, 0)) cUNCORR_READ (o.cmd.aux.getD 2 0#64).toNat 4)
    | some _, _ => (some 2, s.giveBack o.ctx [o.cmd])

/-- An outgoing command completes: its writes perform, a promotion is decided and its result written, and its object's OUTST
falls. -/
def State.finishOutgoing (s : State) (rank num : Nat) : State :=
  match (s.unitAt rank).outgoing.find? fun o => o.cmd.num = num with
  | none => s
  | some o =>
    let held := o.writes.any (fun w => s.holdsAt rank w.1 w.2.2.length)
      || (match o.ent with | some l => s.holdsAt rank l 4 | none => false)
      || (match o.res with | some x => s.holdsAt rank x.1 4 | none => false)
    let places : List (Loc × Nat) := (o.writes.map fun w => (w.1, w.2.2.length)) ++ o.ent.toList.map (fun l => (l, 4)) ++ o.res.toList.map fun x => (x.1, 4)
    let far := places.filter fun x => match s.gateFor rank x.1 x.2 (.out o.obj num) with
      | .wait _ => true
      | _ => false
    if held then s
    else if !far.isEmpty then far.foldl (fun s x => s.askFor rank o.ctx x.1 x.2 (.out o.obj num)) s
    else
      let s1 := s.modUnit rank fun u => { u with outgoing := u.outgoing.filter fun x => !(decide (x.cmd.num = num) && decide (x.obj = o.obj)) }
      let s2 := o.writes.foldl (fun s w => s.outStore rank o w.1 w.2.1 w.2.2) s1
      let s3 := match o.ent, o.res with
        | some l, some x =>
          let r := s2.outResult rank o l
          match r.1 with
          | some v => r.2.outStore rank o x.1 x.2 (bytesOf 4 v)
          | none => r.2
        | _, _ => s2
      (s3.gateDone rank (.out o.obj num)).outstDone o.ctx o.obj

/-- Outgoing commands of a kind run to their end (14 R258, 24 R391); while a point holds one of them, so is what asked for it. -/
def State.finishOuts (s : State) (p : Outgoing → Bool) : State :=
  let outs := fun (s : State) => (s.units.map fun u => (u.2.outgoing.filter p).map fun o => (u.1, o.cmd.num)).flatten
  let once := fun (s : State) => (outs s).foldl (fun s o => s.finishOutgoing o.1 o.2) s
  let t := once (once s)
  if (outs t).isEmpty then t else t.hold

/-! ## The unit leaves its core -/

/-- Watchpoints of a unit leave the slices (22 R358). -/
def State.disarmAll (s : State) (rank : Nat) : State :=
  s.mapDies fun d => { d with slices := d.slices.filter fun w => w.rank ≠ rank }

/-- The requests of a unit that leaves are no longer waited for; those of its outgoing copies are. -/
def State.dropRequests (s : State) (rank : Nat) : State :=
  { s with fab := { s.fab with outstanding := s.fab.outstanding.filter fun q => q.rank != rank || (match q.use with
    | .out _ _ => true
    | _ => false) } }

/-- The core is free of its unit: commands, with the pages its promotions own, stores, pending faults and watchpoints go with
it. What its timeline counters have issued stands until the next unit begins (05 R106). -/
def State.clearUnit (s : State) (rank : Nat) : State :=
  let s := s.dropRequests rank
  let u := s.unitAt rank
  let s := s.noteDone rank u.activeFrom
  ((((s.giveBack u.unit.ctx u.cpe.queue).closeSubs rank).disarmAll rank).modUnit rank fun u =>
    { u with cpe := { u.cpe with queue := [] }, mat := { u.mat with queue := [] }, vec := { u.vec with queue := [] }, stores := [], loads := [], pend := none, faults := [], sel := none, stall := .none, starting := none,
             ctl := { u.ctl with prq := false },
             unit := { ctx := u.unit.ctx } })

/-- Every command of a unit of an identity numbered v or below on an engine has completed (10 R204). -/
def State.fenceMet (s : State) (f : Option (Nat × EngId × Nat)) : Bool :=
  match f with
  | none => true
  | some (uid, e, v) =>
    (s.units.all fun (x : Nat × Core) => !(x.2.unit.running && decide (x.2.unit.uid = uid)) || decide (v ≤ (x.2.engine e).completed))
    && (s.parked.all fun p => !decide (p.uid = uid) || p.cmds.all fun c => !decide (engOf c.1 = e) || decide (v < c.2.1))
    && (s.units.all fun (x : Nat × Core) => x.2.outgoing.all fun o => !decide (o.uid = uid) || decide (e ≠ .cpe) || decide (v < o.cmd.num))

/-- The record of an object parked by a suspension. -/
def State.parkedRec (s : State) (rank : Nat) (p : Word) (version : Nat) (waitval : Nat := 0) : ObjRec :=
  let u := s.unitAt rank
  { ctx := u.unit.ctx, ptr := p, version := version, running := false, cls := classOf rank, prio := u.unit.prio, hdie := dieOf rank,
    boundTo := if u.heldFor.isSome then some rank else none, waitval := waitval }

/-- A suspension writes its unit into an object that has passed every check, and the unit leaves its core. -/
def State.suspendInto (s : State) (rank : Nat) (p : Word) (k : Park) : ObjRec × State :=
  let own := match (s.unitAt rank).unit.origin with
    | some (q, _) => q == p
    | none => false
  let s0 := (if own then s else (s.freeOrigin rank).2).modUnit rank fun u => u.countEvent 13 1
  let o := s0.sendOutgoing rank p
  let r := o.2.writeUnit rank p k o.1
  let rec_ := r.2.parkedRec rank p r.1 k.waitval.toNat
  let ctx := (r.2.unitAt rank).unit.ctx
  let s1 := r.2.modCtx ctx fun c => if c.ckptOwner = some rank then { c with ckptOwner := none } else c
  (rec_, (s1.clearUnit rank).dieEvent (dieOf rank) 5 1)

/-! ## Resuming (R215) -/

def wordAt (bs : List Byte) (off : Nat) : Word := BitVec.ofNat 64 (natOf ((bs.drop off).take 8))
def natAt (bs : List Byte) (off n : Nat) : Nat := natOf ((bs.drop off).take n)

/-- Bits 26:16 of TCAUSE are reserved: they read as zero (22 R356, 00 R9). -/
def tcauseMask : Word := ~~~(0x7FF0000#64)

/-- WPCTLn with EN and LEN (22 Table 114). -/
def wpctlMask : Word := 0x800000000000FFFF#64

/-- The control registers of an image; reserved bits stay zero (00 R9), as do bits 1:0 of TVEC (01 R10; log 122). -/
def Core.loadCr (u : Core) (b : List Byte) : Core :=
  let w := fun (k : Nat) => wordAt b (8 * k)
  { u with
    ssp := w 11
    ctl := { u.ctl with
      tlevel := BitVec.ofNat 2 (min 2 (natAt b 0 8 % 4)), dzt := bitAt (natAt b 0 8) 8, tcause1 := w 1 &&& tcauseMask, tcause2 := w 2 &&& tcauseMask, tret1 := w 3, tret2 := w 4,
      tval1 := w 5, tval2 := w 6, tscr1 := w 7, tscr2 := w 8, tvec := w 9 &&& ~~~3#64, spinl := natAt b 80 8 % 2 ^ 21, stgno := w 12, stgnext := w 13,
      stgprev := w 14, evsel := w 15, wpaddr := Vector.ofFn fun i => w (16 + i.val), wpctl := Vector.ofFn fun i => w (20 + i.val) &&& wpctlMask,
      evcnt := Vector.ofFn fun i => w (24 + i.val), prq := false } }

def loopOf (b : List Byte) : LoopLevel :=
  { start := wordAt b 0 &&& ~~~3#64, stop := wordAt b 8 &&& ~~~3#64, remaining := wordAt b 16, active := decide (natAt b 24 8 ≠ 0) }

def idxOf (b : List Byte) : IdxReg :=
  { ent := Vector.ofFn fun i => BitVec.ofNat 32 (natAt b (4 * i.val) 4), cnt := natAt b 256 4, bnd := BitVec.ofNat 32 (natAt b 260 4) }

/-- A saved command of an image, with its flag; reserved bits of its descriptors stay zero (00 R9). -/
def cmdOf (b : List Byte) (extra : List (W32 × Nat × Nat × Word)) : Cmd × Bool :=
  let w : W32 := BitVec.ofNat 32 (natAt b 0 4)
  let num := natAt b 8 8
  let x := (extra.find? fun e => decide (e.1 = w) && decide (e.2.1 = num)).map (·.2.2)
  ({ word := w, num := num, seq := 0, idx := (x.map (·.1)).getD 0, pos := (x.map (·.2)).getD 0#64, r0 := wordAt b 16, r1 := wordAt b 24,
     r2 := wordAt b 32, d0 := tileImageOf (natAt b 40 16), d1 := tileImageOf (natAt b 56 16), d2 := tileImageOf (natAt b 72 16),
     landed := true }, natAt b 4 4 != 0)

/-- Issue one saved command again, under its number (R215). -/
def Core.reissue (u : Core) (c : Cmd) (follows : Bool) : Core :=
  let e := engOf c.word
  let c1 := { c with seq := u.seq, landed := !follows,
                     attachedTo := if follows then (u.cpe.queue.getLast?).map (·.num) else none }
  let u1 := if follows then { u with cpe := { u.cpe with queue := u.cpe.queue.mapIdx fun i x =>
    if i + 1 = u.cpe.queue.length then { x with attached := c.word } else x } } else u
  ({ u1 with seq := u.seq + 1 }).modEngine e fun q => { q with queue := q.queue ++ [c1] }

/-- Saved commands of an image: entries with a nonzero word, in order. -/
def savedOf (b : List Byte) (extra : List (W32 × Nat × Nat × Word)) : List (Cmd × Bool) :=
  ((List.range 48).map fun i => cmdOf ((b.drop (0x1000 + 128 * i)).take 128) extra).filter fun x => x.1.word ≠ 0#32

/-- The registers, descriptors and engine state of a unit as the first 0x3000 bytes of an object record them. -/
def Core.loadImage (u : Core) (b : List Byte) (x : Option Parked) : Core :=
  let u1 := u.loadCr ((b.drop 0x300).take 256)
  let extra := (x.map (·.cmds)).getD []
  let cmds := savedOf b extra
  let u2 : Core := { u1 with
    regs := Vector.ofFn fun i => if i.val = 0 then 0#64 else wordAt b (0x100 + 8 * i.val)
    pc := wordAt b 0x28 &&& ~~~1#64
    tds := Vector.ofFn fun i => tileImageOf (natAt b (0x400 + 16 * i.val) 16)
    xs := Vector.ofFn fun i => idxOf ((b.drop (0x600 + 272 * i.val)).take 272)
    loops := (Vector.replicate 3 (Vector.replicate 4 ({} : LoopLevel))).set! u1.ctl.tlevel.toNat
      (Vector.ofFn fun i => loopOf ((b.drop (0xE80 + 32 * i.val)).take 32))
    codebook := { valid := decide (natAt b 0xF80 1 ≠ 0), ent := Vector.ofFn fun i => BitVec.ofNat 32 (natAt b (0x2800 + 4 * i.val) 4) }
    cpe := { issued := natAt b 0x40 8 }, mat := { issued := natAt b 0x48 8 }, vec := { issued := natAt b 0x50 8 }
    cmds := natAt b 0x40 8 + natAt b 0x48 8 + natAt b 0x50 8
    ctl := { u1.ctl with whw := natAt b 0x58 4, lkeep := BitVec.ofNat 32 (natAt b 0x5C 4) } }
  cmds.foldl (fun u c => u.reissue c.1 c.2) u2

end Sys2Proof.Machine
end

