-- ==== Sys2Proof/Machine/SyncEng.lean ====
section
/-!
DEFINITION. The synchronisation engine of a die (10 R191–R200): variables, storage and spills, signals, arrivals, parks,
and the signals the part makes of its own accord (14 R411).
-/
namespace Sys2Proof.Machine

/-! ## Storage (R191, R192) -/

/-- Bytes an entry takes: 32, and 16 for each parked waiter. -/
def SyncVar.size (v : SyncVar) : Nat := 32 + 16 * v.waiters.length

def sramBytes : Nat := 2 ^ 22

/-- Bytes of an engine's SRAM in use: entries, and 16 for each waiter on a sluice counter. -/
def Die.sramUsed (d : Die) : Nat :=
  d.slTime.foldl (fun n t => n + 16 * t.waiters.length) ((d.syncs.filter fun v => !v.spilled).foldl (fun n v => n + v.size) 0)

/-- Bytes of a context's overflow area in use, over all dies. -/
def State.ovfUsed (s : State) (ctx : Nat) : Nat :=
  s.dies.foldl (fun n d => (d.2.syncs.filter fun v => v.spilled && decide (v.ctx = ctx)).foldl (fun n v => n + v.size) n) 0

def State.ovfRoom (s : State) (ctx n : Nat) : Bool :=
  match s.ctx? ctx with
  | some c => decide (s.ovfUsed ctx + n ≤ c.ovfsz)
  | none => false

/-- Spill the least recently used entries until n bytes are free, as far as their owners' overflow areas take them. -/
def State.spill (s : State) (die n : Nat) : Nat → State
  | 0 => s
  | f + 1 =>
    if (s.die die).sramUsed + n ≤ sramBytes then s
    else match (s.die die).syncs.find? fun v => !v.spilled && s.ovfRoom v.ctx v.size with
      | none => s
      | some v => State.spill ((s.modDie die fun d => { d with syncs := d.syncs.map fun x =>
          if x.ctx = v.ctx ∧ x.off = v.off then { x with spilled := true } else x }).dieEvent die 11 1) die n f

/-- Room for n more bytes for a context: none is SYNC_FULL (R192). -/
def State.syncRoom (s : State) (die ctx n : Nat) : Option State :=
  if (s.die die).sramUsed + n ≤ sramBytes then some s
  else if s.ovfRoom ctx n then some (s.spill die n (s.die die).syncs.length) else none

def State.syncVar (s : State) (die ctx off : Nat) : Option SyncVar :=
  (s.die die).syncs.find? fun v => decide (v.ctx = ctx) && decide (v.off = off)

/-- Store a variable as the most recently used entry. -/
def State.putVar (s : State) (die : Nat) (v : SyncVar) : State :=
  s.modDie die fun d => { d with syncs := (d.syncs.filter fun x => !(decide (x.ctx = v.ctx) && decide (x.off = v.off))) ++ [{ v with spilled := false }] }

/-- A word uses an entry: a spilled one is brought back. -/
def State.useVar (s : State) (die : Nat) (v : SyncVar) : State :=
  if v.spilled then (s.spill die v.size (s.die die).syncs.length).putVar die v else s.putVar die v

/-! ## Operations (R196, R197) -/

/-- A counter's arithmetic saturates. -/
def sat64 (n : Int) : Int := max (-(2 ^ 63)) (min (2 ^ 63 - 1) n)

/-- Every waiter of a variable becomes ready, in the order they parked. -/
def State.releaseAll (s : State) (v : SyncVar) : State := v.waiters.foldl (fun s o => s.enqueueObj o) s

/-- Signal a counter by an amount: the old value. -/
def State.signalVar (s : State) (die : Nat) (v : SyncVar) (old amount : Int) : State :=
  let new := sat64 (old - amount)
  if 0 < old ∧ new ≤ 0 then (s.useVar die { v with kind := .counter new, waiters := [] }).releaseAll v
  else s.useVar die { v with kind := .counter new }

/-- An arrival at a barrier. -/
def State.arriveBar (s : State) (die : Nat) (v : SyncVar) (target arrived phase : Nat) : State :=
  if arrived + 1 = target then
    (s.useVar die { v with kind := .barrier target 0 ((phase + 1) % 2 ^ 32), waiters := [] }).releaseAll v
  else s.useVar die { v with kind := .barrier target (arrived + 1) phase }

/-- Give a variable a kind: none is SYNC_FULL. -/
def State.initVar (s : State) (die ctx off : Nat) (k : SyncKind) : Option State :=
  match s.syncVar die ctx off with
  | some v => some (s.useVar die { v with kind := k, waiters := [] })
  | none => (s.syncRoom die ctx 32).map fun s => s.putVar die { ctx := ctx, off := off, kind := k }

/-- Park an object on a variable. -/
def State.parkOn (s : State) (die : Nat) (v : SyncVar) (o : ObjRec) : State := s.useVar die { v with waiters := v.waiters ++ [o] }

/-! ## Signals of the part itself (14 R411, 24 R379) -/

/-- The part sends a signal by 1 to a counter whose pointer names its die. -/
def State.partSignal (s : State) (ctx : Nat) (p : Word) (trapSig : Bool) : State :=
  s.modDie (rankField p / 64) fun d => { d with syncOps := d.syncOps ++ [{ ctx := ctx, ptr := p, amount := 1, trapSig := trapSig }] }

/-- SYNC_ENGINE_OPERATION: the oldest operation waiting at an engine performs; a signal to no counter is reported with its
SYNC pointer, the kind bits of a SIGNAL field left out (14 R411). -/
def State.syncOperation (s : State) (die : Nat) : State :=
  match (s.die die).syncOps with
  | [] => s
  | o :: r =>
    let s1 := s.modDie die fun d => { d with syncOps := r }
    let off := offOf o.ptr / 16 * 16
    match s1.syncVar die o.ctx off with
    | some v => match v.kind with
      | .counter n => s1.signalVar die v n o.amount
      | .barrier _ _ _ => s1.reportMem o.ctx none cSYNC_KIND (o.ptr.toNat / 16 * 16) 0 (!o.trapSig)
    | none => s1.reportMem o.ctx none cSYNC_KIND (o.ptr.toNat / 16 * 16) 0 (!o.trapSig)

end Sys2Proof.Machine
end

