-- ==== Sys2Proof/Machine/Contain.lean ====
section
/-!
DEFINITION. The trap queue (24 R379–R383), the end and the restart of a unit's step (10 R207, 14 R257, R258), the kill
(24 R384) and the rollback (24 R391–R393).
-/
namespace Sys2Proof.Machine

/-! ## Landing records (R379) -/

/-- Byte 0 of a slot is zero; a slot that cannot be read counts as occupied for the ring (log 33). -/
def State.slotState (s : State) (ctx : Nat) (va : Nat) : Option Bool × State :=
  match s.ctxReadNat headDie ctx va 1 with
  | (.ok v, s1) => (some (v = 0), s1)
  | (.error _, s1) => (none, s1)

/-- The die of this package at which a slot of a trap queue lies, which counts its records (R379, R397); the Headgate's where
the slot cannot be translated (log 33). -/
def State.slotDie (s : State) (ctx va : Nat) : Option Nat :=
  match (s.ctxXlate headDie ctx va .load).1 with
  | .ok (pa, _) => if pkgOf pa = s.fab.pkg then some (homeDie pa) else none
  | .error _ => some headDie

/-- Count an event of a trap queue (24 Table 131). -/
def State.slotEvent (s : State) (ctx va code : Nat) : State :=
  match s.slotDie ctx va with
  | some d => s.dieEvent d code 1
  | none => s

/-- Write a record into a slot: bytes 63:1, then byte 0. -/
def State.putRecord (s : State) (ctx va lost : Nat) (r : List Byte) : State :=
  let r1 := patch r 6 (bytesOf 2 lost)
  let s1 := (s.ctxWrite headDie ctx (va + 1) (r1.drop 1)).2
  (s1.ctxWrite headDie ctx va (r1.take 1)).2.slotEvent ctx va 14

/-- TRAP_RECORD_LAND: the oldest record of a context lands in the slot at the write index, or is lost. -/
def State.landRecord (s : State) (ctx : Nat) : State :=
  match s.ctx? ctx with
  | none => s
  | some c => match c.records with
    | [] => s
    | (r, sig) :: _ =>
      let va := c.tq.toNat + 64 * c.tqw
      match s.slotState ctx va with
      | (some true, s1) =>
        let s2 := (s1.putRecord ctx va c.tqlost r).modCtx ctx fun c => { c with records := c.records.drop 1, tqlost := 0, tqw := (c.tqw + 1) % (c.tqn - 1) }
        if sig && c.tqsig != 0#64 then s2.partSignal ctx c.tqsig true else s2
      | (_, s1) => (s1.modCtx ctx fun c => { c with records := c.records.drop 1, tqlost := min 0xFFFF (c.tqlost + 1) }).slotEvent ctx va 15

/-- The last trap that was not entered, or the cause being reported: packed cause, position of its word, TVAL. -/
structure LastTrap where
  packed : Nat := 0
  pos : Word := 0#64
  tval : Word := 0#64
deriving DecidableEq, Repr

/-- A fatal record (Table 128, KIND 6). -/
def State.fatalRec (s : State) (rank : Option Nat) (cause action : Nat) (l : LastTrap) : List Byte :=
  let c : Ctl := match rank with
    | some r => (s.unitAt r).ctl
    | none => {}
  let unit := match rank with
    | some r => rankWord r
    | none => 0
  recHeader 6 c.tlevel.toNat action cause unit ++ bytesOf 2 l.packed ++ bytesOf 2 (packedCause c.tcause1) ++ bytesOf 2 (packedCause c.tcause2)
    ++ bytesOf 2 0 ++ bytesOf 8 l.pos.toNat ++ bytesOf 8 l.tval.toNat ++ bytesOf 8 c.tret1.toNat ++ bytesOf 8 c.tval1.toNat
    ++ bytesOf 8 c.tret2.toNat ++ bytesOf 8 c.tval2.toNat

/-- Address of the fatal slot N − 1. -/
def Ctx.fatalVa (c : Ctx) : Nat := c.tq.toNat + 64 * (c.tqn - 1)

/-- The fatal slot is occupied. -/
def State.fatalFull (s : State) (ctx : Nat) : Bool × State :=
  match s.ctx? ctx with
  | none => (false, s)
  | some c => match s.slotState ctx c.fatalVa with
    | (some b, s1) => (!b, s1)
    | (none, s1) => (false, s1)

/-- Write a fatal record (R383): false when the slot is occupied. -/
def State.putFatal (s : State) (ctx : Nat) (rank : Option Nat) (cause action : Nat) (l : LastTrap) : Bool × State :=
  match s.ctx? ctx with
  | none => (true, s)
  | some c => match s.fatalFull ctx with
    | (true, s1) => (false, s1)
    | (false, s1) =>
      let s2 := (s1.putRecord ctx c.fatalVa c.tqlost (s1.fatalRec rank cause action l)).modCtx ctx fun c => { c with tqlost := 0 }
      (true, if c.tqsig != 0#64 then s2.partSignal ctx c.tqsig true else s2)

/-! ## Kill (R384) -/

def Work.ctx : Work → Nat
  | .packet p => p.ctx
  | .object o => o.ctx
  | .image g => g.ctx

/-- The completion of a sweep is posted to its record's QUEUE (14 R257), and on the work queue of the packet that admitted it where
that is another (25 R400; DEDUCED, log 79). -/
def State.postSweep (s : State) (w : Sweep) (status : String) : State :=
  let s1 := s.send (.event "COMPLETION" w.queue status [w.id])
  match w.via with
  | some q => if q = w.queue then s1 else s1.send (.event "COMPLETION" q status [w.id])
  | none => s1

/-- A context's sweeps, ready items, waiters, subscriptions, and with `vars` its SYNC variables, are discarded (R384 step 3). -/
def State.discardSched (s : State) (ctx : Nat) (vars : Bool) : State :=
  let mine := s.head.sweeps.filter fun w => w.ctx = ctx
  let s1 := mine.foldl (fun s w => s.postSweep w "KILLED") s
  let ids := mine.map (·.id)
  let keep := fun (i : Item) => decide (i.work.ctx ≠ ctx)
  let groups := (s1.dies.map fun d => (d.2.groups.filter fun g => g.ctx = ctx).map (·.id)).flatten
  let s2 := s1.mapDies fun d => { d with
    sweeps := d.sweeps.filter fun x => !(decide (x.id ∈ ids)), groups := d.groups.filter fun g => g.ctx ≠ ctx,
    ready := d.ready.filter keep, memReady := d.memReady.filter keep, priv := d.priv.filter fun p => keep p.2,
    homeWait := d.homeWait.filter fun o => o.ctx ≠ ctx, syncOps := d.syncOps.filter fun o => o.ctx ≠ ctx,
    syncs := if vars then d.syncs.filter fun v => v.ctx ≠ ctx else d.syncs.map fun v => if v.ctx = ctx then { v with waiters := [] } else v,
    subs := d.subs.filter fun h => h.ctx ≠ ctx, slTime := d.slTime.map fun t => if t.ctx = ctx then { t with waiters := [] } else t }
  let s2 := s2.mapUnits fun u => { u with heldFor := u.heldFor.filter fun g => !(decide (g ∈ groups)) }
  { s2 with
    spawns := s2.spawns.filter fun m => m.pkt.ctx ≠ ctx, pushes := s2.pushes.filter fun p => p.ctx ≠ ctx
    stepUndo := s2.stepUndo.filter fun x => !(decide (x.sweep ∈ ids))
    head := { s2.head with sweeps := s2.head.sweeps.filter fun w => w.ctx ≠ ctx } }

/-- Ranks of the units of a context that run or start. -/
def State.ranksOf (s : State) (ctx : Nat) : List Nat :=
  (s.units.filter fun u => (u.2.unit.running && decide (u.2.unit.ctx = ctx)) || (match u.2.starting with
    | some o => decide (o.ctx = ctx)
    | none => false)).map (·.1)

/-- The word at pc has done part of its work: a PUSHM that the store buffer cannot take whole (02 R54), a CCOPY in progress (10
R216), a control-register write or a snapshot copy on its way (22 R352, 17 R295). -/
def Core.inWord (u : Core) : Bool := match u.stall with
  | .pushing _ _ => true
  | .copying _ => true
  | .control _ => true
  | .took _ => true
  | _ => false

/-- Every unit of a context stands at a command boundary (R375). -/
def State.atBoundary (s : State) (ctx : Nat) : Bool := (s.ranksOf ctx).all fun r => !(s.unitAt r).inWord

/-- A unit of a killed context stops: its stores drain, its engines stop, pairs are abandoned, no continuation is written. -/
def State.stopUnit (s : State) (rank : Nat) : State := ((s.drainOut rank).leavePair rank).clearUnit rank

/-- A kill of the context waits for a command boundary. -/
def Ctx.killDue (c : Ctx) : Bool := match c.stopDue with
  | some d => !d.roll
  | none => false

/-- The number of a killed context that a CTXDROP waits for is free (25 Table 132). -/
def State.freeDropped (s : State) (ctx : Nat) : State := match (s.ctx? ctx).bind (·.drop) with
  | some port => { s with ctxs := alDel ctx s.ctxs }.send (.completion port "OK" 0 [])
  | none => s

/-- Kill a context, once its units stand at their command boundaries; a packet's kill answers on its queue (25 R400). -/
def State.killCtx (s : State) (ctx cause : Nat) (queue : Option Nat := none) : State :=
  match s.ctx? ctx with
  | none => s
  | some c =>
    if c.killed then s
    else if !s.atBoundary ctx then
      if c.killDue then s else s.setCtx ctx { c with stopDue := some { roll := false, cause := cause, queue := queue } }
    else
      let s1 := (s.ranksOf ctx).foldl (fun s r => s.stopUnit r) (s.setCtx ctx { c with killed := true, undoFull := false, dataFault := none, stopDue := none })
      let s2 := s1.mapUnits fun u => { u with outgoing := u.outgoing.filter fun o => o.ctx ≠ ctx }
      let s3 := s2.discardSched ctx true
      let s4 := { s3 with head := { s3.head with batches := s3.head.batches.filter fun b => b.ctx ≠ ctx, snaps := s3.head.snaps.filter fun x => x.ctx ≠ ctx } }
      let s5 := (s4.head.streams.filter fun t => t.ctx = ctx).foldl (fun s t => s.closeStream t cause) s4
      let s6 := (s5.head.pages.filter fun r => decide (r.ctx = ctx) && decide (r.place = .promote)).foldl (fun s r => s.pageHome ctx r.page) s5
      let s7 := s6.send (.event "CONTEXT_KILLED" (queue.getD 0) "OK" [ctx, cause])
      (match queue with
      | some q => s7.send (.event "COMPLETION" q "OK" [])
      | none => s7).freeDropped ctx

/-- A fatal event that kills (R383): DOUBLE_FATAL when the fatal slot is occupied. -/
def State.fatalKill (s : State) (ctx : Nat) (rank : Option Nat) (cause : Nat) (l : LastTrap) (queue : Option Nat := none) : State :=
  match s.putFatal ctx rank cause 1 l with
  | (true, s1) => s1.killCtx ctx cause queue
  | (false, s1) => s1.killCtx ctx cDOUBLE_FATAL queue

/-- A fatal event that ends a unit only. -/
def State.fatalUnit (s : State) (ctx : Nat) (rank : Option Nat) (cause : Nat) (l : LastTrap) : State :=
  match s.putFatal ctx rank cause 0 l with
  | (true, s1) => s1
  | (false, s1) => s1.killCtx ctx cDOUBLE_FATAL

/-! ## Steps (14 R257, R258) -/

def State.sweep? (s : State) (id : Nat) : Option Sweep := s.head.sweeps.find? fun w => w.id = id
def State.modSweep (s : State) (id : Nat) (f : Sweep → Sweep) : State :=
  { s with head := { s.head with sweeps := s.head.sweeps.map fun w => if w.id = id then f w else w } }
def State.modDieSweep (s : State) (die id : Nat) (f : DieSweep → DieSweep) : State :=
  s.modDie die fun d => { d with sweeps := d.sweeps.map fun x => if x.id = id then f x else x }

/-- The signals of a kind of a sweep record. -/
def SweepRec.signals (r : SweepRec) (kind : Nat) : List Word := r.signal.filter fun p => p != 0#64 && decide (p.toNat % 16 = kind)

/-- A sweep leaves every die and the Headgate. -/
def State.dropSweep (s : State) (id : Nat) : State :=
  let s1 := s.mapDies fun d => { d with sweeps := d.sweeps.filter fun x => x.id ≠ id }
  { s1 with head := { s1.head with sweeps := s1.head.sweeps.filter fun w => w.id ≠ id }, stepUndo := s1.stepUndo.filter fun x => x.sweep ≠ id }

/-- A sweep stopped by a header fault completes once no step of it runs (01 R21). -/
def State.checkStopped (s : State) (id : Nat) : State :=
  match s.sweep? id with
  | some w => if w.stop ∧ w.running = 0 then (s.postSweep w "HEADER_FAULT").dropSweep id else s
  | none => s

/-- The die that handed a step out counts it as ended, once; its kind-1 signals are made (R257). -/
def State.stepEnded (s : State) (die id step : Nat) : State :=
  match s.sweep? id with
  | none => s
  | some w =>
    if ((s.die die).sweeps.any fun x => decide (x.id = id) && x.done.contains step) then s
    else
    let s1 := (s.modDieSweep die id fun x => { x with done := step :: x.done }).modSweep id fun w => { w with running := w.running - 1 }
    let s2 := (w.record.signals 1).foldl (fun s p => s.partSignal w.ctx p false) s1
    { s2 with stepUndo := s2.stepUndo.filter fun x => !(decide (x.sweep = id) && decide (x.step = step)) }.checkStopped id

/-- A checkpoint interval closes: its undo log is discarded and its object goes to DISCARDED (10 R208). -/
def State.closeInterval (s : State) (die ctx : Nat) : State :=
  match s.ctx? ctx with
  | none => s
  | some c =>
    let s1 := s.setCtx ctx { c with ckptOpen := false, ckptOwner := none, ckptObj := none, undoUsed := 0, undoLines := [] }
    match c.ckptObj with
    | some p => (s1.moveObj die ctx p sPARKED none sDISCARDED).2
    | none => s1

/-- A rectangle of cores is released. -/
def State.releaseGroup (s : State) (id : Nat) : State :=
  (s.mapUnits fun u => if u.heldFor = some id then { u with heldFor := none } else u).mapDies fun d =>
    { d with groups := d.groups.filter fun g => g.id ≠ id }

/-- A stage of a group step ends; with the last one the step ends and the rectangle is released (14 R260). -/
def State.stageEnded (s : State) (rank g : Nat) : State :=
  let die := dieOf rank
  match (s.die die).groups.find? fun x => x.id = g with
  | none => s
  | some x =>
    let ended := rank :: x.ended
    if x.stages.all (fun r => decide (r ∈ ended)) then (s.releaseGroup g).stepEnded x.handedBy x.sweep x.stepNo
    else s.modDie die fun d => { d with groups := d.groups.map fun y => if y.id = g then { y with ended := ended } else y }

/-- A unit ends as STEPEND ends it, after its engines and stores are done (10 R207). -/
def State.endUnit (s : State) (rank : Nat) : State :=
  let u := (s.unitAt rank).unit
  let s1 := match s.ctx? u.ctx with
    | some c => if c.ckptOpen && c.ckptOwner = some rank then s.closeInterval (dieOf rank) u.ctx else s
    | none => s
  let s2 := (s1.returnOrigin rank).clearUnit rank
  match u.group with
  | some g => s2.stageEnded rank g
  | none => if u.isStep then s2.stepEnded u.handedBy u.sweep u.stepNo else s2

/-- Restore a line as one write, which no watchpoint reports (R391 step 3), for the context whose undo it is: stored as the C bit
of the page asks that the line was logged through, and allocated as a default write is (DESIGN CHOICE, log 134). -/
def State.restoreLine (s : State) (ctx pa key : Nat) (compress : Bool) (pre : List Byte) : State :=
  (s.performRaw { cls := 5, ident := homeDie pa, ctx := none, quiet := true, owner := some ctx } pa { key := key, compress := compress } true pre).2

/-- Undo what a step wrote to L pages, newest first (14 R258). -/
def State.undoStep (s : State) (ctx id step : Nat) : State :=
  let mine := s.stepUndo.filter fun x => decide (x.sweep = id) && decide (x.step = step)
  let s1 := mine.foldl (fun s x => s.restoreLine ctx x.line x.key x.compress x.bytes) s
  { s1 with stepUndo := s1.stepUndo.filter fun x => !(decide (x.sweep = id) && decide (x.step = step)) }

/-- The object a core has taken and not yet started goes to DISCARDED with its unit (24 R391). -/
def State.discardTaken (s : State) (rank : Nat) : State :=
  match (s.unitAt rank).starting with
  | some o => (s.moveObj (dieOf rank) o.ctx o.ptr sRUNNING (some o.version) sDISCARDED).2
  | none => s.discardOrigin rank

/-- A unit that is restarted or rolled back stops: stores drain, held and unstarted commands are dropped, started ones run
out, its origin goes to DISCARDED. While a point holds a started command, so is what asked for the stop. -/
def State.haltUnit (s : State) (rank : Nat) : State :=
  let s1 := (s.drainOut rank).dropHeld rank
  let s2 := s1.settleEngines rank
  let s3 := (s2.unitAt rank).cpe.queue.foldl (fun s c => if c.goesOut rank then s.runCopy rank c.num (4 * c.beats.length + 2200) else s) s2
  let s4 := (s3.discardTaken rank).clearUnit rank
  if (s3.unitAt rank).cmdsAll.any fun c => c.st = .running then s4.hold else s4

/-- An object of a restarted step leaves its states for DISCARDED, so that no record of it runs any more (R258). -/
def State.discardObj (s : State) (die ctx : Nat) (p : Word) : State :=
  let s1 := match s.moveObj die ctx p sPARKED none sDISCARDED with
    | (some _, s1) => s1
    | (none, s1) => (s1.moveObj die ctx p sRUNNING none sDISCARDED).2
  s1.forgetPark ctx p

/-- The stages of a group that have parked go with the run that is restarted: objects bound to the cores of its rectangle,
and objects those cores have taken and not yet started. Their outgoing copies end first, so that what they write is undone. -/
def State.dropStages (s : State) (ctx g : Nat) : State :=
  let ranks := (s.units.filter fun x => decide (x.2.heldFor = some g)).map (·.1)
  let objs := (s.parked.filter fun x => decide (x.ctx = ctx) && (match x.bound with
    | some r => ranks.contains r
    | none => false)).map (·.ptr)
  let s0 := s.finishOuts fun o => decide (o.ctx = ctx) && objs.contains o.obj
  let s1 := objs.foldl (fun s p => s.discardObj (dieOf (ranks.headD 0)) ctx p) s0
  ranks.foldl (fun s r => s.modUnit r fun u => { u with starting := none }) s1

/-- The restarts a step has had. -/
def DieSweep.restartsOf (x : DieSweep) (step : Nat) : Nat := (alGet step x.restarts).getD 0

/-- Restart the step a unit carries (14 R258), asked for with a cause; a core that left service makes a record. A step that
another unit has ended meanwhile is not run again, and a sweep that a header fault has stopped hands nothing out again
(01 R21). The other stages of a group stop at their command boundaries (24 R375). -/
def State.restartStep (s : State) (rank cause : Nat) (lost : Bool) : State :=
  let u := (s.unitAt rank).unit
  let die := u.handedBy
  match s.sweep? u.sweep, (s.die die).sweeps.find? fun x => x.id = u.sweep with
  | some w, some x =>
    let last : LastTrap := { packed := cause, pos := (s.unitAt rank).pc, tval := 0#64 }
    let ranks : List Nat := match u.group with
      | some g => (s.units.filter fun (y : Nat × Core) => y.2.unit.running && decide (y.2.unit.group = some g)).map (·.1)
      | none => [rank]
    let rel := fun (s : State) => match u.group with
      | some g => (s.dropStages u.ctx g).releaseGroup g
      | none => s
    let stop := fun (s : State) => rel (ranks.foldl (fun s r => s.haltUnit r) s)
    if !lost && ranks.any (fun r => r != rank && (s.unitAt r).inWord) then s.hold
    else if w.record.rlimit ≤ x.restartsOf u.stepNo then
      ((stop (s.fatalUnit u.ctx (some rank) cRESTART_LIMIT last))).stepEnded die u.sweep u.stepNo
    else
      let s0 := if lost then s.fatalUnit u.ctx (some rank) cCORE_LOST last else s
      let s1 := (stop s0).undoStep u.ctx u.sweep u.stepNo
      if x.done.contains u.stepNo then s1
      else
      let s2 := s1.modSweep u.sweep fun w => { w with running := w.running - 1 }
      (s2.modDieSweep die u.sweep fun x =>
        { x with again := x.again ++ [u.stepNo], restarts := alSet u.stepNo (x.restartsOf u.stepNo + 1) x.restarts }).checkStopped u.sweep
  | _, _ => s

/-! ## Rollback (R391–R393) -/

/-- Apply a context's undo records, newest first, from its undo area. -/
def State.applyUndo (s : State) (ctx : Nat) (base : Nat) (lines : List (Nat × Bool)) : Nat → State
  | 0 => s
  | n + 1 =>
    match s.ctxRead headDie ctx (base + 256 * n) 256 with
    | (.ok r, s1) =>
      let c := lines.any fun x => x.1 = natAt r 0 8 && x.2
      State.applyUndo (s1.restoreLine ctx (natAt r 0 8) (natAt r 8 2) c (r.drop 128)) ctx base lines n
    | (.error _, s1) => State.applyUndo s1 ctx base lines n

/-- A rollback of a context with an open interval, once its units stand at their command boundaries; trig is the triggering
cause. -/
def State.rollBack (s : State) (ctx : Nat) (rank : Option Nat) (trig : Nat) (l : LastTrap) : State :=
  match s.ctx? ctx with
  | none => s
  | some c =>
    if c.killDue then s.setCtx ctx { c with dataFault := none }
    else if !s.atBoundary ctx then
      s.setCtx ctx { c with dataFault := none, stopDue := some { roll := true, cause := trig, rank := rank, packed := l.packed, pos := l.pos, tval := l.tval } }
    else match s.fatalFull ctx with
    | (true, s1) => s1.killCtx ctx cDOUBLE_FATAL
    | (false, s1) =>
      let record := s1.fatalRec rank cROLLED_BACK 2 l
      let s2 := (s1.ranksOf ctx).foldl (fun s r => s.haltUnit r) (s1.setCtx ctx { c with dataFault := none, stopDue := none })
      let s3 := s2.finishOuts fun o => o.ctx = ctx
      let s4 := s3.discardSched ctx false
      let k := (s4.ctx? ctx).getD c
      let s5 := (s4.applyUndo ctx c.undo.toNat k.undoLines k.undoUsed).modCtx ctx fun k =>
        { k with ckptOpen := false, ckptOwner := none, ckptObj := none, undoUsed := 0, undoLines := [], undoFull := false, dataFault := none }
      let s6 := (s5.head.streams.filter fun t => decide (t.ctx = ctx) && decide (some t.cobj = c.ckptObj)).foldl (fun s t =>
        (s.setStream (t.frame t.c)).send (.event "STREAM_ROLLBACK" t.queue "OK" [t.handle, t.c])) s5
      let s7 := (s6.putRecord ctx c.fatalVa c.tqlost record).modCtx ctx fun k => { k with tqlost := 0 }
      let s8 := if c.tqsig != 0#64 then s7.partSignal ctx c.tqsig true else s7
      match c.ckptObj with
      | none => s8
      | some p => match s8.moveObj headDie ctx p sPARKED none sRUNNING with
        | (some k, s9) => s9.enqueueObj { ctx := ctx, ptr := p, version := k.version, running := true, cls := k.cls, prio := k.prio, hdie := k.hdie, rolled := some trig }
        | (none, s9) => s9

/-- What is due for a context once a step has ended: the kill of an undo overflow (R390), a kill or a rollback that has waited for
command boundaries, the rollback of a data fault (R393). -/
def State.settleCtx (s : State) (ctx : Nat) : State :=
  match s.ctx? ctx with
  | none => s
  | some c =>
    if c.killed then s
    else if c.undoFull then (s.setCtx ctx { c with undoFull := false }).fatalKill ctx none cUNDO_OVERFLOW { packed := cUNDO_OVERFLOW }
    else match c.stopDue, c.dataFault with
      | some d, _ =>
        if !s.atBoundary ctx then s
        else if d.roll then (s.setCtx ctx { c with stopDue := none }).rollBack ctx d.rank d.cause { packed := d.packed, pos := d.pos, tval := d.tval }
        else (s.setCtx ctx { c with stopDue := none }).killCtx ctx d.cause d.queue
      | none, some f =>
        if c.ckptOpen then s.rollBack ctx f.rank f.cause { packed := f.cause, pos := f.pos, tval := BitVec.ofNat 64 f.addr }
        else s.setCtx ctx { c with dataFault := none }
      | none, none => s

/-- Every context settles (end of a step). -/
def State.settle (s : State) : State :=
  (s.ctxs.map (·.1)).foldl (fun s c => s.attempt fun s => s.settleCtx c) s

end Sys2Proof.Machine
end

