-- ==== Sys2Proof/Machine/Ops.lean ====
section
/-!
DEFINITION. The shared operations of the front end: registers, time, taking a trap and returning from one (24 R371–R373,
22 R352), the end of a word (02 R47, R48), fences (02 R63), and accesses of scalar words (02 R50–R62).
-/
namespace Sys2Proof.Machine

/-- What a meaning answers. -/
abbrev Out := Host.Outcome State Fault Refusal

/-! ## Registers (02 R31) -/

/-- A general register; g0 reads zero. -/
def State.reg (s : State) (r : RegNo) : Word := if r = 0#6 then 0#64 else s.core.regs[r.toNat]'(by have := r.isLt; omega)

def Core.setReg (u : Core) (r : RegNo) (v : Word) : Core :=
  if r = 0#6 then u else { u with regs := u.regs.set r.toNat v (by have := r.isLt; omega) }

/-- Write a general register; a write of g0 is discarded. -/
def State.setReg (s : State) (r : RegNo) (v : Word) : State := { s with core := s.core.setReg r v }

/-- A tile descriptor. -/
def State.td (s : State) (t : TileNo) : BitVec 128 := s.core.tds[t.toNat]'(by have := t.isLt; omega)

/-- Context of the unit in focus. -/
def State.ctx (s : State) : Nat := s.core.unit.ctx

/-- Change the unit in focus. -/
def State.modCore (s : State) (f : Core → Core) : State := { s with core := f s.core }

/-! ## Time (log 2) -/

/-- The word at pc waits for a full engine queue or a full store buffer (22 R357). -/
def Core.stallsFull (u : Core) : Bool := match u.stall with
  | .full => true
  | .pushing _ _ => true
  | _ => false

/-- Clk of one step for a running unit: CYCLE, PDL and the event counters of time. -/
def Core.elapse (u : Core) (tick n : Nat) : Core :=
  if u.unit.running then
    let c := { u.ctl with cycle := u.ctl.cycle + BitVec.ofNat 64 n, pdl := if u.ctl.prq then u.ctl.pdl - n else u.ctl.pdl }
    if c.evsel = 0#64 then { u with ctl := c }
    else
      let c1 := ((((c.countEvent 1 n).countEvent 3 (Config.freeEvents tick 3)).countEvent 4 (Config.freeEvents tick 4)).countEvent 9 (Config.freeEvents tick 9))
      { u with ctl := if u.stallsFull then c1.countEvent 11 n else c1 }
  else u

/-- The time of one step passes. -/
def State.elapse (s : State) : State :=
  let n := Config.freeClk s.tick
  let s1 := s.mapUnits fun u => u.elapse s.tick n
  { s1 with tick := s.tick + 1, clk := s.clk + n, time := s.time + Config.freeNs s.tick, held := false,
            dies := s1.dies.map fun d => (d.1, d.2.count 1 n) }

/-! ## Traps -/

def bankOf (u : Core) (l : BitVec 2) : Vector LoopLevel 4 := u.loops.toList.getD l.toNat (Vector.replicate 4 {})
def Core.setBank (u : Core) (l : BitVec 2) (b : Vector LoopLevel 4) : Core := { u with loops := u.loops.set! l.toNat b }

/-- Enter a trap to the next level (R371, R364): TCAUSE, TRET and TVAL of that level, a loop bank with no level active, the
pc at TVEC. -/
def Core.enterTrap (u : Core) (tc ret tval : Word) : Core :=
  let c := u.ctl
  let c1 : Ctl := if c.tlevel = 0#2 then { c with tlevel := 1#2, tcause1 := tc, tret1 := ret, tval1 := tval }
    else { c with tlevel := 2#2, tcause2 := tc, tret2 := ret, tval2 := tval }
  ({ u with ctl := c1.countEvent 12 1, pc := c.tvec, sel := none, stall := .none, pend := none }).setBank c1.tlevel (Vector.replicate 4 {})

/-- The unit's context has an open checkpoint interval. -/
def State.intervalOpen (s : State) (ctx : Nat) : Bool :=
  match s.ctx? ctx with
  | some c => c.ckptOpen && !c.killed
  | none => false

/-- Take a precise fault: a trap at level 0 or 1 (R371); at level 2 a rollback or a kill (R373), whose record names the word's
position (R381); an uncorrectable read in an open interval makes the context due to be rolled back (R393). -/
def State.raiseWith (s : State) (cause : Nat) (tval : Word) (status : BitVec 32) (ret : Word) : State :=
  if (cause == cUNCORR_READ || cause == cUNCORR_WRITE) && s.intervalOpen s.ctx then
    (s.modCtx s.ctx fun c => { c with dataFault := some (c.dataFault.getD { cause := cause, addr := tval.toNat, rank := some s.cur, pos := s.core.pc }) }).modCore
      fun u => { u with stall := .none }
  else if s.core.ctl.tlevel = 0#2 ∨ s.core.ctl.tlevel = 1#2 then s.modCore fun u => u.enterTrap (tcauseOf cause true 0 false status) ret tval
  else
    let packed := packedCause (tcauseOf cause true 0 false status)
    let s := s.modCore fun u => { u with stall := .none }
    if s.intervalOpen s.ctx then s.rollBack s.ctx (some s.cur) cTRAP_LEVEL { packed := cTRAP_LEVEL, pos := s.core.pc, tval := tval }
    else match s.ctx? s.ctx with
      | some _ => s.fatalKill s.ctx (some s.cur) cTRAP_LEVEL { packed := packed, pos := s.core.pc, tval := tval }
      | none => s.clearUnit s.cur

/-- A precise fault of the word at pc. -/
def State.raise (s : State) (cause : Nat) (tval : Word) : Out := .next (s.raiseWith cause tval 0#32 s.core.pc)

/-- TVAL of ILLEGAL_INSTR, DIV_ZERO, SOFT_TRAP and BREAK (Table 126): the word, or a dictionary half's index and entry. -/
def Core.wordTval (u : Core) : Word :=
  match u.ir.index with
  | none => zext 32 u.ir.word
  | some i => BitVec.ofNat 64 (2 ^ 63 + i.toNat * 2 ^ 32 + u.ir.word.toNat)

def State.illegal (s : State) : Out := s.raise cILLEGAL s.core.wordTval

/-! ## The end of a word -/

/-- One step of the loop whose end is the word at an address (02 R47): levels from the highest down. -/
def loopStep (b : Vector LoopLevel 4) (addr next : Word) : Nat → Vector LoopLevel 4 × Word
  | 0 => (b, next)
  | n + 1 =>
    match b[n]? with
    | some l =>
      if l.active && l.stop == addr then
        if l.remaining.toNat ≤ 1 then loopStep (b.set! n {}) addr next n
        else (b.set! n { l with remaining := l.remaining - 1#64 }, l.start)
      else loopStep b addr next n
    | none => loopStep b addr next n

/-- The position after the word in execution (01 R10, 22 R352). -/
def Core.nextPos (u : Core) : Word := if u.ir.index.isSome then u.pc + 2#64 else u.pc + 4#64

/-- A word has completed without a taken transfer. -/
def Core.done (u : Core) : Core :=
  let u1 := (u.countEvent 2 1)
  let u2 := { u1 with sel := none, stall := .none, pend := none }
  if u.ir.index.isSome && !u.ir.high then { u2 with pc := u.nextPos }
  else
    let addr := if u.ir.index.isSome then u.pc - 2#64 else u.pc
    let r := loopStep (bankOf u u.ctl.tlevel) addr u.nextPos 4
    { u2 with pc := r.2 }.setBank u.ctl.tlevel r.1

def State.done (s : State) : State := { s with core := s.core.done }
def State.fin (s : State) : Out := .next s.done

/-- A register result completes a word. -/
def State.writes (s : State) (d : RegNo) (v : Word) : Out := (s.setReg d v).fin

/-- A taken transfer (02 R48): levels whose body does not hold the target become inactive, unless a call keeps them. -/
def Core.transfer (u : Core) (t : Word) (call : Bool) : Core :=
  let b := bankOf u u.ctl.tlevel
  let b1 := if call then b else Vector.map (fun (l : LoopLevel) =>
    if l.active && !(decide (l.start.toNat ≤ t.toNat) && decide (t.toNat ≤ l.stop.toNat)) then {} else l) b
  ({ (u.countEvent 2 1) with pc := t, sel := none, stall := .none, pend := none }).setBank u.ctl.tlevel b1

def State.transfer (s : State) (t : Word) (call : Bool) : State := { s with core := s.core.transfer t call }

/-- Control passes to a target that R10 accepts, else FETCH_ADDR with no effect. -/
def State.jumpTo (s : State) (t : Word) : Out := if targetOk t then .next (s.transfer t false) else s.raise cFETCH_ADDR t

/-- The word cannot complete yet; it is executed again at a later step. -/
def State.stalled (s : State) (k : Stall := .resource) : State := { s with core := { s.core with stall := k } }
def State.waits (s : State) (k : Stall := .resource) : Out := .next (s.stalled k)

/-! ## Fences -/

/-- The effect of an acquire of cluster scope or wider on the L1 (02 R52, R63). -/
def State.acquire (s : State) (scope : Nat) : State := if scope = 0 then s else s.modCore fun u => { u with l1 := [] }

/-- Scope of an `ar` field (02 R50): die, package, system. -/
def arScope (r : BitVec 2) : Nat := match r.toNat with
  | 1 => 2
  | 2 => 3
  | 3 => 5
  | _ => 0

/-- A release over a set of classes: the state once their stores are acknowledged, or none while one is not. -/
def State.release (s : State) (mask : Nat → Bool) : Except State State :=
  let s1 := s.drain s.cur mask
  if s1.drained s.cur mask then .ok s1 else .error s1

/-- Do a word after a release of all classes; it waits until the release completes. -/
def State.afterRelease (s : State) (f : State → Out) : Out :=
  match s.release allClasses with
  | .ok s1 => f s1
  | .error s1 => s1.waits

/-! ## Accesses -/

/-- Outcome of a part of an access. -/
inductive Acc (α : Type) where
  | ok (v : α) (s : State)
  | wait (s : State)
  | fault (cause : Nat) (tval : Word) (s : State)

/-- Checks and translation of an access by the front end (02 R51, 04 R72, R77, R84): where it performs. -/
def State.locate (s : State) (p : Word) (n align : Nat) (kind : AccKind) : Acc Loc :=
  match spaceFault p kind with
  | some c => .fault c p s
  | none =>
    if p.toNat % align ≠ 0 then .fault cMISALIGNED p s
    else
      let sp := spaceOf p
      if sp = 0 then match s.xlate s.cur false p.toNat kind with
        | .ok pa attr s1 => if s1.portRefuses s.ctx pa then .fault cFABRIC p s1 else .ok (.global pa attr) s1
        | .miss s1 => .wait s1
        | .fault c s1 => .fault c p s1
      else match s.rankFault s.ctx s.cur sp (rankField p) (offOf p) n with
        | some c => .fault c p s
        | none =>
          if sp = 1 then .ok (.shared (dieOf (resolveRank s.cur 1 (rankField p))) (offOf p)) s
          else if sp = 2 then .ok (.lcl (resolveRank s.cur 2 (rankField p)) (offOf p)) s
          else .ok (.stream (offOf p / 4096) (offOf p % 4096)) s

/-- The record window of a stream (17 Table 88). -/
def Stream.window (t : Stream) : List Byte :=
  bytesOf 4 t.g ++ bytesOf 4 t.version ++ bytesOf 4 t.p ++ bytesOf 4 t.c ++ bytesOf 4 (1 + if t.tpend then 2 else 0)
    ++ bytesOf 4 (if t.tpend then t.tanch else 0) ++ bytesOf 4 t.snapint ++ bytesOf 4 t.nsnap ++ w8 t.rstate ++ bytesOf 4 t.rsize
    ++ bytesOf 4 t.snaplast ++ w8 t.snapbase ++ bytesOf 8 t.tlog ++ w8 t.kvbase ++ w8 t.btab ++ bytesOf 4 t.nblk ++ bytesOf 4 t.hiblk
    ++ bytesOf 1 t.ddie ++ bytesOf 1 t.prio ++ bytesOf 2 t.queue ++ bytesOf 4 0 ++ w8 t.cobj ++ zeros 24
    ++ (t.snappos.map (bytesOf 4)).flatten

/-- Bytes of a window; past its listed bytes it reads zero, as does the window of no live stream (04 R76). -/
def State.windowBytes (s : State) (handle off n : Nat) : List Byte :=
  match s.stream? s.ctx handle with
  | some t => padTo n ((t.window.drop off).take n)
  | none => zeros n

/-- Send the request of a remote access of the unit in focus; it waits while no plane takes it. -/
def State.askRemote (s : State) (loc : Loc) (n part : Nat) : State :=
  let s1 := s.askFor s.cur s.ctx loc n .load
  if s1.fab.nextId = s.fab.nextId then s
  else { s1 with core := { s1.core with pend := some { loc := loc, size := n, sent := s.fab.nextId, part := part } } }

/-- The remote parts of an access are asked for one after another. -/
def State.remoteGates (s : State) (locs : List (Loc × Nat)) : Gate :=
  match locs.filter (fun x => s.isRemote x.1), s.core.pend with
  | [], _ => .go s
  | x :: _, none => .wait (s.askRemote x.1 x.2 0)
  | l, some p => match p.failed with
    | some c => .fail c { s with core := { s.core with pend := none } }
    | none =>
      if p.performed then match l[p.part + 1]? with
        | some x => .wait (s.askRemote x.1 x.2 (p.part + 1))
        | none => .go { s with core := { s.core with pend := none } }
      else .wait s

def State.remoteGate (s : State) (loc : Loc) (n : Nat) : Gate := s.remoteGates [(loc, n)]

/-- A class has a store in the buffer on some of n bytes. -/
def Core.storesOn (u : Core) (loc : Loc) (n c : Nat) : Bool := u.stores.any fun e => e.cls == c && e.loc.overlaps e.bytes.length loc n

/-- Earlier stores that an access must find performed: those of its class (05 R95), and for an atomic those on its bytes. -/
def State.orderBefore (s : State) (cls : Nat) (upon : Option (Loc × Nat)) : Except State State :=
  s.release fun c => c == cls || match upon with
    | some (loc, n) => s.core.storesOn loc n c
    | none => false

/-- Earlier stores on the bytes of an access perform before it (02 R53). -/
def State.orderUpon (s : State) (loc : Loc) (n : Nat) : Except State State := s.release (s.core.storesOn loc n)

/-- The policy of an access: the stronger of its own and the page's (04 R83). -/
def Loc.policy (l : Loc) (pol : Nat) : Nat := match l with
  | .global _ attr => strongerPol pol attr.pol
  | _ => pol

/-- A default load finds its line in the L1 (02 R52, 05 R93). -/
def State.l1Line (s : State) (loc : Loc) (pol : Nat) : Option L1Line :=
  match loc with
  | .global pa attr => if loc.policy pol = 0 ∧ classOf s.cur ≠ 2 then l1Find s.core.l1 pa ((s.keyId attr.key).getD 0) else none
  | _ => none

/-- Read the bytes of a located load: from the L1 (02 R52, 05 R93), or at its point. -/
def State.readLoc (s : State) (p : Word) (loc : Loc) (n pol : Nat) : Acc (List Byte) :=
  let fwd := fun (s : State) (bs : List Byte) => forward s.core.stores loc n bs
  let held := match loc with
    | .lcl r off => r == s.cur && s.core.holdsLocal s.cur s.core.seq off n false
    | _ => false
  if held then .wait s
  else match loc with
    | .stream h off => .ok (s.windowBytes h off n) s
    | .global pa attr =>
      let k := (s.keyId attr.key).getD 0
      match s.l1Line loc pol with
      | some x => .ok (fwd s ((x.bytes.drop (pa % 128)).take n)) s
      | none =>
      if s.cutOff s.cur loc then .wait s
      else if loc.policy pol = 0 ∧ classOf s.cur ≠ 2 then
        match s.readHome (pa / 128 * 128) attr true 128 with
        | (.error _, s1) => .fault cUNCORR_READ p s1
        | (.ok bs, s1) => .ok (fwd s1 ((bs.drop (pa % 128)).take n))
            (s1.modCore fun u => { (u.countEvent 5 1) with l1 := l1Add u.l1 { line := pa / 128, key := k, bytes := bs } })
      else match s.readHome pa attr (loc.policy pol = 0) n with
        | (.error _, s1) => .fault cUNCORR_READ p s1
        | (.ok bs, s1) => .ok (fwd s1 bs) s1
    | _ => match s.loadAt s.cur s.ctx loc false n with
      | .ok bs s1 => .ok (fwd s1 bs) s1
      | .bad c s1 => .fault c p s1
      | .hold => .wait s

/-- A load of n bytes; one that finds its line in the L1 asks no other package for it. -/
def State.loadBytes (s : State) (p : Word) (n cls pol : Nat) : Acc (List Byte) :=
  match s.locate p n n .load with
  | .wait s1 => .wait s1
  | .fault c t s1 => .fault c t s1
  | .ok loc s1 => match if (s1.l1Line loc pol).isSome then Gate.go s1 else s1.remoteGate loc n with
    | .wait s2 => .wait s2
    | .fail c s2 => .fault c p s2
    | .go s2 => match s2.orderBefore cls none with
      | .error s3 => .wait s3
      | .ok s3 => match s3.readLoc p loc n pol with
        | .ok bs s4 => .ok bs (s4.modCore fun u => { u with seq := u.seq + 1 })
        | r => r

/-- The watchpoints of the unit that own accesses are checked against (05 R112): the lowest matched byte's address. -/
def State.ownWatch (s : State) (p : Word) (loc : Loc) (n : Nat) : Option Word :=
  let look := fun (die : Nat) (sh : Bool) (at_ : Nat) =>
    let hits := (s.die die).slices.filterMap fun w => if w.rank = s.cur ∧ w.shared = sh then overlapLow at_ n w.start w.len else none
    (hits.foldl (fun (b : Option Nat) lo => some (min (b.getD lo) lo)) none).map fun lo => p + BitVec.ofNat 64 (lo - at_)
  match loc with
  | .global pa _ => look (homeDie pa) false pa
  | .shared die off => look die true (s.sharedOff s.ctx die off)
  | _ => none

/-- A store enters the buffer (02 R54), with the stronger of its own policy and the page's (04 R83). -/
def Core.pushStore (u : Core) (p : Word) (loc : Loc) (bytes : List Byte) (cls pol : Nat) : Core :=
  { u with stores := u.stores ++ [{ va := p, loc := loc, bytes := bytes, cls := cls, pol := loc.policy pol, seq := u.seq }], seq := u.seq + 1 }

def Core.storeRoom (u : Core) (n : Nat) : Bool := decide (u.stores.length + n ≤ 16)

/-- A store of bytes: its checks, and its entry in the store buffer, for whose room it waits. -/
def State.storeBytes (s : State) (p : Word) (bytes : List Byte) (align cls pol : Nat) : Acc Unit :=
  match s.locate p bytes.length align .store with
  | .wait s1 => .wait s1.stalled
  | .fault c t s1 => .fault c t s1
  | .ok loc s1 => match s1.ownWatch p loc bytes.length with
    | some t => .fault cWATCH t s1
    | none => if s1.core.storeRoom 1 then .ok () (s1.modCore fun u => u.pushStore p loc bytes cls pol) else .wait (s1.stalled .full)

/-- An atomic: its checks, and its read and write as one step at its point (02 R58). f gives the new bytes, or none when it
does not write. -/
def State.atomicBytes (s : State) (p : Word) (n cls : Nat) (f : List Byte → Option (List Byte)) : Acc (List Byte) :=
  match s.locate p n n .atomic with
  | .wait s1 => .wait s1
  | .fault c t s1 => .fault c t s1
  | .ok loc s1 => match s1.ownWatch p loc n with
    | some t => .fault cWATCH t s1
    | none => match s1.remoteGate loc n with
      | .wait s2 => .wait s2
      | .fail c s2 => .fault c p s2
      | .go s2 => match s2.orderBefore cls (some (loc, n)) with
        | .error s3 => .wait s3
        | .ok s3 =>
          let held := match loc with
            | .lcl r off => r == s3.cur && s3.core.holdsLocal s3.cur s3.core.seq off n true
            | _ => false
          if held then .wait s3
          else match s3.loadAt s3.cur s3.ctx loc loc.alloc n with
            | .hold => .wait s3
            | .bad c s4 => .fault c p s4
            | .ok old s4 =>
              let after := fun (s : State) => s.modCore fun u => { u with seq := u.seq + 1, l1 := match loc with
                | .global pa _ => l1Drop u.l1 pa
                | _ => u.l1 }
              match f old with
              | none => .ok old (after s4)
              | some new => match s4.storeAt (frontWriter s4.cur s4.ctx) s4.cur s4.ctx loc loc.alloc new with
                | .hold => .wait s4
                | .bad c s5 => if c = cUNDO_OVERFLOW then .wait s5 else .fault cUNCORR_READ p s5
                | .ok _ s5 => .ok old (after s5)

/-! ## Ranges (02 R56, R57) -/

/-- The parts of a range of words within 64 KiB pages: pointer and length. -/
def rangePages (p : Word) (n : Nat) : List (Word × Nat) :=
  let k := 65536 - p.toNat % 65536
  if n ≤ k then [(p, n)] else [(p, k), (p + BitVec.ofNat 64 k, n - k)]

/-- Check every page of a range of at most 512 bytes, the range of a PUSHM or POPM; where each part lies. STREAM space is
not theirs (02 R51). -/
def State.locateRange (s : State) (p : Word) (n : Nat) (kind : AccKind) : Acc (List (Word × Nat × Loc)) :=
  if spaceOf p = 4 then .fault cADDR_SPACE p s
  else if spaceOf p = 0 then
    (rangePages p n).foldl (fun a x =>
      match a with
      | .ok l s => match s.locate x.1 x.2 8 kind with
        | .ok loc s1 => .ok (l ++ [(x.1, x.2, loc)]) s1
        | .wait s1 => .wait s1
        | .fault c t s1 => .fault c t s1
      | r => r) (.ok [] s)
  else match s.locate p n 8 kind with
    | .ok loc s1 => .ok [(p, n, loc)] s1
    | .wait s1 => .wait s1
    | .fault c t s1 => .fault c t s1

/-- A place some bytes on. -/
def Loc.plus (l : Loc) (k : Nat) : Loc := match l with
  | .global pa a => .global (pa + k) a
  | .shared d o => .shared d (o + k)
  | .lcl r o => .lcl r (o + k)
  | .stream h o => .stream h (o + k)

/-- The place of a byte of a located range. -/
def locAt (l : List (Word × Nat × Loc)) (p : Word) : Loc :=
  match l.find? fun x => decide (x.1.toNat ≤ p.toNat) && decide (p.toNat < x.1.toNat + x.2.1) with
  | some x => x.2.2.plus (p.toNat - x.1.toNat)
  | none => .stream 0 0

/-! ## Fetch (01 R10, R18, 22 R354) -/

/-- Read the line of an address into a fetch buffer of 32 lines. -/
def State.fillFetch (s : State) (va : Nat) : Acc Unit :=
  match s.xlate s.cur false va .fetch with
  | .miss s1 => .wait s1
  | .fault c s1 => .fault c (BitVec.ofNat 64 va) s1
  | .ok pa attr s1 =>
    if s1.portRefuses s.ctx pa then .fault cFABRIC (BitVec.ofNat 64 va) s1
    else if s1.cutOff s1.cur (.global pa attr) then .wait s1
    else match s1.gateFor s1.cur (.global (pa / 128 * 128) attr) 128 .fetch with
    | .wait s2 => .wait s2
    | .fail c s2 => .fault c (BitVec.ofNat 64 va) (s2.gateDone s2.cur .fetch)
    | .go s1 => match (s1.gateDone s1.cur .fetch).readHome (pa / 128 * 128) attr (attr.pol = 0) 128 with
      | (.error _, s2) => .fault cUNCORR_READ (BitVec.ofNat 64 va) s2
      | (.ok bs, s2) => .ok () (s2.modCore fun u => { u with fetchBuf := (u.fetchBuf ++ [({ line := va / 128, bytes := bs, key := attr.key } : FetchLine)]).drop (u.fetchBuf.length + 1 - 32) })

/-- The word at an address in the fetch buffer. -/
def Core.fetched (u : Core) (va : Nat) : Option W32 :=
  (u.fetchBuf.find? fun x => x.line = va / 128).map fun x => BitVec.ofNat 32 (natOf ((x.bytes.drop (va % 128)).take 4))

/-- Fetch the word at an address of 4 bytes. An address with bits 59:57 nonzero raises ADDR_RANGE, as R51 has it for memory
words (DESIGN CHOICE, log 110: 01 R18 names no fault of a fetch there). -/
def State.fetchWord (s : State) (a : Word) : Acc W32 :=
  if spaceOf a ≠ 0 then .fault cFETCH_ADDR a s
  else if a.toNat / 2 ^ 57 ≠ 0 then .fault cADDR_RANGE a s
  else match s.core.fetched a.toNat with
    | some w => .ok w s
    | none => match s.fillFetch a.toNat with
      | .wait s1 => .wait s1
      | .fault c t s1 => .fault c t s1
      | .ok _ s1 => match s1.core.fetched a.toNat with
        | some w => .ok w s1
        | none => .wait s1

/-- Read a dictionary of n words through the unit's translations and under bypass (01 R21, 22 R353): the words, or the fault of the range. -/
def State.readDict (s : State) (die ctx : Nat) (p : Word) (n : Nat) : Except (Nat × Nat) (List W32) × State :=
  match s.ctxCheck die ctx p.toNat (4 * n) .load with
  | (some f, s1) => (.error f, s1)
  | (none, s1) => match s1.ctxReadAs .load true die ctx p.toNat (4 * n) with
    | (.error c, s2) => (.error (c, (((vaPieces (4 * n + 1) p.toNat (4 * n)).find? fun x => match (s2.ctxReadAs .load true die ctx x.1 x.2).1 with
        | .error _ => true
        | .ok _ => false).map (·.1)).getD p.toNat), s2)
    | (.ok bs, s2) => (.ok ((List.range n).map fun i => BitVec.ofNat 32 (natAt bs (4 * i) 4)), s2)

/-- The address of the word in execution or to be executed: bit 1 of pc names the high half of a pair (R10). -/
def Core.wordAddr (u : Core) : Word := BitVec.ofNat 64 (u.pc.toNat / 4 * 4)

/-- A pc with bit 1 set names the high half of a pair; another word there is illegal (log 36). -/
def Core.pairMissing (u : Core) (w : W32) : Bool := u.pc.toNat % 4 != 0 && fld w 26 6 != 0x3F#6

/-- The word about to be executed. -/
def State.begin (s : State) (w : WordHere) : State := s.modCore fun u => { u with ir := w }

/-- What a BARARV .w at this position has arrived with and still waits for (R199). -/
def Core.arrived (u : Core) : Option Arrived := u.unit.arvDone.filter fun x => decide (x.pc = u.pc)

/-- An engine-fault trap is due at the boundary before the next word (24 R376); a BARARV .w that has arrived is past its
boundary (10 R199). -/
def Core.faultDue (u : Core) : Bool := !u.faults.isEmpty && u.ctl.tlevel != 2#2 && !u.inWord && u.arrived.isNone

/-- The unit in focus cannot go on by itself. -/
def Core.idle (u : Core) : Bool := !u.unit.running || u.stall != .none

end Sys2Proof.Machine
end

