-- ==== Sys2Proof/Machine/Alu.lean ====
section
/-!
DEFINITION. ALU words (02 R37, Table 13).
-/
namespace Sys2Proof.Machine

/-- A two-source word: its result goes to gD. -/
def aluOp (f : Word → Word → Word) (d a b : RegNo) (s : State) : Out := s.writes d (f (s.reg a) (s.reg b))

/-- A one-source word. -/
def aluOp1 (f : Word → Word) (d a : RegNo) (s : State) : Out := s.writes d (f (s.reg a))

/-- The low 32 bits of a register. -/
def lo32 (x : Word) : W32 := x.setWidth 32

/-- A W word works on 32 bits and sign-extends its result. -/
def wOp (f : W32 → W32 → W32) (x y : Word) : Word := sext 32 (f (lo32 x) (lo32 y))

/-- Shift count of a 64-bit word: bits 5:0. -/
def sh6 (y : Word) : Nat := y.toNat % 64
/-- Shift count of a W word: bits 4:0. -/
def sh5 (y : W32) : Nat := y.toNat % 32

def rotr (x : Word) (n : Nat) : Word := x.rotateRight n
def bit1 (c : Bool) : Word := if c then 1#64 else 0#64

/-- Leading zero bits of the low n bits, and trailing zero bits from bit 64 − n. -/
def clzFrom (x : Word) : Nat → Nat
  | 0 => 0
  | n + 1 => if x.getLsbD n then 0 else 1 + clzFrom x n

def ctzFrom (x : Word) : Nat → Nat
  | 0 => 0
  | n + 1 => if x.getLsbD (63 - n) then 0 else 1 + ctzFrom x n

def popFrom (x : Word) : Nat → Nat
  | 0 => 0
  | n + 1 => (if x.getLsbD n then 1 else 0) + popFrom x n

/-- ADD: (gA + gB) mod 2^64. -/
def execAdd (d a b : RegNo) (s : State) : Out := aluOp (fun x y => x + y) d a b s

/-- SUB: (gA − gB) mod 2^64. -/
def execSub (d a b : RegNo) (s : State) : Out := aluOp (fun x y => x - y) d a b s

/-- AND. -/
def execAndR (d a b : RegNo) (s : State) : Out := aluOp (fun x y => x &&& y) d a b s

/-- OR. -/
def execOrR (d a b : RegNo) (s : State) : Out := aluOp (fun x y => x ||| y) d a b s

/-- XOR. -/
def execXorR (d a b : RegNo) (s : State) : Out := aluOp (fun x y => x ^^^ y) d a b s

/-- ANDN: gA and not gB. -/
def execAndn (d a b : RegNo) (s : State) : Out := aluOp (fun x y => x &&& ~~~y) d a b s

/-- SLL by gB[5:0]. -/
def execSll (d a b : RegNo) (s : State) : Out := aluOp (fun x y => x <<< sh6 y) d a b s

/-- SRL: zeros shifted in. -/
def execSrl (d a b : RegNo) (s : State) : Out := aluOp (fun x y => x >>> sh6 y) d a b s

/-- SRA: copies of bit 63 shifted in. -/
def execSra (d a b : RegNo) (s : State) : Out := aluOp (fun x y => x.sshiftRight (sh6 y)) d a b s

/-- ROR. -/
def execRor (d a b : RegNo) (s : State) : Out := aluOp (fun x y => rotr x (sh6 y)) d a b s

/-- SLT: signed comparison. -/
def execSlt (d a b : RegNo) (s : State) : Out := aluOp (fun x y => bit1 (x.slt y)) d a b s

/-- SLTU: unsigned comparison. -/
def execSltu (d a b : RegNo) (s : State) : Out := aluOp (fun x y => bit1 (x.ult y)) d a b s

/-- MIN: signed minimum. -/
def execMinS (d a b : RegNo) (s : State) : Out := aluOp (fun x y => if x.slt y then x else y) d a b s

/-- MAX: signed maximum. -/
def execMaxS (d a b : RegNo) (s : State) : Out := aluOp (fun x y => if x.slt y then y else x) d a b s

/-- MINU. -/
def execMinu (d a b : RegNo) (s : State) : Out := aluOp (fun x y => if x.ult y then x else y) d a b s

/-- MAXU. -/
def execMaxu (d a b : RegNo) (s : State) : Out := aluOp (fun x y => if x.ult y then y else x) d a b s

/-- ADDW. -/
def execAddw (d a b : RegNo) (s : State) : Out := aluOp (wOp fun x y => x + y) d a b s

/-- SUBW. -/
def execSubw (d a b : RegNo) (s : State) : Out := aluOp (wOp fun x y => x - y) d a b s

/-- SLLW by gB[4:0]. -/
def execSllw (d a b : RegNo) (s : State) : Out := aluOp (wOp fun x y => x <<< sh5 y) d a b s

/-- SRLW: zeros shifted in at bit 31. -/
def execSrlw (d a b : RegNo) (s : State) : Out := aluOp (wOp fun x y => x >>> sh5 y) d a b s

/-- SRAW: copies of bit 31 shifted in. -/
def execSraw (d a b : RegNo) (s : State) : Out := aluOp (wOp fun x y => x.sshiftRight (sh5 y)) d a b s

/-- CLZ: 64 when gA = 0. -/
def execClz (d a : RegNo) (s : State) : Out := aluOp1 (fun x => BitVec.ofNat 64 (clzFrom x 64)) d a s

/-- CTZ: 64 when gA = 0. -/
def execCtz (d a : RegNo) (s : State) : Out := aluOp1 (fun x => BitVec.ofNat 64 (ctzFrom x 64)) d a s

/-- POPC. -/
def execPopc (d a : RegNo) (s : State) : Out := aluOp1 (fun x => BitVec.ofNat 64 (popFrom x 64)) d a s

/-- SEXTB. -/
def execSextb (d a : RegNo) (s : State) : Out := aluOp1 (fun x => sext 8 (x.setWidth 8)) d a s

/-- SEXTH. -/
def execSexth (d a : RegNo) (s : State) : Out := aluOp1 (fun x => sext 16 (x.setWidth 16)) d a s

/-- SEXTW. -/
def execSextw (d a : RegNo) (s : State) : Out := aluOp1 (fun x => sext 32 (lo32 x)) d a s

/-- ZEXTW. -/
def execZextw (d a : RegNo) (s : State) : Out := aluOp1 (fun x => zext 32 (lo32 x)) d a s

end Sys2Proof.Machine
end

