-- ==== Sys2Proof/Machine/MulDiv.lean ====
section
/-!
DEFINITION. Multiply and divide words (02 R40–R42).
-/
namespace Sys2Proof.Machine

/-- Upper half of the signed and of the unsigned product. -/
def mulhS (x y : Word) : Word := BitVec.ofInt 64 (x.toInt * y.toInt / 2 ^ 64)
def mulhU (x y : Word) : Word := BitVec.ofNat 64 (x.toNat * y.toNat / 2 ^ 64)

/-- Quotient and remainder of R41 on n bits for a nonzero or zero divisor; −2^(n−1) / −1 gives −2^(n−1) and 0. -/
def quoS {n : Nat} (x y : BitVec n) : BitVec n := if y = 0#n then BitVec.allOnes n else BitVec.ofInt n (x.toInt.tdiv y.toInt)
def quoU {n : Nat} (x y : BitVec n) : BitVec n := if y = 0#n then BitVec.allOnes n else x / y
def remS {n : Nat} (x y : BitVec n) : BitVec n := if y = 0#n then x else BitVec.ofInt n (x.toInt.tmod y.toInt)
def remU {n : Nat} (x y : BitVec n) : BitVec n := if y = 0#n then x else x % y

/-- A divide word: DIV_ZERO when its divisor is zero and FECTL.DZT = 1 (R41). -/
def divOp (zero : Word → Bool) (f : Word → Word → Word) (d a b : RegNo) (s : State) : Out :=
  if zero (s.reg b) && s.core.ctl.dzt then s.raise cDIV_ZERO s.core.wordTval else s.writes d (f (s.reg a) (s.reg b))

def zero64 (y : Word) : Bool := y == 0#64
def zero32 (y : Word) : Bool := lo32 y == 0#32

/-- MUL: low half of the product. -/
def execMul (d a b : RegNo) (s : State) : Out := aluOp (fun x y => x * y) d a b s

/-- MULH. -/
def execMulh (d a b : RegNo) (s : State) : Out := aluOp (mulhS) d a b s

/-- MULHU. -/
def execMulhu (d a b : RegNo) (s : State) : Out := aluOp (mulhU) d a b s

/-- MULW. -/
def execMulw (d a b : RegNo) (s : State) : Out := aluOp (wOp fun x y => x * y) d a b s

/-- DIV (R41). -/
def execDiv (d a b : RegNo) (s : State) : Out := divOp zero64 quoS d a b s

/-- DIVU (R41). -/
def execDivu (d a b : RegNo) (s : State) : Out := divOp zero64 quoU d a b s

/-- REM (R41). -/
def execRem (d a b : RegNo) (s : State) : Out := divOp zero64 remS d a b s

/-- REMU (R41). -/
def execRemu (d a b : RegNo) (s : State) : Out := divOp zero64 remU d a b s

/-- DIVW (R41). -/
def execDivw (d a b : RegNo) (s : State) : Out := divOp zero32 (wOp quoS) d a b s

/-- DIVUW (R41). -/
def execDivuw (d a b : RegNo) (s : State) : Out := divOp zero32 (wOp quoU) d a b s

/-- REMW (R41). -/
def execRemw (d a b : RegNo) (s : State) : Out := divOp zero32 (wOp remS) d a b s

/-- REMUW (R41). -/
def execRemuw (d a b : RegNo) (s : State) : Out := divOp zero32 (wOp remU) d a b s

end Sys2Proof.Machine
end

