-- ==== Sys2Proof/Machine/Imm.lean ====
section
/-!
DEFINITION. Immediate, constant and tagged-pointer words (02 R38, R39, R43, R44).
-/
namespace Sys2Proof.Machine

/-- ADDI: sign-extended immediate. -/
def execAddi (d a : RegNo) (i : BitVec 14) (s : State) : Out := s.writes d (s.reg a + sext 14 i)

/-- ANDI: zero-extended immediate. -/
def execAndi (d a : RegNo) (i : BitVec 14) (s : State) : Out := s.writes d (s.reg a &&& zext 14 i)

/-- ORI. -/
def execOri (d a : RegNo) (i : BitVec 14) (s : State) : Out := s.writes d (s.reg a ||| zext 14 i)

/-- XORI. -/
def execXori (d a : RegNo) (i : BitVec 14) (s : State) : Out := s.writes d (s.reg a ^^^ zext 14 i)

/-- SLTI. -/
def execSlti (d a : RegNo) (i : BitVec 14) (s : State) : Out := s.writes d (bit1 ((s.reg a).slt (sext 14 i)))

/-- SLTIU: the sign-extended immediate compared as an unsigned value. -/
def execSltiu (d a : RegNo) (i : BitVec 14) (s : State) : Out := s.writes d (bit1 ((s.reg a).ult (sext 14 i)))

/-- SLLI: the immediate in place of gB[5:0]. -/
def execSlli (d a : RegNo) (n : BitVec 6) (s : State) : Out := s.writes d (s.reg a <<< n.toNat)

/-- SRLI: the immediate in place of gB[5:0]. -/
def execSrli (d a : RegNo) (n : BitVec 6) (s : State) : Out := s.writes d (s.reg a >>> n.toNat)

/-- SRAI: the immediate in place of gB[5:0]. -/
def execSrai (d a : RegNo) (n : BitVec 6) (s : State) : Out := s.writes d ((s.reg a).sshiftRight n.toNat)

/-- RORI: the immediate in place of gB[5:0]. -/
def execRori (d a : RegNo) (n : BitVec 6) (s : State) : Out := s.writes d (rotr (s.reg a) n.toNat)

/-- LUI (R39). -/
def execLui (d : RegNo) (i : BitVec 20) (s : State) : Out := s.writes d (immUpper i)

/-- LIM: bits 47:32 of gD. -/
def execLim (d : RegNo) (i : BitVec 16) (s : State) : Out := s.writes d ((s.reg d &&& ~~~(0xFFFF#64 <<< 32)) ||| (zext 16 i <<< 32))

/-- LIH: bits 63:48 of gD. -/
def execLih (d : RegNo) (i : BitVec 16) (s : State) : Out := s.writes d ((s.reg d &&& ~~~(0xFFFF#64 <<< 48)) ||| (zext 16 i <<< 48))

/-- ADDPC (R39). -/
def execAddpc (d : RegNo) (i : BitVec 20) (s : State) : Out := s.writes d (s.core.pc + immUpper i)

/-- PTAG (R43): GLOBAL when gA[15:12] = 0, else tag and rank from gA[15:0] over gB[47:0]. -/
def ptagOf (x y : Word) : Word :=
  if x.toNat / 2 ^ 12 % 16 = 0 then zext 57 (y.setWidth 57) else BitVec.ofNat 64 (x.toNat % 2 ^ 16 * 2 ^ 48 + y.toNat % 2 ^ 48)

/-- PRANK (R43): a GLOBAL pointer never changes. -/
def prankOf (x y : Word) : Word := if spaceOf x = 0 then x else mkPtr (spaceOf x) (y.toNat % 2 ^ 12) (offOf x)

/-- PTAG. -/
def execPtag (d a b : RegNo) (s : State) : Out := aluOp ptagOf d a b s

/-- PRANK. -/
def execPrank (d a b : RegNo) (s : State) : Out := aluOp prankOf d a b s

/-- PSPACE: the space code. -/
def execPspace (d a : RegNo) (s : State) : Out := s.writes d (BitVec.ofNat 64 (spaceOf (s.reg a)))

/-- POFF: gA[59:0] of a GLOBAL pointer, else gA[47:0]. -/
def execPoff (d a : RegNo) (s : State) : Out := s.writes d (if spaceOf (s.reg a) = 0 then s.reg a else BitVec.ofNat 64 (offOf (s.reg a)))

/-- PADD: ptr_add, or ADDR_RANGE with TVAL the pointer before the addition (R44). -/
def execPadd (d a b : RegNo) (s : State) : Out :=
  match ptrAdd (s.reg a) (s.reg b).toInt with
  | some p => s.writes d p
  | none => s.raise cADDR_RANGE (s.reg a)

end Sys2Proof.Machine
end

