-- ==== Sys2Proof/Machine/Control.lean ====
section
/-!
DEFINITION. Control flow (02 R45–R48).
-/
namespace Sys2Proof.Machine

/-- A branch: only a taken one checks its target (R45). -/
def branch (c : Bool) (o : BitVec 14) (s : State) : Out := if c then s.jumpTo (s.core.pc + branchOff o) else s.fin

/-- BEQ (R45). -/
def execBeq (a b : RegNo) (o : BitVec 14) (s : State) : Out := branch (s.reg a == s.reg b) o s

/-- BNE (R45). -/
def execBne (a b : RegNo) (o : BitVec 14) (s : State) : Out := branch (s.reg a != s.reg b) o s

/-- BLT (R45). -/
def execBlt (a b : RegNo) (o : BitVec 14) (s : State) : Out := branch ((s.reg a).slt (s.reg b)) o s

/-- BGE (R45). -/
def execBge (a b : RegNo) (o : BitVec 14) (s : State) : Out := branch (!(s.reg a).slt (s.reg b)) o s

/-- BLTU (R45). -/
def execBltu (a b : RegNo) (o : BitVec 14) (s : State) : Out := branch ((s.reg a).ult (s.reg b)) o s

/-- BGEU (R45). -/
def execBgeu (a b : RegNo) (o : BitVec 14) (s : State) : Out := branch (!(s.reg a).ult (s.reg b)) o s

/-- A jump with a link: the target is checked before gD is written (R46). -/
def link (d : RegNo) (t : Word) (s : State) : Out :=
  if targetOk t then .next ((s.setReg d (s.core.pc + 4#64)).transfer t (d != 0#6)) else s.raise cFETCH_ADDR t

/-- JAL. -/
def execJal (d : RegNo) (o : BitVec 20) (s : State) : Out := link d (s.core.pc + branchOff o) s

/-- JALR: gA is read before gD is written. -/
def execJalr (d a : RegNo) (i : BitVec 14) (s : State) : Out := link d (s.reg a + sext 14 i) s

/-- LOOP (R47): with count 0 control passes to the word after the body, as a taken transfer (DESIGN CHOICE, log 111: R47 and
R48 do not say whether it is one); else the level becomes active. -/
def execHwLoop (a : RegNo) (l : BitVec 2) (o : BitVec 14) (s : State) : Out :=
  let count := s.reg a
  let stop := s.core.pc + BitVec.ofNat 64 (4 * o.toNat)
  if count = 0#64 then s.jumpTo (stop + 4#64)
  else
    let b := (bankOf s.core s.core.ctl.tlevel).set! l.toNat { active := true, start := s.core.pc + 4#64, stop := stop, remaining := count }
    (s.modCore fun u => u.setBank u.ctl.tlevel b).fin

end Sys2Proof.Machine
end

