-- ==== Sys2Proof/Machine/Memory.lean ====
section
/-!
DEFINITION. Loads, stores, push and pop multiple, fences, descriptor loads and stores (02 R50–R57, R63; 07 R133).
-/
namespace Sys2Proof.Machine

/-- The value a load of n bytes gives (R50). -/
def loadedValue (n : Nat) (signed : Bool) (bs : List Byte) : Word :=
  let v := natOf (bs.take n)
  if signed then sext (8 * n) (BitVec.ofNat (8 * n) v) else BitVec.ofNat 64 v

/-- A load word (R50). -/
def loadWord (n : Nat) (signed : Bool) (d b : RegNo) (c : BitVec 4) (p r : BitVec 2) (o : BitVec 6) (s : State) : Out :=
  match ptrAdd (s.reg b) (scaledOff o n) with
  | none => s.raise cADDR_RANGE (s.reg b)
  | some ptr => match s.loadBytes ptr n c.toNat p.toNat with
    | .wait s1 => s1.waits
    | .fault cs t s1 => s1.raise cs t
    | .ok bs s1 => (s1.acquire (arScope r)).writes d (loadedValue n signed bs)

/-- A store word (R50). -/
def storeWord (n : Nat) (d b : RegNo) (c : BitVec 4) (p r : BitVec 2) (o : BitVec 6) (s : State) : Out :=
  match ptrAdd (s.reg b) (scaledOff o n) with
  | none => s.raise cADDR_RANGE (s.reg b)
  | some ptr =>
    let put := fun (s : State) => match s.storeBytes ptr (bytesOf n (s.reg d).toNat) n c.toNat p.toNat with
      | .wait s1 => .next s1
      | .fault cs t s1 => s1.raise cs t
      | .ok _ s1 => s1.fin
    if r = 0#2 then put s
    else match s.locate ptr n n .store with
      | .wait s1 => s1.waits
      | .fault cs t s1 => s1.raise cs t
      | .ok _ s1 => s1.afterRelease put

/-- LDB (R50). -/
def execLdb (d b : RegNo) (c : BitVec 4) (p r : BitVec 2) (o : BitVec 6) (s : State) : Out := loadWord 1 false d b c p r o s

/-- LDH (R50). -/
def execLdh (d b : RegNo) (c : BitVec 4) (p r : BitVec 2) (o : BitVec 6) (s : State) : Out := loadWord 2 false d b c p r o s

/-- LDW (R50). -/
def execLdw (d b : RegNo) (c : BitVec 4) (p r : BitVec 2) (o : BitVec 6) (s : State) : Out := loadWord 4 false d b c p r o s

/-- LDD (R50). -/
def execLdd (d b : RegNo) (c : BitVec 4) (p r : BitVec 2) (o : BitVec 6) (s : State) : Out := loadWord 8 false d b c p r o s

/-- LDSB (R50). -/
def execLdsb (d b : RegNo) (c : BitVec 4) (p r : BitVec 2) (o : BitVec 6) (s : State) : Out := loadWord 1 true d b c p r o s

/-- LDSH (R50). -/
def execLdsh (d b : RegNo) (c : BitVec 4) (p r : BitVec 2) (o : BitVec 6) (s : State) : Out := loadWord 2 true d b c p r o s

/-- LDSW (R50). -/
def execLdsw (d b : RegNo) (c : BitVec 4) (p r : BitVec 2) (o : BitVec 6) (s : State) : Out := loadWord 4 true d b c p r o s

/-- STB (R50). -/
def execStb (d b : RegNo) (c : BitVec 4) (p r : BitVec 2) (o : BitVec 6) (s : State) : Out := storeWord 1 d b c p r o s

/-- STH (R50). -/
def execSth (d b : RegNo) (c : BitVec 4) (p r : BitVec 2) (o : BitVec 6) (s : State) : Out := storeWord 2 d b c p r o s

/-- STW (R50). -/
def execStw (d b : RegNo) (c : BitVec 4) (p r : BitVec 2) (o : BitVec 6) (s : State) : Out := storeWord 4 d b c p r o s

/-- STD (R50). -/
def execStd (d b : RegNo) (c : BitVec 4) (p r : BitVec 2) (o : BitVec 6) (s : State) : Out := storeWord 8 d b c p r o s

/-- The registers gF to gL. -/
def State.regRange (s : State) (f l : RegNo) : List Word :=
  (List.range (l.toNat - f.toNat + 1)).map fun i => s.reg (BitVec.ofNat 6 (f.toNat + i))

/-- The stores of a PUSHM in rising address order. -/
def State.pushWords (s : State) (locs : List (Word × Nat × Loc)) (p : Word) : List Word → State
  | [] => s
  | v :: r => State.pushWords (s.modCore fun u => u.pushStore p (locAt locs p) (w8 v) 0 0) locs (p + 8#64) r

/-- The stores of a PUSHM from the k-th on, as many as the store buffer has room for (R54), again as entries leave it; the
word waits for the rest. -/
def State.pushOn (locs : List (Word × Nat × Loc)) (base : Word) (vals : List Word) : Nat → Nat → State → Out
  | 0, k, s => s.waits (.pushing k locs)
  | f + 1, k, s =>
    let s1 := s.drain s.cur allClasses
    let room := 16 - s1.core.stores.length
    let s2 := s1.pushWords locs (base + BitVec.ofNat 64 (8 * k)) ((vals.drop k).take room)
    if vals.length ≤ k + room then (s2.modCore fun u => { u with ssp := base }).fin
    else if room = 0 then s2.waits (.pushing k locs)
    else State.pushOn locs base vals f (k + room) s2

/-- PUSHM (R56, R57): the whole range is checked first; one buffer entry per register (R54). -/
def execPushm (f l : RegNo) (s : State) : Out :=
  let n := l.toNat - f.toNat + 1
  match ptrAdd s.core.ssp (-(8 * (n : Int))) with
  | none => s.raise cADDR_RANGE s.core.ssp
  | some base => match s.core.stall with
    | .pushing k locs => State.pushOn locs base (s.regRange f l) 5 k s
    | _ => match s.locateRange base (8 * n) .store with
      | .wait s1 => s1.waits
      | .fault cs t s1 => s1.raise cs t
      | .ok locs s1 => match locs.findSome? fun x => s1.ownWatch x.1 x.2.2 x.2.1 with
        | some t => s1.raise cWATCH t
        | none =>
          if s1.core.storeRoom n then ((s1.pushWords locs base (s1.regRange f l)).modCore fun u => { u with ssp := base }).fin
          else State.pushOn locs base (s1.regRange f l) 5 0 s1

/-- The loads of a POPM. -/
def State.popWords (s : State) (locs : List (Word × Nat × Loc)) (p : Word) : Nat → Acc (List Word)
  | 0 => .ok [] s
  | n + 1 => match s.readLoc p (locAt locs p) 8 0 with
    | .wait s1 => .wait s1
    | .fault c t s1 => .fault c t s1
    | .ok bs s1 => match State.popWords s1 locs (p + 8#64) n with
      | .ok vs s2 => .ok (loadedValue 8 false bs :: vs) s2
      | r => r

/-- The pages of a POPM that the L1 does not hold whole (05 R93). -/
def State.popAsks (s : State) (locs : List (Word × Nat × Loc)) : List (Loc × Nat) :=
  (locs.filter fun x => (List.range (x.2.1 / 8)).any fun i => (s.l1Line (x.2.2.plus (8 * i)) 0).isNone).map fun x => (x.2.2, x.2.1)

/-- Write consecutive registers. -/
def State.setRegs (s : State) (f : Nat) : List Word → State
  | [] => s
  | v :: r => State.setRegs (s.setReg (BitVec.ofNat 6 f) v) (f + 1) r

/-- POPM (R56, R57). -/
def execPopm (f l : RegNo) (s : State) : Out :=
  let n := l.toNat - f.toNat + 1
  match ptrAdd s.core.ssp (8 * (n : Int)) with
  | none => s.raise cADDR_RANGE s.core.ssp
  | some top => match s.locateRange s.core.ssp (8 * n) .load with
    | .wait s1 => s1.waits
    | .fault cs t s1 => s1.raise cs t
    | .ok locs s1 => match s1.remoteGates (s1.popAsks locs) with
      | .wait s2 => s2.waits .remote
      | .fail c s2 => s2.raise c s2.core.ssp
      | .go s2 => match s2.orderBefore 0 none with
        | .error s3 => s3.waits
        | .ok s3 => match s3.popWords locs s3.core.ssp n with
          | .wait s4 => s4.waits
          | .fault c t s4 => s4.raise c t
          | .ok vs s4 => ((s4.setRegs f.toNat vs).modCore fun u => { u with ssp := top, seq := u.seq + 1 }).fin

/-- FENCE (R63): a release waits for the stores of the masked classes; earlier loads have returned (log 3). -/
def execFence (k : BitVec 2) (sc : BitVec 3) (m : BitVec 16) (s : State) : Out :=
  let acq := fun (s : State) => if k = 2#2 then s.fin else (s.acquire sc.toNat).fin
  if k = 1#2 then acq s
  else match s.release (classMask m) with
    | .error s1 => s1.waits
    | .ok s1 => acq s1

/-- TDLD (07 R133): the image's reserved bits are ignored. A memory-side unit has no descriptors (10 R205, log 37). -/
def execTdld (t : TileNo) (b : RegNo) (c : BitVec 4) (o : BitVec 8) (s : State) : Out :=
  if classOf s.cur = 2 then s.illegal
  else match ptrAdd (s.reg b) (o.toInt * 16) with
    | none => s.raise cADDR_RANGE (s.reg b)
    | some p => match s.loadBytes p 16 c.toNat 0 with
      | .wait s1 => s1.waits
      | .fault cs x s1 => s1.raise cs x
      | .ok bs s1 => (s1.modCore fun u => { u with tds := u.tds.set! t.toNat (tileImageOf (natOf bs)) }).fin

/-- TDST (07 R133). -/
def execTdst (t : TileNo) (b : RegNo) (c : BitVec 4) (o : BitVec 8) (s : State) : Out :=
  if classOf s.cur = 2 then s.illegal
  else match ptrAdd (s.reg b) (o.toInt * 16) with
    | none => s.raise cADDR_RANGE (s.reg b)
    | some p => match s.storeBytes p (bytesOf 16 (s.td t).toNat) 16 c.toNat 0 with
      | .wait s1 => .next s1
      | .fault cs x s1 => s1.raise cs x
      | .ok _ s1 => s1.fin

end Sys2Proof.Machine
end

