-- ==== Sys2Proof/Machine/Atomic.lean ====
section
/-!
DEFINITION. Atomic words (02 R58–R62).
-/
namespace Sys2Proof.Machine

/-- An atomic word (R58): release, access, acquire. f gives the new value of n bytes, or none for no write; out takes the
old bytes to the registers. -/
def atomicOp (n : Nat) (r : BitVec 2) (a : RegNo) (c : BitVec 4) (f : Nat → Option Nat) (out : Nat → State → State) (s : State) : Out :=
  let body := fun (s : State) => match s.atomicBytes (s.reg a) n c.toNat (fun old => (f (natOf old)).map (bytesOf n)) with
    | .wait s1 => s1.waits
    | .fault cs t s1 => s1.raise cs t
    | .ok old s1 => (out (natOf old) (s1.acquire (arScope r))).fin
  if r = 0#2 then body s else s.afterRelease body

/-- The old value as gD takes it: a 32-bit atomic sign-extends it. -/
def oldValue (n old : Nat) : Word := if n = 4 then sext 32 (BitVec.ofNat 32 old) else BitVec.ofNat 64 old

/-- A fetch-and-op word on n bytes. -/
def amo (n : Nat) (g : BitVec (8 * n) → BitVec (8 * n) → BitVec (8 * n)) (r : BitVec 2) (d a b : RegNo) (c : BitVec 4) (s : State) : Out :=
  atomicOp n r a c (fun old => some (g (BitVec.ofNat (8 * n) old) ((s.reg b).setWidth (8 * n))).toNat) (fun old s => s.setReg d (oldValue n old)) s

/-- A compare-and-swap word on n bytes (R59). -/
def casOp (n : Nat) (r : BitVec 2) (d a b : RegNo) (c : BitVec 4) (s : State) : Out :=
  atomicOp n r a c (fun old => if old = (s.reg d).toNat % 2 ^ (8 * n) then some ((s.reg b).toNat % 2 ^ (8 * n)) else none)
    (fun old s => s.setReg d (oldValue n old)) s

/-- AMOSWAP on 4 bytes (Table 15). -/
def execAmoswapW (r : BitVec 2) (d a b : RegNo) (c : BitVec 4) (s : State) : Out := amo 4 (fun _ y => y) r d a b c s

/-- AMOSWAP on 8 bytes (Table 15). -/
def execAmoswapD (r : BitVec 2) (d a b : RegNo) (c : BitVec 4) (s : State) : Out := amo 8 (fun _ y => y) r d a b c s

/-- AMOADD on 4 bytes (Table 15). -/
def execAmoaddW (r : BitVec 2) (d a b : RegNo) (c : BitVec 4) (s : State) : Out := amo 4 (fun x y => x + y) r d a b c s

/-- AMOADD on 8 bytes (Table 15). -/
def execAmoaddD (r : BitVec 2) (d a b : RegNo) (c : BitVec 4) (s : State) : Out := amo 8 (fun x y => x + y) r d a b c s

/-- AMOAND on 4 bytes (Table 15). -/
def execAmoandW (r : BitVec 2) (d a b : RegNo) (c : BitVec 4) (s : State) : Out := amo 4 (fun x y => x &&& y) r d a b c s

/-- AMOAND on 8 bytes (Table 15). -/
def execAmoandD (r : BitVec 2) (d a b : RegNo) (c : BitVec 4) (s : State) : Out := amo 8 (fun x y => x &&& y) r d a b c s

/-- AMOOR on 4 bytes (Table 15). -/
def execAmoorW (r : BitVec 2) (d a b : RegNo) (c : BitVec 4) (s : State) : Out := amo 4 (fun x y => x ||| y) r d a b c s

/-- AMOOR on 8 bytes (Table 15). -/
def execAmoorD (r : BitVec 2) (d a b : RegNo) (c : BitVec 4) (s : State) : Out := amo 8 (fun x y => x ||| y) r d a b c s

/-- AMOXOR on 4 bytes (Table 15). -/
def execAmoxorW (r : BitVec 2) (d a b : RegNo) (c : BitVec 4) (s : State) : Out := amo 4 (fun x y => x ^^^ y) r d a b c s

/-- AMOXOR on 8 bytes (Table 15). -/
def execAmoxorD (r : BitVec 2) (d a b : RegNo) (c : BitVec 4) (s : State) : Out := amo 8 (fun x y => x ^^^ y) r d a b c s

/-- AMOMIN on 4 bytes (Table 15). -/
def execAmominW (r : BitVec 2) (d a b : RegNo) (c : BitVec 4) (s : State) : Out := amo 4 (fun x y => if x.slt y then x else y) r d a b c s

/-- AMOMIN on 8 bytes (Table 15). -/
def execAmominD (r : BitVec 2) (d a b : RegNo) (c : BitVec 4) (s : State) : Out := amo 8 (fun x y => if x.slt y then x else y) r d a b c s

/-- AMOMAX on 4 bytes (Table 15). -/
def execAmomaxW (r : BitVec 2) (d a b : RegNo) (c : BitVec 4) (s : State) : Out := amo 4 (fun x y => if x.slt y then y else x) r d a b c s

/-- AMOMAX on 8 bytes (Table 15). -/
def execAmomaxD (r : BitVec 2) (d a b : RegNo) (c : BitVec 4) (s : State) : Out := amo 8 (fun x y => if x.slt y then y else x) r d a b c s

/-- AMOMINU on 4 bytes (Table 15). -/
def execAmominuW (r : BitVec 2) (d a b : RegNo) (c : BitVec 4) (s : State) : Out := amo 4 (fun x y => if x.ult y then x else y) r d a b c s

/-- AMOMINU on 8 bytes (Table 15). -/
def execAmominuD (r : BitVec 2) (d a b : RegNo) (c : BitVec 4) (s : State) : Out := amo 8 (fun x y => if x.ult y then x else y) r d a b c s

/-- AMOMAXU on 4 bytes (Table 15). -/
def execAmomaxuW (r : BitVec 2) (d a b : RegNo) (c : BitVec 4) (s : State) : Out := amo 4 (fun x y => if x.ult y then y else x) r d a b c s

/-- AMOMAXU on 8 bytes (Table 15). -/
def execAmomaxuD (r : BitVec 2) (d a b : RegNo) (c : BitVec 4) (s : State) : Out := amo 8 (fun x y => if x.ult y then y else x) r d a b c s

/-- CAS on 4 bytes. -/
def execCasW (r : BitVec 2) (d a b : RegNo) (c : BitVec 4) (s : State) : Out := casOp 4 r d a b c s

/-- CAS on 8 bytes. -/
def execCasD (r : BitVec 2) (d a b : RegNo) (c : BitVec 4) (s : State) : Out := casOp 8 r d a b c s

/-- CAS2 on 16 bytes of register pairs (R60). -/
def execCas2 (r : BitVec 2) (d : BitVec 5) (a : RegNo) (b : BitVec 5) (c : BitVec 4) (s : State) : Out :=
  let d0 := pairReg d
  let b0 := pairReg b
  let both := fun (lo hi : RegNo) => (s.reg lo).toNat + (s.reg hi).toNat * 2 ^ 64
  atomicOp 16 r a c (fun old => if old = both d0 (nextReg d0) then some (both b0 (nextReg b0)) else none)
    (fun old s => (s.setReg d0 (BitVec.ofNat 64 old)).setReg (nextReg d0) (BitVec.ofNat 64 (old / 2 ^ 64))) s

/-- AMOFADD: FP32 addition to memory (R61). -/
def execAmofadd (r : BitVec 2) (d a b : RegNo) (c : BitVec 4) (s : State) : Out :=
  atomicOp 4 r a c (fun old => some (fadd32 old ((s.reg b).toNat % 2 ^ 32))) (fun old s => s.setReg d (oldValue 4 old)) s

end Sys2Proof.Machine
end

