-- ==== Sys2Proof/Machine/Sync.lean ====
section
/-!
DEFINITION. SYNC words (10 R193–R208): counters, barriers, waits, timelines, arrival words, spawns, YIELD, STEPEND and
checkpoints.
-/
namespace Sys2Proof.Machine

/-! ## Shared parts -/

/-- SYNC, CONT and STRM words, STEPEND and suspensions wait until every earlier packet of the unit is accepted (R194). -/
def State.afterPackets (s : State) (f : State → Out) : Out := if s.core.unit.packets ≠ 0 then s.waits else f s

/-- The checks on a SYNC pointer before the variable's kind (R193): die and offset, or the cause. -/
def State.syncPtr (s : State) (p : Word) : Except Nat (Nat × Nat) :=
  if spaceOf p ≠ 3 then .error cADDR_SPACE
  else if offOf p % 16 ≠ 0 then .error cMISALIGNED
  else match s.rankFault s.ctx s.cur 3 (rankField p) (offOf p) 16 with
    | some c => .error c
    | none => .ok (dieOf (resolveRank s.cur 3 (rankField p)), offOf p)

/-- Do a word on a SYNC variable; f gets the die, the offset and the variable. -/
def State.onVar (s : State) (p : Word) (f : Nat → Nat → Option SyncVar → State → Out) : Out :=
  s.afterPackets fun s => match s.syncPtr p with
    | .error c => s.raise c p
    | .ok (die, off) => if s.reaches (dieOf s.cur) die then f die off (s.syncVar die s.ctx off) s else s.waits

/-- Value of a counter. -/
def SyncVar.counter? (v : SyncVar) : Option Int := match v.kind with
  | .counter n => some n
  | _ => none

/-- TARGET, ARRIVED and PHASE of a barrier. -/
def SyncVar.barrier? (v : SyncVar) : Option (Nat × Nat × Nat) := match v.kind with
  | .barrier t a p => some (t, a, p)
  | _ => none

/-! ## Suspension of the unit in focus (R199, R214) -/

/-- Steps 1 and 2 of R214: stores drained, started commands done with the core's memories; the word waits for them. An engine
fault that is due is taken first, at the boundary before the word. -/
def State.quiesce (s : State) (f : State → Out) : Out :=
  let s1 := s.drain s.cur allClasses
  if !(s1.drained s1.cur allClasses) then .next { s1 with core := { s1.core with stall := if s1.core.stall = .none then .resource else s1.core.stall } }
  else
    let s2 := s1.settleEngines s1.cur
    if s2.core.faultDue then s2.waits
    else if !s2.settledEngines s2.cur then .next { s2 with core := { s2.core with stall := if s2.core.stall = .none then .resource else s2.core.stall } }
    else f s2

/-- How a pooled suspension ends: what it writes, and where its object goes. -/
def State.suspendPooled (s : State) (tval : Word) (k : State → Park) (park : ObjRec → State → Option State) : Out :=
  s.afterPackets fun s => s.quiesce fun s =>
    match s.popPool (dieOf s.cur) s.ctx s.core.objSize with
    | .none s1 => s1.raise cCONT_POOL tval
    | .bad c p s1 => s1.raise c p
    | .ok p s1 =>
      let x := s1.suspendInto s1.cur p (k s1)
      match park x.1 x.2 with
      | some s2 => .next s2
      | none => s.raise cSYNC_FULL tval

/-- The number of looks a wait has made. -/
def Core.looks (u : Core) : Nat := match u.stall with
  | .spin t => t
  | _ => 0

/-- What a BARARV .w remembers of its arrival. -/
def State.setArrived (s : State) (x : Option Arrived) : State := s.modCore fun u => { u with unit := { u.unit with arvDone := x } }

/-- A wait word (R199): satisfied, it acquires and completes; else it spins, and suspends when SPINL looks have failed or a
pre-emption request is pending (24 R385). -/
def State.waitWord (s : State) (sat : Bool) (scope : Nat) (tval : Word) (k : State → Park) (park : ObjRec → State → Option State) : Out :=
  if sat then ((s.acquire scope).setArrived none).fin
  else if s.core.ctl.spinl ≤ s.core.looks ∨ s.core.ctl.prq = true then s.suspendPooled tval k park
  else .next { s with core := { s.core with stall := .spin (s.core.looks + 1) } }

/-- Park an object on a variable of a die; none is SYNC_FULL (R192, R200). -/
def parkVar (die ctx off : Nat) (o : ObjRec) (s : State) : Option State :=
  match s.syncVar die ctx off with
  | none => some (s.enqueueObj o)
  | some v => (s.syncRoom die ctx 16).map fun s => s.parkOn die v o

/-! ## Counters and barriers (R196, R197) -/

/-- CTRINIT. -/
def execCtrinit (a b : RegNo) (s : State) : Out :=
  s.onVar (s.reg a) fun die off v s => s.afterRelease fun s =>
    if (v.map fun x => !x.waiters.isEmpty).getD false then s.raise cSYNC_BUSY (s.reg a)
    else match s.initVar die s.ctx off (.counter (s.reg b).toInt) with
      | some s1 => s1.fin
      | none => s.raise cSYNC_FULL (s.reg a)

/-- CTRSIG. -/
def execCtrsig (d a b : RegNo) (s : State) : Out :=
  s.onVar (s.reg a) fun die _ v s =>
    match v.bind SyncVar.counter?, v with
    | some old, some x => s.afterRelease fun s => (s.signalVar die x old (s.reg b).toInt).writes d (BitVec.ofInt 64 old)
    | _, _ => s.raise cSYNC_KIND (s.reg a)

/-- CTRRD: orders nothing. -/
def execCtrrd (d a : RegNo) (s : State) : Out :=
  s.onVar (s.reg a) fun die _ v s =>
    match v.bind SyncVar.counter?, v with
    | some n, some x => (s.useVar die x).writes d (BitVec.ofInt 64 n)
    | _, _ => s.raise cSYNC_KIND (s.reg a)

/-- CTRWAIT: satisfied while the counter is at most 0. -/
def execCtrwait (a : RegNo) (s : State) : Out :=
  let p := s.reg a
  s.onVar p fun die off v s =>
    match v.bind SyncVar.counter?, v with
    | some n, some x => (s.useVar die x).waitWord (decide (n ≤ 0)) 3 p (fun s => { cause := 1, pc := s.core.pc, waiton := p }) (parkVar die s.ctx off)
    | _, _ => s.raise cSYNC_KIND p

/-- BARINIT. -/
def execBarinit (a b : RegNo) (s : State) : Out :=
  s.onVar (s.reg a) fun die off v s => s.afterRelease fun s =>
    if (v.map fun x => !x.waiters.isEmpty).getD false then s.raise cSYNC_BUSY (s.reg a)
    else if (s.reg b).toNat = 0 ∨ 2 ^ 32 ≤ (s.reg b).toNat then s.raise cOPERAND 0#64
    else match s.initVar die s.ctx off (.barrier (s.reg b).toNat 0 0) with
      | some s1 => s1.fin
      | none => s.raise cSYNC_FULL (s.reg a)

/-- The wait part of BARWAIT and BARARV .w: until PHASE differs from a value. -/
def State.barWaitFor (s : State) (p : Word) (die off phase now : Nat) : Out :=
  s.waitWord (decide (now ≠ phase)) 3 p (fun s => { cause := 2, pc := s.core.pc, waiton := p, waitval := BitVec.ofNat 64 phase }) (parkVar die s.ctx off)

/-- BARARV: the arrival, and with .w the wait for the next phase. One that has arrived only waits (R199). -/
def execBararv (d a : RegNo) (w : BitVec 1) (s : State) : Out :=
  let p := match s.core.arrived with
    | some x => x.var
    | none => s.reg a
  s.onVar p fun die off v s =>
    match v.bind SyncVar.barrier?, v with
    | some (target, n, phase), some x =>
      match s.core.arrived with
      | some y => (s.useVar die x).barWaitFor p die off y.phase phase
      | none => s.afterRelease fun s =>
        let s1 := (s.arriveBar die x target n phase).setReg d (BitVec.ofNat 64 phase)
        if w = 0#1 then s1.fin
        else
          let now := match (s1.syncVar die s1.ctx off).bind SyncVar.barrier? with
            | some (_, _, ph) => ph
            | none => phase
          (s1.setArrived (some { pc := s1.core.pc, var := p, phase := phase })).barWaitFor p die off phase now
    | _, _ => (s.setArrived none).raise cSYNC_KIND p

/-- BARWAIT: until PHASE differs from g[b][31:0]. -/
def execBarwait (a b : RegNo) (s : State) : Out :=
  let p := s.reg a
  s.onVar p fun die off v s =>
    match v.bind SyncVar.barrier?, v with
    | some (_, _, phase), some x => ((s.useVar die x).setArrived none).barWaitFor p die off ((s.reg b).toNat % 2 ^ 32) phase
    | _, _ => s.raise cSYNC_KIND p

/-! ## Timelines (R202) -/

/-- The engine of an m code. -/
def engOfCode (e : BitVec 2) : EngId := if e = 0#2 then .cpe else if e = 1#2 then .mat else .vec

/-- A die in the context's die mask of another package, which stands in the table at PDMASKS (21 R348, 25 Table 135). -/
def State.pkgAllowed (s : State) (ctx pkg die : Nat) : Bool :=
  match s.ctx? ctx with
  | some c => match (s.tableRead (dieOf s.cur) ctx (c.pdmasks + 8 * pkg)).1 with
    | .ok m => bitAt m die
    | .error _ => false
  | none => false

/-- The fields of a sluice-channel handle (17 Table 90): source die, channel, destination package and die. -/
def handleParts (h : Word) : Option (Nat × Nat × Nat × Nat) :=
  let v := h.toNat
  let sd := bitsAt v 8 6
  let dd := bitsAt v 16 6
  let pk := bitsAt v 22 8
  if 2 ^ 30 ≤ v ∨ bitsAt v 14 2 ≠ 0 ∨ bitsAt v 4 4 ≠ 0 then none
  else if !isDie sd || !isDDie dd || decide (191 < pk) then none
  else some (sd, v % 16, pk, dd)

/-- A handle that the context may use; none is OPERAND_INVALID. -/
def State.channelHandle (s : State) (h : Word) : Option (Nat × Nat × Nat × Nat) := match handleParts h with
  | none => none
  | some (sd, ch, pk, dd) =>
    if (pk = s.fab.pkg ∧ s.dieAllowed s.ctx dd = false) ∨ s.portRefuses s.ctx (pk * 2 ^ 41) = true
      ∨ (pk ≠ s.fab.pkg ∧ s.pkgAllowed s.ctx pk dd = false) then none
    else some (sd, ch, pk, dd)

/-- A handle to another package calls for a read of the context's table of die masks; one that lies in another package sends
its request first (21 R347; log 132). -/
def State.handleAsks (s : State) (h : Word) : State := match handleParts h, s.ctx? s.ctx with
  | some (_, _, pk, _), some c =>
    if pk = s.fab.pkg ∨ s.portRefuses s.ctx (pk * 2 ^ 41) = true then s
    else
      let r := (s.tableRead (dieOf s.cur) s.ctx (c.pdmasks + 8 * pk)).2
      { s with fab := r.fab, held := r.held }
  | _, _ => s

/-- Do a word on a handle, once its table can be read. -/
def State.onHandle (s : State) (h : Word) (f : State → Out) : Out :=
  let s1 := s.handleAsks h
  if s1.held && !s.held then .next s1 else f s1

/-- Numbers 1 to n of a channel's counter have all completed. -/
def completedUpto (done : List Nat) : Nat → Nat
  | 0 => 0
  | n + 1 => if (List.range (n + 1)).all fun i => decide (i + 1 ∈ done) then n + 1 else completedUpto done n

def SlTimeline.completed (t : SlTimeline) : Nat := completedUpto t.done t.issued

/-- The counter of a channel of a context (17 R299): 0 when the context has sent nothing on it. -/
def State.slTimeline (s : State) (die ch ctx : Nat) : SlTimeline :=
  ((s.die die).slTime.find? fun t => decide (t.ctx = ctx) && decide (t.chan = ch)).getD { ctx := ctx, chan := ch }

def State.putSlTimeline (s : State) (die : Nat) (t : SlTimeline) : State :=
  s.modDie die fun d => { d with slTime := t :: d.slTime.filter fun x => !(decide (x.ctx = t.ctx) && decide (x.chan = t.chan)) }

/-- TLWAIT. -/
def execTlwait (sc a b : RegNo) (e : BitVec 2) (s : State) : Out :=
  s.afterPackets fun s =>
    let n := (s.reg a).toNat
    if e = 3#2 then s.onHandle (s.reg b) fun s =>
      match s.channelHandle (s.reg b) with
      | none => s.raise cOPERAND 0#64
      | some (die, ch, _, _) =>
        let t := s.slTimeline die ch s.ctx
        if t.issued < n then s.raise cOPERAND 0#64
        else s.waitWord (decide (n ≤ t.completed)) sc.toNat 0#64 (fun s => { cause := 3, pc := s.core.pc, waiton := s.reg b, waitval := s.reg a })
          (fun o s => (s.syncRoom die o.ctx 16).map fun s =>
            let t := s.slTimeline die ch o.ctx
            s.putSlTimeline die { t with waiters := t.waiters ++ [o] })
    else
      let q := s.core.engine (engOfCode e)
      if q.issued < n then s.raise cOPERAND 0#64
      else s.waitWord (decide (n ≤ q.completed)) sc.toNat 0#64 (fun s => { cause := 3, pc := s.core.pc, waitval := s.reg a })
        (fun o s => if s.outst (dieOf s.cur) o.ctx o.ptr = 0 then some (s.enqueueObj o)
          else some (s.modDie o.hdie fun d => { d with homeWait := d.homeWait ++ [o] }))

/-- TLRD: orders nothing. -/
def execTlrd (d b : RegNo) (e : BitVec 2) (s : State) : Out :=
  s.afterPackets fun s =>
    if e = 3#2 then s.onHandle (s.reg b) fun s => match s.channelHandle (s.reg b) with
      | none => s.raise cOPERAND 0#64
      | some (die, ch, _, _) => s.writes d (BitVec.ofNat 64 (s.slTimeline die ch s.ctx).completed)
    else s.writes d (BitVec.ofNat 64 (s.core.engine (engOfCode e)).completed)

/-! ## Arrival words (R203) -/

/-- The checks on an arrival-word pointer: its offset in the core's own LOCAL memory. -/
def State.arrivalPtr (s : State) (p : Word) : Except Nat Nat :=
  if spaceOf p ≠ 2 then .error cADDR_SPACE
  else if offOf p % 16 ≠ 0 then .error cMISALIGNED
  else match s.rankFault s.ctx s.cur 2 (rankField p) (offOf p) 16 with
    | some c => .error c
    | none => if resolveRank s.cur 2 (rankField p) = s.cur then .ok (offOf p) else .error cOPERAND

/-- ARINIT: TARGET, COUNT := 0, OVF := 0; GEN stays. Earlier stores to the word come first (02 R53). -/
def execArinit (a b : RegNo) (s : State) : Out :=
  s.afterPackets fun s => match s.arrivalPtr (s.reg a) with
    | .error c => s.raise c (if c = cOPERAND then 0#64 else s.reg a)
    | .ok off =>
      if 2 ^ 32 ≤ (s.reg b).toNat then s.raise cOPERAND 0#64
      else match s.orderUpon (.lcl s.cur off) 16 with
      | .error s1 => s1.waits
      | .ok s =>
        let key := localKey s.cur off
        let gen := bitsAt (natOf (Memory.readZero s.mem key 16)) 64 32
        ({ s with mem := Memory.writeBytes s.mem key (bytesOf 16 ((s.reg b).toNat + gen * 2 ^ 64)) }).fin

/-- ARWAIT: satisfied when (GEN − g[b]) mod 2^32 < 2^31; its object is ready at once (Table 57). -/
def execArwait (a b : RegNo) (s : State) : Out :=
  s.afterPackets fun s => match s.arrivalPtr (s.reg a) with
    | .error c => s.raise c (if c = cOPERAND then 0#64 else s.reg a)
    | .ok off =>
      if 2 ^ 32 ≤ (s.reg b).toNat then s.raise cOPERAND 0#64
      else match s.orderUpon (.lcl s.cur off) 16 with
      | .error s1 => s1.waits
      | .ok s =>
        let gen := bitsAt (natOf (Memory.readZero s.mem (localKey s.cur off) 16)) 64 32
        let p := s.reg a
        s.waitWord (decide ((gen + 2 ^ 32 - (s.reg b).toNat) % 2 ^ 32 < 2 ^ 31)) 0 p
          (fun s => { cause := 4, pc := s.core.pc, waiton := p, waitval := s.reg b }) (fun o s => some (s.enqueueObj o))

/-! ## Spawns (R204) -/

/-- Send a packet; it is accepted at its target later, in the order of the unit's spawn words (R194). -/
def State.sendPacket (s : State) (d a : RegNo) (b : BitVec 5) (e : BitVec 2) (die : Nat) (core : Option Nat) (memSide : Bool) (away : Option Nat := none) : State :=
  let u := s.core
  let p : Packet := { ctx := s.ctx, entry := s.reg a, g1 := s.reg (pairReg b), g2 := s.reg (nextReg (pairReg b)),
                      fence := if e = 3#2 then none else some (u.unit.uid, engOfCode e, (s.reg d).toNat),
                      prio := u.unit.prio, sptop := u.unit.sptop, lkeep := u.ctl.lkeep }
  { s with spawns := s.spawns ++ [{ from_ := s.cur, die := die, core := core, memSide := memSide, away := away, pkt := p }],
           core := { u with unit := { u.unit with packets := u.unit.packets + 1 } } }

/-- The checks of a spawn word before its target: the entry by R10, the fence value. -/
def State.spawnChecks (s : State) (d a : RegNo) (e : BitVec 2) (f : State → Out) : Out :=
  s.afterPackets fun s =>
    if !targetOk (s.reg a) then s.raise cFETCH_ADDR (s.reg a)
    else if e ≠ 3#2 ∧ (s.core.engine (engOfCode e)).issued < (s.reg d).toNat then s.raise cOPERAND 0#64
    else f s

/-- SPAWN: the ready queue of the parent's die; a memory-side unit's own die's memory-side queue. -/
def execSpawn (d a : RegNo) (b : BitVec 5) (e : BitVec 2) (s : State) : Out :=
  s.spawnChecks d a e fun s => s.afterRelease fun s => (s.sendPacket d a b e (dieOf s.cur) none (classOf s.cur == 2)).fin

/-- SPAWND: the target by the space of g[b+1]; the home of a PA of another package of the domain is a die of that package. -/
def execSpawnd (d a : RegNo) (b : BitVec 5) (e : BitVec 2) (s : State) : Out :=
  s.spawnChecks d a e fun s =>
    let p := s.reg (nextReg (pairReg b))
    let send := fun (die : Nat) (core : Option Nat) (m : Bool) (s : State) => s.afterRelease fun s => (s.sendPacket d a b e die core m).fin
    if spaceOf p = 2 then match s.rankFault s.ctx s.cur 2 (rankField p) (offOf p) 1 with
      | some c => s.raise c p
      | none => let r := resolveRank s.cur 2 (rankField p); send (dieOf r) (some r) false s
    else if spaceOf p = 1 then match s.rankFault s.ctx s.cur 1 (rankField p) (offOf p) 1 with
      | some c => s.raise c p
      | none => send (dieOf (resolveRank s.cur 1 (rankField p))) none false s
    else if spaceOf p = 0 then match s.locate p 1 1 .load with
      | .wait s1 => s1.waits
      | .fault c t s1 => s1.raise c t
      | .ok (.global pa _) s1 =>
        if pkgOf pa = s1.fab.pkg then send (homeDie pa) none true s1
        else s1.afterRelease fun s => (s.sendPacket d a b e (homeDie pa) none true (some (pkgOf pa))).fin
      | .ok _ s1 => s1.raise cADDR_SPACE p
    else s.raise cADDR_SPACE p

/-! ## YIELD, STEPEND, checkpoints (R206–R208) -/

/-- The die's ready queue holds work of equal or higher priority. -/
def State.rivals (s : State) : Bool :=
  (if classOf s.cur = 2 then (s.die (dieOf s.cur)).memReady else (s.die (dieOf s.cur)).ready).any fun i => decide (s.core.unit.prio ≤ i.prio)

/-- YIELD. -/
def execYield (s : State) : Out :=
  s.afterPackets fun s =>
    if s.rivals || s.core.ctl.prq then
      s.quiesce fun s =>
        let s0 := s.done
        match s0.popPool (dieOf s0.cur) s0.ctx s0.core.objSize with
        | .none _ => s.raise cCONT_POOL 0#64
        | .bad c p s1 => { s1 with core := s.core }.raise c p
        | .ok p s1 =>
          let x := s1.suspendInto s1.cur p { cause := 5, pc := s1.core.pc }
          .next (x.2.enqueueObj x.1)
    else s.fin

/-- No engine command of the unit is queued or running. -/
def Core.enginesDone (u : Core) : Bool := u.cmdsAll.isEmpty

/-- The unit ends: held commands are dropped (24 R377), the rest complete, stores are acknowledged (R207). -/
def State.stepEnd (s : State) : Out :=
  s.afterPackets fun s =>
    let s1 := s.dropHeld s.cur
    if !s1.core.enginesDone then s1.waits
    else s1.afterRelease fun s => .next (s.endUnit s.cur)

/-- STEPEND. -/
def execStepend (s : State) : Out := s.stepEnd

/-- A unit may be written into the object: access, state, OUTST (R212, Table 60, R217). -/
def State.checkTarget (s : State) (p : Word) : Option (Nat × Word) × State :=
  match s.checkAccess (dieOf s.cur) s.ctx p s.core.objSize .atomic with
  | (some f, s1) => (some f, s1)
  | (none, s1) => match s1.cstate (dieOf s1.cur) s1.ctx p with
    | (.error c, s2) => (some (c, p), s2)
    | (.ok c, s2) =>
      let own := match s2.core.unit.origin with
        | some (q, v) => q == p && v == c.version
        | none => false
      ((writableState c own (s2.outst (dieOf s2.cur) s2.ctx p)).map fun f => (f, p), s2)

/-- Open an interval at an object: the unit is written into it and runs on (R208). -/
def State.openInterval (s : State) (p : Word) (pc : Word) : State :=
  let own := match s.core.unit.origin with
    | some (q, _) => q == p
    | none => false
  let s1 := ({ s with core := { s.core with unit := { s.core.unit with ckpt := none } } }.writeUnit s.cur p { cause := 7, pc := pc } 0).2
  let s2 := s1.modCore fun u => { u with unit := { u.unit with ckpt := some p, origin := if own then none else u.unit.origin } }
  s2.modCtx s2.ctx fun c => { c with ckptOpen := true, ckptOwner := some s2.cur, ckptObj := some p, undoUsed := 0, undoLines := [] }

/-- CHKOPEN: it waits until every engine command has completed. An interval that is open raises CHK_STATE before that wait (DESIGN
CHOICE, log 141: R208 orders neither before the other). -/
def execChkopen (a : RegNo) (s : State) : Out :=
  s.afterPackets fun s =>
    if s.intervalOpen s.ctx then s.raise cCHK_STATE (s.reg a)
    else if !s.core.enginesDone then s.waits
    else s.afterRelease fun s => match s.checkTarget (s.reg a) with
      | (some (c, t), s1) => s1.raise c t
      | (none, s1) =>
        let s2 := s1.done
        .next (s2.openInterval (s1.reg a) s2.core.pc)

/-- CHKCLOSE: only by the unit that opened the interval (24 R389). -/
def execChkclose (s : State) : Out :=
  s.afterPackets fun s => match s.ctx? s.ctx with
    | some c =>
      if c.ckptOpen && c.ckptOwner = some s.cur then
        ((s.closeInterval (dieOf s.cur) s.ctx).modCore fun u => { u with unit := { u.unit with ckpt := none } }).fin
      else s.raise cCHK_STATE (c.ckptObj.getD 0#64)
    | none => s.raise cCHK_STATE 0#64

end Sys2Proof.Machine
end

