-- ==== Sys2Proof/Machine/Cont.lean ====
section
/-!
DEFINITION. CONT words (10 R212–R217): SUSPEND, RESUME, CCOPY, CDISCARD, CQUERY, CRIGHTS.
-/
namespace Sys2Proof.Machine

/-! ## The checks of R212 -/

/-- check_access over all SIZE bytes of an object. -/
def State.contAccess (s : State) (p : Word) (kind : AccKind) : Option (Nat × Word) × State :=
  let die := dieOf s.cur
  match s.checkAccess die s.ctx p 256 kind with
  | (some f, s1) => (some f, s1)
  | (none, s1) => s1.checkAccess die s1.ctx p (max 256 (s1.objField die s1.ctx p 0x14)) kind

/-- Format, version, key and right of an object: the cause of the first failure. -/
def CState.refuses (c : CState) (access key rights : Nat) (right : Option Nat) : Option Nat :=
  if c.layout ≠ 1 then some cCONT_FORMAT
  else if access / 2 ^ 32 ≠ 0xFFFFFFFF ∧ access / 2 ^ 32 ≠ c.version then some cCONT_VERSION
  else if access % 2 ^ 32 ≠ key then some cCONT_KEY
  else match right with
    | some r => if bitAt rights r then none else some cCONT_KEY
    | none => none

/-- The checks of R212 on an object up to its state; TVAL is the object's pointer. -/
def State.contCheck (s : State) (p access : Word) (right : Option Nat) (kind : AccKind) : Except (Nat × Word) CState × State :=
  match s.contAccess p kind with
  | (some f, s1) => (.error f, s1)
  | (none, s1) =>
    let die := dieOf s1.cur
    match s1.cstate die s1.ctx p with
    | (.error c, s2) => (.error (c, p), s2)
    | (.ok c, s2) => match c.refuses access.toNat (s2.objField die s2.ctx p 0x08) (s2.objField die s2.ctx p 0x0C) right with
      | some f => (.error (f, p), s2)
      | none => (.ok c, s2)

/-- Do a CONT word on an object that passes the checks. -/
def State.onObject (s : State) (p access : Word) (right : Option Nat) (kind : AccKind) (f : CState → State → Out) : Out :=
  s.afterPackets fun s => match s.contCheck p access right kind with
    | (.error (c, t), s1) => s1.raise c t
    | (.ok c, s1) => f c s1

/-! ## SUSPEND (R213) -/

/-- SUSPEND: the unit goes into the object and its core is free; the object is not enqueued. -/
def execSuspend (d a b : RegNo) (s : State) : Out :=
  let v := (s.reg b).toNat
  s.afterPackets fun s =>
    if 2 ^ 36 ≤ v then s.raise cOPERAND 0#64
    else s.quiesce fun s => match s.checkTarget (s.reg a) with
      | (some (c, t), s1) => s1.raise c t
      | (none, s1) =>
        let s2 := s1.done
        .next (s2.suspendInto s2.cur (s1.reg a) { cause := 0, pc := s2.core.pc, key := v % 2 ^ 32, rights := v / 2 ^ 32, dst := some d.toNat }).2

/-! ## RESUME (R215) -/

/-- An object of a class is one that cores of a die take: a D-die takes those of its memory-side units too (log 41). -/
def classFits (die cls : Nat) : Bool := if isPDie die then decide (cls = 0) else decide (cls = 1) || decide (cls = 2)

/-- PARKED → RUNNING by RESUME with HDIE the issuing unit's die, and the record for it. -/
def State.resumeObj (s : State) (p : Word) (c : CState) (v : Word) : ObjRec × State :=
  let die := dieOf s.cur
  let c1 : CState := { c.to sRUNNING with hdie := die }
  let bound := (s.parkedInfo s.ctx p).bind (·.bound)
  ({ ctx := s.ctx, ptr := p, version := c1.version, running := true, cls := c.cls, prio := c.prio,
     hdie := match bound with
       | some r => dieOf r
       | none => die,
     boundTo := bound, value := some v }, s.putCState die s.ctx p c1)

/-- RESUME, and RESUME .now: the issuing unit ends and its core takes the object at once, unless a group holds the core or
the object (14 R260), or the object is a stage of a saved group, which runs when the group is restored (14 R261). -/
def execResume (a : RegNo) (b : BitVec 5) (n : BitVec 1) (s : State) : Out :=
  let p := s.reg a
  let v := s.reg (nextReg (pairReg b))
  s.onObject p (s.reg (pairReg b)) (some 0) .atomic fun c s =>
    if c.state ≠ sPARKED then s.raise cCONT_STATE p
    else if (if n = 1#1 then c.cls != classOf s.cur else !classFits (dieOf s.cur) c.cls) = true then s.raise cCONT_CLASS p
    else if n = 0#1 then s.afterRelease fun s =>
      let r := s.resumeObj p c v
      (r.2.enqueueObj r.1).fin
    else
      let s1 := s.dropHeld s.cur
      if !s1.core.enginesDone then s1.waits
      else s1.afterRelease fun s =>
        let r := s.resumeObj p c v
        let s2 := r.2.endUnit r.2.cur
        if s2.core.heldFor.isSome || s2.inImage r.1.ctx r.1.ptr || (r.1.boundTo.isSome && r.1.boundTo != some s2.cur) then .next (s2.enqueueObj r.1)
        else .next ((s2.modCore fun u => { u with starting := some r.1 }).dieEvent (dieOf s2.cur) 4 1)

/-! ## CCOPY, CDISCARD, CQUERY, CRIGHTS (R216, R217) -/

/-- The image of a copied object goes into the destination, which is left PARKED. -/
def State.copyObj (s : State) (src dest : Word) (sc dc : CState) (bs : List Byte) : State :=
  let die := dieOf s.cur
  let img := patch (patch bs 0x10 (zeros 4)) 0x74 (zeros 12)
  let s2 := (s.ctxWrite die s.ctx (dest.toNat + 8) (img.drop 8)).2
  let c2 : CState := { sc with version := (dc.to sPARKED).version, state := sPARKED, pool := dc.pool }
  let s3 := s2.putCState die s2.ctx dest c2
  match s3.parkedInfo s3.ctx src with
  | some x => { s3.forgetPark s3.ctx dest with parked := { x with ptr := dest, sweep := 0, uid := 0, bound := none, faults := [] } :: (s3.forgetPark s3.ctx dest).parked }
  | none => s3.forgetPark s3.ctx dest

/-- A copy that fails leaves its destination DISCARDED. -/
def State.failCopy (s : State) (dest : Word) (dc : CState) (cause : Nat) (tval : Word) : Out :=
  (s.putCState (dieOf s.cur) s.ctx dest (dc.to sDISCARDED)).raise cause tval

/-- The end of a copy: the source must have the VERSION it had at the start (R216). -/
def State.endCopy (s : State) (src dest : Word) (version : Nat) : Out :=
  let die := dieOf s.cur
  match s.cstate die s.ctx dest with
  | (.error c, s1) => s1.raise c dest
  | (.ok dc, s1) => match s1.cstate die s1.ctx src with
    | (.error c, s2) => s2.failCopy dest dc c src
    | (.ok sc, s2) =>
      if sc.version ≠ version then s2.failCopy dest dc cCONT_STATE src
      else match s2.ctxRead die s2.ctx src.toNat (max 256 (s2.objField die s2.ctx src 0x14)) with
        | (.error c, s3) => s3.failCopy dest dc c src
        | (.ok bs, s3) => (s3.copyObj src dest sc dc bs).fin

/-- The start of a copy: the checks, and the destination passes to WRITING; the source may change until the end. -/
def State.startCopy (s : State) (src dest access : Word) : Out :=
  s.onObject src access (some 1) .load fun sc s =>
    let die := dieOf s.cur
    match s.checkAccess die s.ctx dest (max 256 (s.objField die s.ctx src 0x14)) .atomic with
    | (some (c, t), s1) => s1.raise c t
    | (none, s1) => match s1.cstate die s1.ctx dest with
      | (.error c, s2) => s2.raise c dest
      | (.ok dc, s2) =>
        if sc.state ≠ sPARKED then s2.raise cCONT_STATE src
        else if dc.state ≠ sFREE ∧ dc.state ≠ sDISCARDED then s2.raise cCONT_STATE dest
        else if s2.outst die s2.ctx src ≠ 0 then s2.raise cCONT_INFLIGHT src
        else if s2.outst die s2.ctx dest ≠ 0 then s2.raise cCONT_INFLIGHT dest
        else (s2.putCState die s2.ctx dest (dc.to sWRITING)).waits (.copying sc.version)

/-- CCOPY: it starts, and at the unit's next turn it ends. -/
def execCcopy (d a b : RegNo) (s : State) : Out :=
  match s.core.stall with
  | .copying v => s.endCopy (s.reg a) (s.reg d) v
  | _ => s.startCopy (s.reg a) (s.reg d) (s.reg b)

/-- CDISCARD: PARKED → DISCARDED; no outgoing command is cancelled. -/
def execCdiscard (a b : RegNo) (s : State) : Out :=
  let p := s.reg a
  s.onObject p (s.reg b) (some 2) .atomic fun c s =>
    if c.state ≠ sPARKED then s.raise cCONT_STATE p
    else ((s.putCState (dieOf s.cur) s.ctx p (c.to sDISCARDED)).forgetPark s.ctx p).fin

/-- CQUERY: a bypass load of class 0 of CSTATE. -/
def execCquery (d a b : RegNo) (s : State) : Out :=
  let p := s.reg a
  s.onObject p (s.reg b) (some 3) .load fun _ s => match s.orderBefore 0 none with
    | .error s1 => s1.waits
    | .ok s1 => match s1.cstate (dieOf s1.cur) s1.ctx p with
      | (.error c, s2) => s2.raise c p
      | (.ok c, s2) => s2.writes d (BitVec.ofNat 64 c.pack)

/-- CRIGHTS: KEY and RIGHTS in any state but WRITING and FREE; VERSION stays. The write is undo-logged like any other (24 R389). A
value of g[b+1] with bits 63:36 nonzero raises OPERAND_INVALID before the checks on the object (DESIGN CHOICE, log 142: R217 orders
neither before the other). -/
def execCrights (a : RegNo) (b : BitVec 5) (s : State) : Out :=
  let p := s.reg a
  let v := (s.reg (nextReg (pairReg b))).toNat
  if 2 ^ 36 ≤ v then s.afterPackets fun s => s.raise cOPERAND 0#64
  else s.onObject p (s.reg (pairReg b)) none .atomic fun c s =>
    if c.state = sWRITING ∨ c.state = sFREE then s.raise cCONT_STATE p
    else (s.ctxWriteLogged (dieOf s.cur) s.ctx (p.toNat + 8) (bytesOf 8 v)).2.fin

end Sys2Proof.Machine
end

