-- ==== Sys2Proof/Machine/Cpe.lean ====
section
/-!
DEFINITION. Issuing engine words (02 R34, 07 R131, R136, R143) and the words of the copy engine (07 R135–R147). What a
command does when it executes stands in EngineRun.lean.
-/
namespace Sys2Proof.Machine

/-- A fault found at issue: its cause and TVAL. -/
abbrev IssueFault := Option (Nat × Word)

/-- The first fault of a list of checks. -/
def firstFault (l : List IssueFault) : IssueFault := l.findSome? id

/-- A check that fails with a cause and TVAL 0. -/
def failIf (b : Bool) (cause : Nat) : IssueFault := if b then some (cause, 0#64) else none

/-- A check that fails with a cause and an address. -/
def failAt (b : Bool) (cause : Nat) (p : Word) : IssueFault := if b then some (cause, p) else none

/-- R131 on a descriptor in ordinary role. -/
def State.tileFault (s : State) (d : BitVec 128) : IssueFault := ((tileOf d).fault (localSize s.cur)).map fun c => (c, 0#64)

/-- R131 on a descriptor in weight-buffer role (08 R155). -/
def State.wbFault (s : State) (d : BitVec 128) : IssueFault := ((tileOf d).fault (wbSize s.cur) true).map fun c => (c, 0#64)

/-- Equal ROWS, COLS, FMT and SC. -/
def sameShape (a b : Tile) : Bool := a.rows == b.rows && a.cols == b.cols && a.fmt == b.fmt && a.sc == b.sc

/-- The checks of R136 on a memory pointer. -/
def memPtrFault (p : Word) : IssueFault :=
  if 3 ≤ spaceOf p then some (cADDR_SPACE, p)
  else if spaceOf p = 0 ∧ 2 ^ 57 ≤ p.toNat then some (cADDR_RANGE, p)
  else if p.toNat % 16 ≠ 0 then some (cMISALIGNED, p)
  else none

/-- A GLOBAL operand of n bytes leaves its offset field (R136, 02 R44). -/
def extentFault (p : Word) (n : Nat) : IssueFault := failAt (decide (spaceOf p = 0) && decide (2 ^ 57 < p.toNat + n)) cADDR_RANGE p

/-! ## Queueing -/

/-- The command of the word in execution, before its operands. -/
def State.newCmd (s : State) : Cmd := { word := s.core.ir.word, num := 0, seq := s.core.seq, idx := s.core.cmds, pos := s.core.pc }

/-- Place a command in a queue; it is the next in program order. -/
def Core.queueCmd (u : Core) (e : EngId) (c : Cmd) : Core := ({ u with seq := u.seq + 1, cmds := u.cmds + 1 }).modEngine e fun q => q.push c

/-- Issue an engine word (02 R34): a memory-side unit has no engine (10 R205); a full queue makes the word wait. -/
def State.engineWord (s : State) (e : EngId) (chk : IssueFault) (c : Cmd) : Out :=
  if classOf s.cur = 2 then s.illegal
  else if (s.core.engine e).full then s.waits .full
  else match chk with
    | some (cs, t) => s.raise cs t
    | none => (s.modCore fun u => u.queueCmd e c).fin

/-! ## Matrix words at issue (08 R153–R165), which a copy may attach -/

/-- Table 43: formats of A, of a LOCAL B and of a B in the weight buffer. -/
def aFormat (f : Nat) : Bool := f == 1 || (decide (2 ≤ f) && decide (f ≤ 8))
def bFormat (wb : Bool) (f : Nat) : Bool := aFormat f || (wb && f == fVQ2)

/-- The limits of R154 on a shape register. A follower half of an MMAP names no A. -/
def shapeFault (v : Word) (a : Option Tile) (b d : Tile) : Bool :=
  let x := shapeOf v
  decide (2 ^ 49 ≤ v.toNat) || x.m == 0 || x.n == 0 || x.k == 0 || decide (d.rows < x.m) || decide (d.cols < x.n)
    || (match a with
        | some t => decide (t.rows < x.m) || decide (t.cols < x.k)
        | none => false)
    || (if x.bt then decide (b.rows < x.n) || decide (b.cols < x.k) else decide (b.rows < x.k) || decide (b.cols < x.n))

/-- One past the highest byte of a tile. -/
def Tile.top (t : Tile) : Nat := max (t.off + t.span) (if t.sc then t.sco + t.scaleBytes else 0)

/-- The bytes of a tile as ranges: each row, and the scales. -/
def Tile.ranges (t : Tile) : List (Nat × Nat) :=
  (List.range t.rows).map (fun r => (t.off + r * t.stride, t.rb)) ++ (if t.sc then [(t.sco, t.scaleBytes)] else [])

/-- A byte of the rows or scales of one tile is a byte of those of another. -/
def tilesMeet (s t : Tile) : Bool := s.ranges.any fun x => t.ranges.any fun y => rangesMeet x.1 x.2 y.1 y.2

/-- WHW and the codebook's validity once every queued WBLD and CBLD has completed (08 R156). -/
def Core.whwAhead (u : Core) : Nat := u.mat.queue.foldl (fun n c => match decode c.word with
  | .ok (.wbld _ _) => max n (tileOf c.d0).top
  | _ => n) u.ctl.whw
def Core.bookAhead (u : Core) : Bool := u.codebook.valid || u.mat.queue.any fun c => match decode c.word with
  | .ok (.cbld _) => true
  | _ => false

/-- The checks of a compute word (R131, R153, R154, R156). -/
def State.computeFault (s : State) (d : BitVec 128) (a : Option (BitVec 128)) (b : BitVec 128) (g : Word) (wb : Bool) : IssueFault :=
  let td := tileOf d
  let tb := tileOf b
  let ta := a.map tileOf
  firstFault [
    s.tileFault d, a.bind s.tileFault, if wb then s.wbFault b else s.tileFault b,
    failIf (td.fmt != fFP32 || td.sc) cFORMAT,
    failIf ((ta.map fun t => !aFormat t.fmt).getD false) cFORMAT,
    failIf (!bFormat wb tb.fmt) cFORMAT,
    failIf (shapeFault g ta tb td) cOPERAND,
    failIf (((ta.map fun t => tilesMeet td t).getD false) || (!wb && tilesMeet td tb)) cTILE,
    failIf (wb && (decide (s.core.whwAhead < tb.top) || (tb.fmt == fVQ2 && !s.core.bookAhead))) cWB_UNLOADED]

/-- The checks of a matrix word at issue. -/
def State.matFault (s : State) : Instr → IssueFault
  | .mma d a b g w => s.computeFault (s.td d) (some (s.td a)) (s.td b) (s.reg g) (w == 1#1)
  | .mvm d a b g w => s.computeFault (s.td d) (some (s.td a)) (s.td b) (s.reg g) (w == 1#1)
  | .mmapLead d a b g => s.computeFault (s.td d) (some (s.td a)) (s.td b) (s.reg g) true
  | .mmapFol d b g => s.computeFault (s.td d) none (s.td b) (s.reg g) true
  | .wbld d a => firstFault [s.wbFault (s.td d), s.tileFault (s.td a), failIf (!sameShape (tileOf (s.td d)) (tileOf (s.td a))) cTILE]
  | .cbld a =>
    let t := tileOf (s.td a)
    firstFault [s.tileFault (s.td a), failIf (t.fmt != fUINT32 || t.sc || t.rows * t.cols != 256) cOPERAND]
  | .mzero d =>
    let t := tileOf (s.td d)
    firstFault [s.tileFault (s.td d), failIf (t.fmt != fFP32 || t.sc) cFORMAT]
  | _ => none

/-- R131 on the descriptors of a matrix word. -/
def State.matTiles (s : State) : Instr → IssueFault
  | .mma d a b _ w => firstFault [s.tileFault (s.td d), s.tileFault (s.td a), if w = 1#1 then s.wbFault (s.td b) else s.tileFault (s.td b)]
  | .mvm d a b _ w => firstFault [s.tileFault (s.td d), s.tileFault (s.td a), if w = 1#1 then s.wbFault (s.td b) else s.tileFault (s.td b)]
  | .mmapLead d a b _ => firstFault [s.tileFault (s.td d), s.tileFault (s.td a), s.wbFault (s.td b)]
  | .mmapFol d b _ => firstFault [s.tileFault (s.td d), s.wbFault (s.td b)]
  | .wbld d a => firstFault [s.wbFault (s.td d), s.tileFault (s.td a)]
  | .cbld a => s.tileFault (s.td a)
  | .mzero d => s.tileFault (s.td d)
  | _ => none

/-- What a matrix word captures: descriptors in the order D, A, B, and the shape register. -/
def State.matOperands (s : State) (c : Cmd) : Instr → Cmd
  | .mma d a b g _ => { c with r0 := s.reg g, d0 := s.td d, d1 := s.td a, d2 := s.td b }
  | .mvm d a b g _ => { c with r0 := s.reg g, d0 := s.td d, d1 := s.td a, d2 := s.td b }
  | .mmapLead d a b g => { c with r0 := s.reg g, d0 := s.td d, d1 := s.td a, d2 := s.td b }
  | .mmapFol d b g => { c with r0 := s.reg g, d0 := s.td d, d2 := s.td b }
  | .wbld d a => { c with d0 := s.td d, d1 := s.td a }
  | .cbld a => { c with d1 := s.td a }
  | .mzero d => { c with d0 := s.td d }
  | _ => c

/-- MMA and MMAP run on P-cores only, MVM on D-cores only (01 Table 7). -/
def wrongClass (rank : Nat) : Instr → Bool
  | .mma _ _ _ _ _ => classOf rank != 0
  | .mmapLead _ _ _ _ => classOf rank != 0
  | .mmapFol _ _ _ => classOf rank != 0
  | .mvm _ _ _ _ _ => classOf rank != 1
  | _ => false

/-! ## A copy and its attached matrix word (R143) -/

/-- The word at pc is the last of an active loop's body (01 R14). -/
def Core.endsLoop (u : Core) : Bool := (bankOf u u.ctl.tlevel).toList.any fun l => l.active && l.stop == u.pc

/-- The copy and its attached word complete as one unit; pc moves past both. -/
def Core.doneTwo (u : Core) : Core := ({ (u.countEvent 2 1) with pc := u.pc + 4#64 }).done

/-- Queue a copy and its attached matrix command. -/
def Core.queuePair (u : Core) (c m : Cmd) : Core :=
  let n := u.cpe.issued + 1
  ((u.queueCmd .cpe { c with attached := m.word }).queueCmd .mat
    { m with attachedTo := some n, seq := u.seq + 1, idx := u.cmds + 1, pos := u.pc + 4#64 }).doneTwo

/-- A copy with FO whose attached word is w. A descriptor of that word that fails R131 is raised at the copy, and TVAL carries
the word (R143; log 123). -/
def State.pairWord (s : State) (chk : IssueFault) (c : Cmd) (w : W32) : Out :=
  if fld w 26 6 ≠ 0x33#6 then s.illegal
  else match decode w with
    | .error _ => s.raise cILLEGAL (zext 32 w)
    | .ok i =>
      if wrongClass s.cur i then s.raise cILLEGAL (zext 32 w)
      else if s.core.cpe.full || s.core.mat.full then s.waits .full
      else match firstFault [chk, (s.matTiles i).map fun x => (x.1, zext 32 w), s.matFault i] with
        | some (cs, t) => s.raise cs t
        | none => .next (s.modCore fun u => u.queuePair c (s.matOperands { s.newCmd with word := w } i))

/-- A copy word, with or without FO. -/
def State.copyWord (s : State) (f : BitVec 1) (chk : IssueFault) (c : Cmd) : Out :=
  if f = 0#1 ∨ classOf s.cur = 2 then s.engineWord .cpe chk c
  else if s.core.ir.index.isSome || s.core.endsLoop then s.illegal
  else match s.fetchWord (s.core.pc + 4#64) with
    | .wait s1 => s1.waits
    | .fault cs t s1 => s1.raise cs t
    | .ok w s1 => s1.pairWord chk c w

/-! ## The words -/

/-- CPIN (R137). -/
def execCpin (d : TileNo) (b : RegNo) (f : BitVec 1) (s : State) : Out :=
  let t := tileOf (s.td d)
  let p := s.reg b
  s.copyWord f (firstFault [s.tileFault (s.td d), memPtrFault p, extentFault p t.imageSize]) { s.newCmd with r0 := p, d0 := s.td d }

/-- CPOUT (R137). -/
def execCpout (a : TileNo) (b : RegNo) (s : State) : Out :=
  let t := tileOf (s.td a)
  let p := s.reg b
  s.engineWord .cpe (firstFault [s.tileFault (s.td a), memPtrFault p, extentFault p t.imageSize]) { s.newCmd with r0 := p, d1 := s.td a }

/-- The checks of CPTIN and CPTOUT (R137). -/
def stridedFault (t : Tile) (p st : Word) : IssueFault :=
  firstFault [failIf t.sc cFORMAT, memPtrFault p, failAt (decide (st.toNat % 16 ≠ 0)) cMISALIGNED p, failIf (decide (2 ^ 32 ≤ st.toNat)) cOPERAND,
    extentFault p ((t.rows - 1) * st.toNat + t.rb)]

/-- CPTIN (R137). -/
def execCptin (d b : BitVec 5) (f : BitVec 1) (s : State) : Out :=
  let p := s.reg (pairReg b)
  let st := s.reg (nextReg (pairReg b))
  s.copyWord f (firstFault [s.tileFault (s.td d), stridedFault (tileOf (s.td d)) p st]) { s.newCmd with r0 := p, r1 := st, d0 := s.td d }

/-- CPTOUT (R137). -/
def execCptout (a b : BitVec 5) (s : State) : Out :=
  let p := s.reg (pairReg b)
  let st := s.reg (nextReg (pairReg b))
  s.engineWord .cpe (firstFault [s.tileFault (s.td a), stridedFault (tileOf (s.td a)) p st]) { s.newCmd with r0 := p, r1 := st, d1 := s.td a }

/-- CPLL (R137). -/
def execCpll (d a : TileNo) (f : BitVec 1) (s : State) : Out :=
  s.copyWord f (firstFault [s.tileFault (s.td d), s.tileFault (s.td a), failIf (!sameShape (tileOf (s.td d)) (tileOf (s.td a))) cTILE])
    { s.newCmd with d0 := s.td d, d1 := s.td a }

/-- The checks of GATHER and SCATTER at issue (R139). -/
def blockFault (t : Tile) (p bs : Word) (k : BitVec 3) : IssueFault :=
  firstFault [failIf (decide (t.rows % 2 ^ k.toNat ≠ 0)) cTILE, memPtrFault p, failAt (decide (bs.toNat % 16 ≠ 0)) cMISALIGNED p,
    failIf (decide (2 ^ 48 ≤ bs.toNat)) cOPERAND]

/-- GATHER (R139). -/
def execGather (d : TileNo) (_x : BitVec 3) (b : BitVec 5) (f : BitVec 1) (k : BitVec 3) (s : State) : Out :=
  let p := s.reg (pairReg b)
  let bs := s.reg (nextReg (pairReg b))
  s.copyWord f (firstFault [s.tileFault (s.td d), blockFault (tileOf (s.td d)) p bs k]) { s.newCmd with r0 := p, r1 := bs, d0 := s.td d }

/-- SCATTER (R139). -/
def execScatter (_x : BitVec 3) (a b : BitVec 5) (k : BitVec 3) (s : State) : Out :=
  let p := s.reg (pairReg b)
  let bs := s.reg (nextReg (pairReg b))
  s.engineWord .cpe (firstFault [s.tileFault (s.td a), blockFault (tileOf (s.td a)) p bs k]) { s.newCmd with r0 := p, r1 := bs, d1 := s.td a }

/-- IDXLD (R138). -/
def execIdxld (_x : BitVec 3) (b : BitVec 5) (s : State) : Out :=
  let p := s.reg (pairReg b)
  let v := (s.reg (nextReg (pairReg b))).toNat
  s.engineWord .cpe (firstFault [memPtrFault p, failIf (decide (64 < v % 128) || decide (v / 128 % 2 ^ 25 ≠ 0)) cOPERAND,
    extentFault p (4 * (v % 128))]) { s.newCmd with r0 := p, r1 := s.reg (nextReg (pairReg b)) }

/-- FILL (R140). -/
def execFill (d : TileNo) (b : RegNo) (s : State) : Out :=
  s.engineWord .cpe (s.tileFault (s.td d)) { s.newCmd with r0 := s.reg b, d0 := s.td d }

/-- PROMOTE (R144): the descriptor's pointer is checked at issue. -/
def execPromote (b : BitVec 4) (s : State) : Out :=
  let p := s.reg (BitVec.ofNat 6 (4 * b.toNat))
  s.engineWord .cpe (firstFault [memPtrFault p, extentFault p 48]) { s.newCmd with r0 := p }

/-- SUBSCR (R145): the ring's shape is checked at issue, and the pointer must be GLOBAL (log 42). -/
def execSubscr (d b : BitVec 5) (_k : BitVec 2) (s : State) : Out :=
  let t := tileOf (s.td d)
  let p := s.reg (pairReg b)
  s.engineWord .cpe (firstFault [s.tileFault (s.td d), failIf (t.rb != 256 || decide (256 < t.rows) || !t.aw) cTILE,
    failAt (spaceOf p != 0) cADDR_SPACE p, memPtrFault p]) { s.newCmd with r0 := p, r1 := s.reg (nextReg (pairReg b)), d0 := s.td d }

/-- The ring of a subscription as a SLOTRET finds it: of the last SUBSCR still queued, else of the open subscription. -/
def Core.ringOf (u : Core) (k : Nat) : BitVec 128 :=
  match u.cpe.queue.reverse.find? fun c => match decode c.word with
    | .ok (.subscr _ _ j) => decide (j.toNat = k)
    | _ => false with
  | some c => c.d0
  | none => match alGet k u.unit.subs with
    | some r => r.ring
    | none => 0#128

/-- SLOTRET (R147). -/
def execSlotret (b : RegNo) (k : BitVec 2) (s : State) : Out :=
  s.engineWord .cpe (failIf (decide (2 ^ 9 ≤ (s.reg b).toNat)) cOPERAND) { s.newCmd with r0 := s.reg b, d0 := s.core.ringOf k.toNat }

end Sys2Proof.Machine
end

