-- ==== Sys2Proof/Machine/Mat.lean ====
section
/-!
DEFINITION. Matrix and matrix-vector words (08 R153–R165): their issue. What a command does stands in EngineRun.lean.
-/
namespace Sys2Proof.Machine

/-- Issue a matrix word. -/
def State.matWord (s : State) (i : Instr) : Out :=
  if wrongClass s.cur i then s.illegal
  else s.engineWord .mat (s.matFault i) (s.matOperands s.newCmd i)

/-- MMA (R159). -/
def execMma (d a b : TileNo) (g : RegNo) (w : BitVec 1) (s : State) : Out := s.matWord (.mma d a b g w)

/-- MMAP .lead (R164, R165). -/
def execMmapLead (d a b : TileNo) (g : RegNo) (s : State) : Out := s.matWord (.mmapLead d a b g)

/-- MMAP .fol (R164, R165). -/
def execMmapFol (d b : TileNo) (g : RegNo) (s : State) : Out := s.matWord (.mmapFol d b g)

/-- WBLD (R161). -/
def execWbld (d a : TileNo) (s : State) : Out := s.matWord (.wbld d a)

/-- CBLD (R162). -/
def execCbld (a : TileNo) (s : State) : Out := s.matWord (.cbld a)

/-- MVM (R159). -/
def execMvm (d a b : TileNo) (g : RegNo) (w : BitVec 1) (s : State) : Out := s.matWord (.mvm d a b g w)

/-- MZERO (R163). -/
def execMzero (d : TileNo) (s : State) : Out := s.matWord (.mzero d)

end Sys2Proof.Machine
end

