-- ==== Sys2Proof/Machine/Vec.lean ====
section
/-!
DEFINITION. Vector engine words (09): the checks at issue (R171–R173) and what each captures. What a command computes stands
in Compute.lean.
-/
namespace Sys2Proof.Machine

/-! ## Formats and shapes -/


/-- Formats that VQUANT writes and VDQUANT reads (R180). -/
def isBlock (f : Nat) : Bool := f == fF8A || f == fF8B || f == fF6 || f == fF4 || f == fINT8 || f == fINT4
/-- Element widths of 8 bits or more (R176, R177). -/
def isByteWide (f : Nat) : Bool := f != fVQ2 && decide (8 ≤ fmtBits f)

/-- The format classes a word accepts (R172, R175). -/
inductive EwClass where
  | float
  | integer
  | both
  | bits
deriving DecidableEq, Repr

/-- Every format of a word's tiles fits its class. -/
def EwClass.fits (k : EwClass) (fs : List Nat) : Bool :=
  let fl := fs.all isFloat
  let one := fs.all fun f => f == fs.headD 0
  let int := one && fs.all isInt
  match k with
  | .float => fl
  | .integer => int
  | .both => fl || int
  | .bits => one && fs.all fun f => isFloat f || isInt f

def sameSize (a b : Tile) : Bool := a.rows == b.rows && a.cols == b.cols

/-- The shape a second operand needs in a mode (Table 50). -/
def modeShape (m : BitVec 2) (b d : Tile) : Bool :=
  if m = 0#2 then sameSize b d else if m = 1#2 then b.rows == 1 && b.cols == d.cols else if m = 2#2 then b.rows == d.rows && b.cols == 1 else true

/-- The tile opB names, where the mode has one. -/
def State.opTile (s : State) (b : RegNo) (m : BitVec 2) : Option (BitVec 128) := if m = 3#2 then none else some (s.td (BitVec.ofNat 5 b.toNat))

/-- R131 on the descriptors a word names. -/
def State.tileFaults (s : State) (l : List (BitVec 128)) : IssueFault := firstFault (l.map s.tileFault)

/-- No tile is block-scaled (R172). -/
def scaledFault (l : List (BitVec 128)) : IssueFault := failIf (l.any fun d => (tileOf d).sc) cFORMAT

/-- The checks of a word with modes. fmt says whether the formats of D, A and B, where there is one, are accepted. -/
def State.modesFault (s : State) (d a : BitVec 128) (o : Option (BitVec 128)) (m : BitVec 2) (fmt : Nat → Nat → List Nat → Bool) : IssueFault :=
  let all := [d, a] ++ o.toList
  let td := tileOf d
  let ta := tileOf a
  firstFault [s.tileFaults all, scaledFault all, failIf (!fmt td.fmt ta.fmt (o.toList.map fun x => (tileOf x).fmt)) cFORMAT,
    failIf (!sameSize ta td || !(o.all fun x => modeShape m (tileOf x) td)) cTILE]

/-- Issue a word with modes: the scalar of mode 3 is captured in r0. -/
def State.modesWord (s : State) (d a : TileNo) (b : RegNo) (m : BitVec 2) (fmt : Nat → Nat → List Nat → Bool) : Out :=
  let o := s.opTile b m
  s.engineWord .vec (s.modesFault (s.td d) (s.td a) o m fmt)
    { s.newCmd with r0 := if m = 3#2 then s.reg b else 0#64, d0 := s.td d, d1 := s.td a, d2 := o.getD 0#128 }

/-- The formats of an element-wise word (R175): D, A and B in one class. -/
def ewFormats (k : EwClass) (d a : Nat) (b : List Nat) : Bool := k.fits ([d, a] ++ b)
/-- The formats of a comparison (R176): D is UINT8, A and B in one class. -/
def cmpFormats (d a : Nat) (b : List Nat) : Bool := d == fUINT8 && EwClass.both.fits (a :: b)
/-- The formats of VSEL (R176): the mask A is UINT8, D and B have one format of byte width or more. -/
def selFormats (d a : Nat) (b : List Nat) : Bool := a == fUINT8 && isByteWide d && b.all fun f => f == d

/-- Issue a word on D and A alone. -/
def State.unaryWord (s : State) (d a : TileNo) (r0 r1 : Word) (chk : Tile → Tile → IssueFault) : Out :=
  s.engineWord .vec (firstFault [s.tileFaults [s.td d, s.td a], chk (tileOf (s.td d)) (tileOf (s.td a))])
    { s.newCmd with r0 := r0, r1 := r1, d0 := s.td d, d1 := s.td a }

/-- Formats accepted and SC = 0, then a shape. -/
def plainFault (fmt shape : Bool) (d a : Tile) : IssueFault := firstFault [failIf (d.sc || a.sc) cFORMAT, failIf (!fmt) cFORMAT, failIf (!shape) cTILE]

/-- An element-wise word without B. -/
def unaryEw (k : EwClass) (d a : Tile) : IssueFault := plainFault (k.fits [d.fmt, a.fmt]) (sameSize a d) d a
/-- A row reduction (R181): D has A's rows. -/
def reduceFault (d a : Tile) : IssueFault := plainFault (isFloat a.fmt && isFloat d.fmt) (a.rows == d.rows) d a
/-- VARGMAX and VSAMPLE (R182, R188): UINT32 indices, one row for one row. -/
def indexFault (d a : Tile) : IssueFault := plainFault (isFloat a.fmt && d.fmt == fUINT32) (a.rows == d.rows) d a
/-- VCVT (R179). -/
def cvtFault (ovn : Bool) (d a : Tile) : IssueFault :=
  let ok := fun (f : Nat) => f != fVQ2 && f != fSE8
  plainFault (ok d.fmt && ok a.fmt && (!ovn || d.fmt == fF8A || d.fmt == fF8B)) (sameSize a d) d a
/-- VQUANT and VDQUANT (R180): a plain float tile and a block-scaled one. -/
def quantFault (plain block : Tile) : IssueFault :=
  firstFault [failIf (plain.sc || !isFloat plain.fmt || !block.sc || !isBlock block.fmt) cFORMAT, failIf (!sameSize plain block) cTILE]
/-- VBCAST (R177): which of A's extents D has. -/
def bcastFault (k : Nat) (d a : Tile) : IssueFault :=
  plainFault (d.fmt == a.fmt) (if k = 0 then a.cols == d.cols else if k = 1 then a.rows == d.rows else true) d a

/-- VSMAXO and VSMAXF (R183, R184): the state is FP32 with A's rows and three columns or more; fewer raise TILE_INVALID
(DESIGN CHOICE, log 121: the rules name no cause). -/
def State.softmaxWord (s : State) (d a : TileNo) (b : RegNo) : Out :=
  let st := s.td (BitVec.ofNat 5 b.toNat)
  let td := tileOf (s.td d)
  let ta := tileOf (s.td a)
  let tb := tileOf st
  s.engineWord .vec (firstFault [s.tileFaults [s.td d, s.td a, st], scaledFault [s.td d, s.td a, st],
      failIf (!isFloat td.fmt || !isFloat ta.fmt || tb.fmt != fFP32) cFORMAT,
      failIf (!sameSize ta td || tb.rows != ta.rows || decide (tb.cols < 3)) cTILE])
    { s.newCmd with d0 := s.td d, d1 := s.td a, d2 := st }

/-- The limits of VROT's registers (R185). -/
def State.rotFault (s : State) (table pos : Word) (d a : Tile) : IssueFault :=
  firstFault [plainFault (isFloat a.fmt && isFloat d.fmt) (sameSize a d && a.cols % 2 == 0) d a,
    failIf (decide (2 ^ 24 ≤ table.toNat) || decide (table.toNat % 16 ≠ 0) || decide (localSize s.cur < table.toNat + a.cols / 2 * 4)) cOPERAND,
    failIf (decide (2 ^ 31 - 1 < pos.toNat % 2 ^ 32 + (a.rows - 1) * (pos.toNat / 2 ^ 32))) cPOS_RANGE]

/-! ## VEC0 -/

/-- VADD (R175). -/
def execVadd (d a : TileNo) (b : RegNo) (m : BitVec 2) (s : State) : Out := s.modesWord d a b m (ewFormats .both)

/-- VSUB (R175). -/
def execVsub (d a : TileNo) (b : RegNo) (m : BitVec 2) (s : State) : Out := s.modesWord d a b m (ewFormats .both)

/-- VMUL (R175). -/
def execVmul (d a : TileNo) (b : RegNo) (m : BitVec 2) (s : State) : Out := s.modesWord d a b m (ewFormats .both)

/-- VFMA (R175). -/
def execVfma (d a : TileNo) (b : RegNo) (m : BitVec 2) (s : State) : Out := s.modesWord d a b m (ewFormats .float)

/-- VMIN (R175). -/
def execVmin (d a : TileNo) (b : RegNo) (m : BitVec 2) (s : State) : Out := s.modesWord d a b m (ewFormats .both)

/-- VMAX (R175). -/
def execVmax (d a : TileNo) (b : RegNo) (m : BitVec 2) (s : State) : Out := s.modesWord d a b m (ewFormats .both)

/-- VABS (R175). -/
def execVabs (d a : TileNo) (s : State) : Out := s.unaryWord d a 0#64 0#64 (unaryEw .both)

/-- VNEG (R175). -/
def execVneg (d a : TileNo) (s : State) : Out := s.unaryWord d a 0#64 0#64 (unaryEw .both)

/-- VSCL (R175): scale and addend are captured. -/
def execVscl (d a : TileNo) (b : RegNo) (s : State) : Out := s.unaryWord d a (s.reg b) 0#64 (unaryEw .float)

/-- VADDS (R175). -/
def execVadds (d a : TileNo) (b : RegNo) (m : BitVec 2) (s : State) : Out := s.modesWord d a b m (ewFormats .integer)

/-- VAND (R175). -/
def execVand (d a : TileNo) (b : RegNo) (m : BitVec 2) (s : State) : Out := s.modesWord d a b m (ewFormats .bits)

/-- VOR (R175). -/
def execVor (d a : TileNo) (b : RegNo) (m : BitVec 2) (s : State) : Out := s.modesWord d a b m (ewFormats .bits)

/-- VXOR (R175). -/
def execVxor (d a : TileNo) (b : RegNo) (m : BitVec 2) (s : State) : Out := s.modesWord d a b m (ewFormats .bits)

/-- VSHL (R175). -/
def execVshl (d a : TileNo) (b : RegNo) (m : BitVec 2) (s : State) : Out := s.modesWord d a b m (ewFormats .integer)

/-- VSHR (R175). -/
def execVshr (d a : TileNo) (b : RegNo) (m : BitVec 2) (s : State) : Out := s.modesWord d a b m (ewFormats .integer)

/-- VCMPEQ (R176). -/
def execVcmpeq (d a : TileNo) (b : RegNo) (m : BitVec 2) (s : State) : Out := s.modesWord d a b m cmpFormats

/-- VCMPLT (R176). -/
def execVcmplt (d a : TileNo) (b : RegNo) (m : BitVec 2) (s : State) : Out := s.modesWord d a b m cmpFormats

/-- VCMPLE (R176). -/
def execVcmple (d a : TileNo) (b : RegNo) (m : BitVec 2) (s : State) : Out := s.modesWord d a b m cmpFormats

/-- VSEL (R176). -/
def execVsel (d a : TileNo) (b : RegNo) (m : BitVec 2) (s : State) : Out := s.modesWord d a b m selFormats

/-- VMOV (R177): ROWS, COLS, FMT and SC agree. -/
def execVmov (d a : TileNo) (s : State) : Out := s.unaryWord d a 0#64 0#64 fun d a => failIf (!sameShape d a) cTILE

/-- VBCAST of a tile (R177). -/
def execVbcast (d a : TileNo) (k : BitVec 2) (s : State) : Out := s.unaryWord d a 0#64 0#64 (bcastFault k.toNat)

/-- VBCAST of a register (R177). -/
def execVbcastScalar (d : TileNo) (b : RegNo) (s : State) : Out :=
  s.engineWord .vec (firstFault [s.tileFault (s.td d), scaledFault [s.td d]]) { s.newCmd with r0 := s.reg b, d0 := s.td d }

/-- VTRANS (R177). -/
def execVtrans (d a : TileNo) (s : State) : Out := s.unaryWord d a 0#64 0#64 fun d a => plainFault (d.fmt == a.fmt && isByteWide d.fmt) (d.rows == a.cols && d.cols == a.rows) d a

/-! ## VEC1 -/

/-- VEXP (R178). -/
def execVexp (d a : TileNo) (s : State) : Out := s.unaryWord d a 0#64 0#64 (unaryEw .float)

/-- VEXP2 (R178). -/
def execVexp2 (d a : TileNo) (s : State) : Out := s.unaryWord d a 0#64 0#64 (unaryEw .float)

/-- VLOG2 (R178). -/
def execVlog2 (d a : TileNo) (s : State) : Out := s.unaryWord d a 0#64 0#64 (unaryEw .float)

/-- VRCP (R178). -/
def execVrcp (d a : TileNo) (s : State) : Out := s.unaryWord d a 0#64 0#64 (unaryEw .float)

/-- VRSQRT (R178). -/
def execVrsqrt (d a : TileNo) (s : State) : Out := s.unaryWord d a 0#64 0#64 (unaryEw .float)

/-- VSQRT (R178). -/
def execVsqrt (d a : TileNo) (s : State) : Out := s.unaryWord d a 0#64 0#64 (unaryEw .float)

/-- VTANH (R178). -/
def execVtanh (d a : TileNo) (s : State) : Out := s.unaryWord d a 0#64 0#64 (unaryEw .float)

/-- VSIGM (R178). -/
def execVsigm (d a : TileNo) (s : State) : Out := s.unaryWord d a 0#64 0#64 (unaryEw .float)

/-- VSILU (R178). -/
def execVsilu (d a : TileNo) (s : State) : Out := s.unaryWord d a 0#64 0#64 (unaryEw .float)

/-- VGELU (R178). -/
def execVgelu (d a : TileNo) (s : State) : Out := s.unaryWord d a 0#64 0#64 (unaryEw .float)

/-- VCVT (R179). -/
def execVcvt (d a : TileNo) (o : BitVec 1) (s : State) : Out := s.unaryWord d a 0#64 0#64 (cvtFault (o == 1#1))

/-- VQUANT (R180). -/
def execVquant (d a : TileNo) (s : State) : Out := s.unaryWord d a 0#64 0#64 fun d a => quantFault a d

/-- VDQUANT (R180). -/
def execVdquant (d a : TileNo) (s : State) : Out := s.unaryWord d a 0#64 0#64 fun d a => quantFault d a

/-- VRSUM (R181). -/
def execVrsum (d a : TileNo) (_c : BitVec 1) (s : State) : Out := s.unaryWord d a 0#64 0#64 reduceFault

/-- VRMAX (R181). -/
def execVrmax (d a : TileNo) (s : State) : Out := s.unaryWord d a 0#64 0#64 reduceFault

/-- VRMIN (R181). -/
def execVrmin (d a : TileNo) (s : State) : Out := s.unaryWord d a 0#64 0#64 reduceFault

/-- VSMAXO (R183). -/
def execVsmaxo (d a : TileNo) (b : RegNo) (s : State) : Out := s.softmaxWord d a b

/-- VSMAXF (R184). -/
def execVsmaxf (d a : TileNo) (b : RegNo) (s : State) : Out := s.softmaxWord d a b

/-- VROT (R185): the table's offset, and first position and step. -/
def execVrot (d a b : BitVec 5) (_h : BitVec 1) (s : State) : Out :=
  let table := s.reg (pairReg b)
  let pos := s.reg (nextReg (pairReg b))
  s.unaryWord d a table pos (s.rotFault table pos)

/-- VRNG (R187): key and counter. -/
def execVrng (d b : BitVec 5) (s : State) : Out :=
  let t := tileOf (s.td d)
  s.engineWord .vec (firstFault [s.tileFault (s.td d), failIf (t.sc || !(t.fmt == fUINT32 || t.fmt == fFP32 || t.fmt == fBF16)) cFORMAT])
    { s.newCmd with r0 := s.reg (pairReg b), r1 := s.reg (nextReg (pairReg b)), d0 := s.td d }

/-- VSAMPLE (R188): key and counter. -/
def execVsample (d a b : BitVec 5) (s : State) : Out :=
  s.unaryWord d a (s.reg (pairReg b)) (s.reg (nextReg (pairReg b))) indexFault

/-- VARGMAX (R182). -/
def execVargmax (d a : TileNo) (s : State) : Out := s.unaryWord d a 0#64 0#64 indexFault

end Sys2Proof.Machine
end

