-- ==== Sys2Proof/Machine/Strm.lean ====
section
/-!
DEFINITION. STRM words (17 R288–R301): cursors, frames, truncation, commits, snapshots, KV pages, and the words that send and
cancel sluice transfers.
-/
namespace Sys2Proof.Machine

/-! ## Common rules (R289, R290) -/

/-- The checks on a stream operand (R289). -/
def State.streamFault (s : State) (p : Word) : Option Nat :=
  if spaceOf p ≠ 4 then some cADDR_SPACE
  else match s.rankFault s.ctx s.cur 4 (rankField p) (offOf p) 1 with
    | some c => some c
    | none => if offOf p % 4096 ≠ 0 then some cMISALIGNED
      else if (s.stream? s.ctx (offOf p / 4096)).isNone then some cSTREAM_INVALID else none

/-- Do a STRM word on a live stream after its release. -/
def State.onStream (s : State) (p : Word) (f : Stream → State → Out) : Out :=
  s.afterPackets fun s => match s.streamFault p with
    | some c => s.raise c p
    | none => s.afterRelease fun s => match s.stream? s.ctx (offOf p / 4096) with
      | some t => f t s
      | none => s.raise cSTREAM_INVALID p

/-- A STRM word completes: its acquire, and its result. -/
def State.strmDone (s : State) (d : RegNo) (v : Word) : Out := (s.acquire 3).writes d v

/-- STALE. -/
def stale : Word := BitVec.allOnes 64

/-- An expected version fits (R288). -/
def versionFits (t : Stream) (b : Word) : Bool := b.toNat / 2 ^ 32 == 2 ^ 32 - 1 || b.toNat / 2 ^ 32 == t.version

/-- VERSION ‖ x. -/
def withVersion (t : Stream) (x : Nat) : Word := BitVec.ofNat 64 (t.version * 2 ^ 32 + x)

/-- A version-checked word: STALE, then STREAM_STATE while a truncation is pending (R290). -/
def State.onVersion (s : State) (d : RegNo) (p b : Word) (f : Stream → Nat → State → Out) : Out :=
  s.onStream p fun t s =>
    if !versionFits t b then s.strmDone d stale
    else if t.tpend then s.raise cSTREAM_STATE p
    else f t (b.toNat % 2 ^ 32) s

/-! ## Cursors and frames (R291, R292) -/

/-- CURADV .g. -/
def execCuradvG (d a b : RegNo) (s : State) : Out :=
  s.onVersion d (s.reg a) (s.reg b) fun t n s =>
    if 2 ^ 31 - 1 < t.g + n then s.raise cSTREAM_POS (s.reg a)
    else (s.setStream { t with g := t.g + n }).strmDone d (withVersion t (t.g + n))

/-- CURADV .p. -/
def execCuradvP (d a b : RegNo) (s : State) : Out :=
  s.onVersion d (s.reg a) (s.reg b) fun t n s =>
    if t.g < t.p + n then s.raise cOPERAND 0#64
    else (s.setStream { t with p := t.p + n }).strmDone d (withVersion t (t.p + n))

/-- A frame is accepted: the record changes and FRAME_ACCEPTED goes to the stream's queue (R292, 19 R310). -/
def State.acceptFrame (s : State) (t : Stream) (anchor : Nat) : State :=
  let u := t.frame anchor
  (s.setStream u).send (.event "FRAME_ACCEPTED" t.queue "OK" [t.handle, t.g, t.p, anchor, u.version])

/-- A snapshot copy of the stream is in progress. -/
def State.snapBusy (s : State) (t : Stream) : Bool := s.head.snaps.any fun x => decide (x.ctx = t.ctx) && decide (x.handle = t.handle)

/-- FRACC. A frame ordered during a snapshot copy of the stream waits for it (R295). -/
def execFracc (d a b : RegNo) (s : State) : Out :=
  let p := s.reg a
  let v := (s.reg b).toNat
  s.onStream p fun t s =>
    if 2 ^ 32 ≤ v then s.raise cOPERAND 0#64
    else if s.snapBusy t then s.waits
    else if v < t.c then s.raise cLATE_FRAME (BitVec.ofNat 64 (t.c * 2 ^ 32 + v))
    else if t.g < v then s.raise cOPERAND 0#64
    else (s.acceptFrame t v).strmDone d (BitVec.ofNat 64 (t.frame v).version)

/-! ## Truncation (R293) -/

/-- Copy bytes of a context's memory for the Headgate; a fault is reported (log 44). -/
def State.copyCtx (s : State) (die ctx from_ dest n : Nat) : State :=
  match s.ctxRead die ctx from_ n with
  | (.error c, s1) => s1.reportMem ctx none c from_ n
  | (.ok bs, s1) => match s1.ctxWrite die ctx dest bs with
    | (none, s2) => s2
    | (some c, s2) => s2.reportMem ctx none c dest n

/-- The empty position of a snapshot slot. -/
def noPos : Nat := 2 ^ 32 - 1

/-- The slot that holds the largest snapshot at or below a position. -/
def Stream.snapAt (t : Stream) (p : Nat) : Option (Nat × Nat) :=
  (List.range (min 64 t.nsnap)).foldl (fun (b : Option (Nat × Nat)) k =>
    let v := t.snappos.getD k noPos
    if v = noPos ∨ p < v then b
    else match b with
      | some (_, w) => if w < v then some (k, v) else b
      | none => some (k, v)) none

/-- Recurrent state is restored from the newest snapshot at or below the anchor: the restart position. -/
def State.restoreSnap (s : State) (t : Stream) (a : Nat) : Nat × Stream × State :=
  if t.snapint = 0 then (a, t, s)
  else
    let keep := t.snappos.map fun v => if v ≠ noPos ∧ a < v then noPos else v
    match t.snapAt a with
    | some (k, v) => (v, { t with snappos := keep, snaplast := v },
        s.copyCtx t.ddie t.ctx (t.snapbase.toNat + k * t.rsize) t.rstate.toNat t.rsize)
    | none => (0, { t with snappos := keep, snaplast := noPos }, match s.ctxWrite t.ddie t.ctx t.rstate.toNat (zeros t.rsize) with
        | (none, s1) => s1
        | (some c, s1) => s1.reportMem t.ctx none c t.rstate.toNat t.rsize)

/-- STRUNC. A block table that cannot be reached is a fault at the word (log 45). -/
def execStrunc (d a b : RegNo) (s : State) : Out :=
  let p := s.reg a
  let v := s.reg b
  s.onStream p fun t s =>
    if !versionFits t v then s.strmDone d stale
    else if !t.tpend then s.raise cSTREAM_STATE p
    else if v.toNat % 2 ^ 32 ≠ 0 then s.raise cOPERAND 0#64
    else
      let f := (t.tanch + 15) / 16
      match s.entriesFault t f (t.hiblk - f) with
      | (some (c, va), s1) => s1.raise c (BitVec.ofNat 64 va)
      | (none, s1) =>
        let r := (s1.freeBlocks t f (t.hiblk - f)).restoreSnap { t with hiblk := min t.hiblk f } t.tanch
        (r.2.2.setStream { r.2.1 with tpend := false, tanch := 0 }).strmDone d (BitVec.ofNat 64 r.1)

/-! ## Commits (R294) -/

/-- The unit may be written into the object of a commit: as CHKOPEN checks it, but the object of the unit's own open
interval, which the commit closes first, is accepted (19 R326; log 43). -/
def State.commitTarget (s : State) (obj : Word) : Option (Nat × Word) × State :=
  match s.ctx? s.ctx with
  | none => s.checkTarget obj
  | some c =>
    if c.ckptOpen && c.ckptOwner = some s.cur && c.ckptObj = some obj then s.checkAccess (dieOf s.cur) s.ctx obj s.core.objSize .atomic
    else s.checkTarget obj

/-- SCOMMIT. -/
def execScommit (d a : RegNo) (b : BitVec 5) (s : State) : Out :=
  let obj := s.reg (nextReg (pairReg b))
  s.onVersion d (s.reg a) (s.reg (pairReg b)) fun t p s =>
    if p < t.c ∨ t.p < p then s.raise cOPERAND 0#64
    else if !s.core.enginesDone then s.waits
    else
      let held := match s.ctx? s.ctx with
        | some c => if c.ckptOpen && c.ckptOwner != some s.cur then some (c.ckptObj.getD 0#64) else none
        | none => none
      match held with
      | some o => s.raise cCHK_STATE o
      | none => match s.commitTarget obj with
        | (some (c, x), s1) => s1.raise c x
        | (none, s1) =>
          let s2 := if s1.intervalOpen s1.ctx then s1.closeInterval (dieOf s1.cur) s1.ctx else s1
          let s3 := s2.done
          let s4 := (s3.openInterval obj s3.core.pc).setStream { t with c := p, cobj := obj }
          .next ((s4.acquire 3).setReg d (withVersion t p))

/-! ## Snapshots (R295) -/

/-- SSNAP: the copy runs apart, of the state as the word's release leaves it, and the word completes with the copy
(SNAPSHOT_COPY_DONE), whose version it gives; where the stream has closed meanwhile it raises STREAM_INVALID. A snapshot of the stream that is still being copied comes first in the stream's order (R290). -/
def execSsnap (d a b : RegNo) (s : State) : Out :=
  let ptr := s.reg a
  match s.core.stall with
  | .took v => s.strmDone d v
  | .control done => if done then s.raise cSTREAM_INVALID ptr else s.waits (.control false)
  | _ => s.onVersion d ptr (s.reg b) fun t p s =>
    if s.snapBusy t then s.waits
    else if t.snapint = 0 ∨ p % t.snapint ≠ 0 ∨ t.g < p ∨ (t.snaplast ≠ noPos ∧ p ≤ t.snaplast) then s.raise cOPERAND 0#64
    else
      let k := p / t.snapint % t.nsnap
      if (t.snapAt t.c).map (·.1) = some k then s.raise cSTREAM_STATE ptr
      else
        let r := s.ctxRead t.ddie t.ctx t.rstate.toNat t.rsize
        let job : SnapCopy := { ctx := t.ctx, handle := t.handle, slot := k, pos := p, version := t.version, rank := s.cur,
                                bytes := match r.1 with | .ok bs => bs | .error _ => [] }
        let s1 := match r.1 with
          | .ok _ => r.2
          | .error c => r.2.reportMem t.ctx none c t.rstate.toNat t.rsize
        ({ s1 with head := { s1.head with snaps := s1.head.snaps ++ [job] } }).waits (.control false)

/-! ## KV pages (R296–R298) -/

/-- KVALLOC. A block table that cannot be reached, or an entry that may not be written, is a fault at the word, before a page is
taken (log 45). -/
def execKvalloc (d a b : RegNo) (s : State) : Out :=
  let ptr := s.reg a
  s.onVersion d ptr (s.reg b) fun t i s =>
    let at_ := BitVec.ofNat 64 (t.entryVa i)
    if t.nblk ≤ i then s.raise cOPERAND 0#64
    else match s.readEntryAt t i with
      | (.error c, s1) => s1.raise c at_
      | (.ok e, s1) =>
        if e ≠ emptyEntry then s1.raise cSTREAM_STATE ptr
        else match s1.ctxCheck headDie t.ctx (t.entryVa i) 4 .store with
        | (some (c, _), s1) => s1.raise c at_
        | (none, s1) => match s1.takePage t.ctx t.ddie with
          | (none, s2) => s2.raise cKV_EXHAUSTED ptr
          | (some e, s2) => match s2.writeEntryAt t i e with
            | (some c, s3) => (s3.pageHome t.ctx e).raise c at_
            | (none, s3) => ((s3.placePage t.ctx e (.entry t.handle i)).setStream { t with hiblk := max t.hiblk (i + 1) }).strmDone d (BitVec.ofNat 64 e)

/-- KVFREE. A block table that cannot be reached is a fault at the word (log 45). -/
def execKvfree (d a b : RegNo) (s : State) : Out :=
  s.onVersion d (s.reg a) (s.reg b) fun t i s =>
    if t.nblk ≤ i then s.raise cOPERAND 0#64
    else match s.freeBlock t i with
      | (.error c, s1) => s1.raise c (BitVec.ofNat 64 (t.entryVa i))
      | (.ok e, s1) => (s1.lowerHiblk t i).strmDone d (BitVec.ofNat 64 e)

/-- KVBORROW: no version check, legal while a truncation is pending. -/
def execKvborrow (d a b : RegNo) (s : State) : Out :=
  let v := (s.reg b).toNat
  s.onStream (s.reg a) fun t s =>
    if v = 0xFF then match s.lender t.ctx t.ddie with
      | some l => (s.borrow t.ctx t.ddie l).strmDone d 64#64
      | none => s.strmDone d 0#64
    else if v ∈ neighbours t.ddie then
      if s.dieAllowed t.ctx v && s.canSpare t.ctx v then (s.borrow t.ctx t.ddie v).strmDone d 64#64 else s.strmDone d 0#64
    else s.raise cOPERAND 0#64

/-! ## Sluice channels (R299–R301) -/

def State.chan (s : State) (die key : Nat) : SlChannel := (alGet key (s.die die).chans).getD {}
def State.setChan (s : State) (die key : Nat) (c : SlChannel) : State := s.modDie die fun d => { d with chans := alSet key c d.chans }
def State.modChan (s : State) (die key : Nat) (f : SlChannel → SlChannel) : State := s.setChan die key (f (s.chan die key))

/-- Sender key of a die of this package. -/
def State.slKey (s : State) (die : Nat) : Nat := s.fab.pkg * 64 + die

/-- Receiver key of a handle. -/
def slTarget (h : Word) : Nat := bitsAt h.toNat 22 8 * 64 + bitsAt h.toNat 16 6

/-- A handle's channel of its source die (R299). -/
def chanKey (h : Word) : Nat := h.toNat % 16

/-- The switch plane of a message between sluices: that of the receiver's die, between packages (21 R349). -/
def State.slPlane (s : State) (m : SlMsg) : Option Nat :=
  if m.sender / 64 = m.receiver / 64 then some 0 else s.planeFor (m.receiver % 64 - 32)

/-- Put a message between sluices on its way; while no plane takes it, what sends it is held. -/
def State.slSend (s : State) (m : SlMsg) : State := match s.slPlane m with
  | none => s.hold
  | some p => { s with fab := { s.fab with msgs := s.fab.msgs ++ [{ m with plane := p }] } }

/-- A number of a channel's counter completes: waiters whose value is reached become ready (10 R202, Table 57). -/
def State.slComplete (s : State) (die ch ctx num : Nat) : State :=
  let t := s.slTimeline die ch ctx
  let t1 := { t with done := num :: t.done }
  let met := fun (o : ObjRec) => decide (o.waitval ≤ t1.completed)
  (t.waiters.filter met).foldl (fun s o => s.enqueueObj o) (s.putSlTimeline die { t1 with waiters := t.waiters.filter fun o => !met o })

/-- The next number of a channel's counter. -/
def State.slNumber (s : State) (die ch ctx : Nat) : Nat × State :=
  let t := s.slTimeline die ch ctx
  (t.issued + 1, s.putSlTimeline die { t with issued := t.issued + 1 })

/-- A send descriptor's bytes as a transfer of a counter number. -/
def slDescOf (h p : Word) (ctx num serial : Nat) (bs : List Byte) : SlDesc :=
  { serial := serial, handle := h, ctx := ctx, num := num, ptr := p, xid := natAt bs 28 2, src := wordAt bs 0, dst := wordAt bs 8, pos0 := natAt bs 16 4,
    npos := natAt bs 20 4, nh := natAt bs 24 2, hd := natAt bs 26 2, narrow := bitAt (natAt bs 30 1) 0, ver := natAt bs 32 4, loff := natAt bs 36 4 }

/-- Bytes of a landed block with its scales (R300). -/
def SlDesc.landed (x : SlDesc) : Nat := if x.narrow then 16 * x.nh * x.hd + 16 * x.nh * (x.hd / 32) else 32 * x.nh * x.hd

/-- The limits of Table 91. -/
def SlDesc.valid (x : SlDesc) (bs : List Byte) : Bool :=
  spaceOf x.src == 0 && spaceOf x.dst == 4
    && x.pos0 % 16 == 0 && x.npos % 16 == 0 && decide (16 ≤ x.npos) && decide (x.npos ≤ 2 ^ 20) && decide (1 ≤ x.nh) && decide (x.nh ≤ 256)
    && decide (16 ≤ x.hd) && decide (x.hd ≤ 256) && x.hd % 16 == 0 && (!x.narrow || x.hd % 32 == 0) && x.loff % 128 == 0
    && decide (x.loff + x.landed ≤ 65536) && decide (natAt bs 30 1 < 2) && natAt bs 31 1 == 0 && natAt bs 44 20 == 0

/-- A channel handle of a sending word: the issuer's own die (R299). -/
def State.sendHandle (s : State) (h : Word) : Option (Nat × Nat) := match s.channelHandle h with
  | some (die, ch, _, _) => if die = dieOf s.cur then some (die, ch) else none
  | none => none

/-- The open transfer of a context with an XID on a channel of a die. -/
def State.openXfer (s : State) (die ch ctx xid : Nat) : Option Transfer :=
  (s.chan die ch).transfers.find? fun t => decide (t.desc.ctx = ctx) && decide (t.desc.xid = xid)

/-- SLSEND. -/
def execSlsend (d a b : RegNo) (s : State) : Out :=
  let h := s.reg a
  let p := s.reg b
  s.afterPackets fun s => s.onHandle h fun s => match s.sendHandle h with
    | none => s.raise cOPERAND 0#64
    | some (die, ch) =>
      if spaceOf p ≠ 0 then s.raise cADDR_SPACE p
      else match s.locate p 64 64 .atomic with
        | .wait s1 => s1.waits
        | .fault c t s1 => s1.raise c t
        | .ok _ s1 => s1.afterRelease fun s => match s.ctxRead die s.ctx p.toNat 64 with
          | (.error c, s2) => s2.raise c p
          | (.ok bs, s2) =>
            let n := s2.slNumber die ch s2.ctx
            let x := slDescOf h p s2.ctx n.1 (s2.chan die ch).opened bs
            if !x.valid bs || (s2.openXfer die ch s2.ctx x.xid).isSome then s2.raise cOPERAND 0#64
            else (n.2.modChan die ch fun c => { c with transfers := c.transfers ++ [{ desc := x }], opened := c.opened + 1 }).strmDone d (BitVec.ofNat 64 n.1)

/-- Send an item of a channel: it takes the channel's next q (21 R337). A receiver follows its own items of the channel by
their count (DEDUCED, log 47). -/
def State.slPut (s : State) (die : Nat) (i : SlItem) : State :=
  let key := chanKey i.desc.handle
  let c := s.chan die key
  let to_ := slTarget i.desc.handle
  let i1 := { i with q := c.nextQ, k := (alGet to_ c.sentTo).getD 0 }
  (s.setChan die key { c with unacked := c.unacked ++ [i1], nextQ := c.nextQ + 1, sentTo := alSet to_ (i1.k + 1) c.sentTo }).slSend
    { sender := s.slKey die, receiver := to_, chan := key, body := .item i1 }

/-- A cancel of an open transfer: nothing more of it is sent; the cancel goes out at once, or when the window opens, behind
the cancels that wait already. -/
def State.slCancel (s : State) (die : Nat) (t : Transfer) (num : Option Nat) : State :=
  let key := chanKey t.desc.handle
  let c := s.chan die key
  let c1 := { c with transfers := c.transfers.map fun y => if y.desc = t.desc then { y with stop := true } else y }
  let i : SlItem := { q := 0, cancel := true, num := num, desc := t.desc }
  if c.pending.isEmpty && decide (c.unacked.length < 4096) then (s.setChan die key c1).slPut die i
  else s.setChan die key { c1 with pending := c1.pending ++ [i] }

/-- SLCANCEL. -/
def execSlcancel (d a b : RegNo) (s : State) : Out :=
  let v := (s.reg b).toNat
  s.afterPackets fun s => s.onHandle (s.reg a) fun s => match s.sendHandle (s.reg a) with
    | none => s.raise cOPERAND 0#64
    | some (die, ch) =>
      if 2 ^ 16 ≤ v then s.raise cOPERAND 0#64
      else s.afterRelease fun s =>
        let n := s.slNumber die ch s.ctx
        match s.openXfer die ch s.ctx v with
        | some t => (n.2.slCancel die t (some n.1)).strmDone d (BitVec.ofNat 64 n.1)
        | none => (n.2.slComplete die ch s.ctx n.1).strmDone d (BitVec.ofNat 64 n.1)

end Sys2Proof.Machine
end

