-- ==== Sys2Proof/Machine/Sys.lean ====
section
/-!
DEFINITION. SYS words (22 R351–R354), the control registers (22 R355–R361), the containment codes of TRAP (24 R374), the
dictionary pair (01 R19, R20) and the events that belong to them.
-/
namespace Sys2Proof.Machine

/-! ## Control registers (Table 114) -/

/-- A register of Table 114. -/
inductive Cr where
  | tlevel
  | tcause (second : Bool)
  | tret (second : Bool)
  | tval (second : Bool)
  | tscr (second : Bool)
  | tvec
  | fectl
  | spinl
  | ssp
  | lkeep
  | whw
  | prq
  | pdl
  | stgno
  | stgnext
  | stgprev
  | rank
  | ctxid
  | time
  | cycle
  | split
  | tinv
  | wpaddr (n : Fin 4)
  | wpctl (n : Fin 4)
  | evsel
  | evcnt (n : Fin 8)
  | devcnt (n : Fin 16)
  | loop (level part : Nat)
deriving DecidableEq, Repr

/-- The register of a number. -/
def crOf (n12 : BitVec 12) : Option Cr :=
  let n := n12.toNat
  if h : 0x40 ≤ n ∧ n < 0x44 then some (.wpaddr ⟨n - 0x40, by omega⟩)
  else if h : 0x44 ≤ n ∧ n < 0x48 then some (.wpctl ⟨n - 0x44, by omega⟩)
  else if h : 0x58 ≤ n ∧ n < 0x60 then some (.evcnt ⟨n - 0x58, by omega⟩)
  else if h : 0x60 ≤ n ∧ n < 0x70 then some (.devcnt ⟨n - 0x60, by omega⟩)
  else if 0x80 ≤ n ∧ n < 0x8C then some (.loop ((n - 0x80) / 3) ((n - 0x80) % 3))
  else match n with
    | 0x000 => some .tlevel
    | 0x001 => some (.tcause false)
    | 0x002 => some (.tcause true)
    | 0x003 => some (.tret false)
    | 0x004 => some (.tret true)
    | 0x005 => some (.tval false)
    | 0x006 => some (.tval true)
    | 0x007 => some (.tscr false)
    | 0x008 => some (.tscr true)
    | 0x009 => some .tvec
    | 0x010 => some .fectl
    | 0x011 => some .spinl
    | 0x012 => some .ssp
    | 0x013 => some .lkeep
    | 0x014 => some .whw
    | 0x018 => some .prq
    | 0x019 => some .pdl
    | 0x020 => some .stgno
    | 0x021 => some .stgnext
    | 0x022 => some .stgprev
    | 0x028 => some .rank
    | 0x029 => some .ctxid
    | 0x02A => some .time
    | 0x02B => some .cycle
    | 0x030 => some .split
    | 0x031 => some .tinv
    | 0x050 => some .evsel
    | _ => none

/-- Split in force for a context on a die (12 R230, 22 R359). -/
def State.splitOf (s : State) (ctx die : Nat) : Nat :=
  if isDDie die && (s.die die).dgrant == some ctx then (s.die die).split else 16

/-- A loop level as LPSn, LPEn, LPRn read it: 0 when inactive. -/
def LoopLevel.part (l : LoopLevel) (p : Nat) : Word :=
  if !l.active then 0#64 else match p with
    | 0 => l.start
    | 1 => l.stop
    | _ => l.remaining

/-- Value of PDL: what is left while PRQ = 1, else the deadline of the context's descriptor. -/
def State.pdlOf (s : State) (u : Core) : Nat :=
  if u.ctl.prq then u.ctl.pdl else match s.ctx? u.unit.ctx with
    | some c => c.pdl
    | none => u.ctl.pdl

/-- read_cr. -/
def State.readCr (s : State) (r : Cr) : Word :=
  let c := s.core.ctl
  match r with
  | .tlevel => zext 2 c.tlevel
  | .tcause b => if b then c.tcause2 else c.tcause1
  | .tret b => if b then c.tret2 else c.tret1
  | .tval b => if b then c.tval2 else c.tval1
  | .tscr b => if b then c.tscr2 else c.tscr1
  | .tvec => c.tvec
  | .fectl => if c.dzt then 1#64 else 0#64
  | .spinl => BitVec.ofNat 64 c.spinl
  | .ssp => s.core.ssp
  | .lkeep => zext 32 c.lkeep
  | .whw => BitVec.ofNat 64 c.whw
  | .prq => if c.prq then 1#64 else 0#64
  | .pdl => BitVec.ofNat 64 (s.pdlOf s.core)
  | .stgno => c.stgno
  | .stgnext => c.stgnext
  | .stgprev => c.stgprev
  | .rank => BitVec.ofNat 64 (rankWord s.cur)
  | .ctxid => BitVec.ofNat 64 s.ctx
  | .time => BitVec.ofNat 64 s.time
  | .cycle => c.cycle
  | .split => BitVec.ofNat 64 (s.splitOf s.ctx (dieOf s.cur))
  | .tinv => 0#64
  | .wpaddr n => c.wpaddr[n]
  | .wpctl n => c.wpctl[n]
  | .evsel => c.evsel
  | .evcnt n => c.evcnt[n]
  | .devcnt n => if s.dieAllowed s.ctx (dieOf s.cur) then (s.die (dieOf s.cur)).devcnt[n] else 0#64
  | .loop l p => match (bankOf s.core c.tlevel)[l]? with
    | some x => x.part p
    | none => 0#64

/-- Change the control registers of the unit in focus. -/
def State.modCtl (s : State) (f : Ctl → Ctl) : State := s.modCore fun u => { u with ctl := f u.ctl }

/-- A write of a register that has no behaviour of its own; none raises OPERAND_INVALID or CR_PERM by its cause. -/
def State.setCr (s : State) (r : Cr) (v : Word) : Except Nat State :=
  match r with
  | .tcause b => .ok (s.modCtl fun c => if b then { c with tcause2 := v &&& tcauseMask } else { c with tcause1 := v &&& tcauseMask })
  | .tret b => .ok (s.modCtl fun c => if b then { c with tret2 := v } else { c with tret1 := v })
  | .tval b => .ok (s.modCtl fun c => if b then { c with tval2 := v } else { c with tval1 := v })
  | .tscr b => .ok (s.modCtl fun c => if b then { c with tscr2 := v } else { c with tscr1 := v })
  | .tvec => if targetOk v then .ok (s.modCtl fun c => { c with tvec := v }) else .error cOPERAND
  | .fectl => .ok (s.modCtl fun c => { c with dzt := v.getLsbD 0 })
  | .spinl =>
    let n := v.toNat % 2 ^ 21
    if n ≤ 2 ^ 20 then .ok (s.modCtl fun c => { c with spinl := n }) else .error cOPERAND
  | .ssp => .ok (s.modCore fun u => { u with ssp := v })
  | .lkeep =>
    let n := v.toNat % 2 ^ 32
    if n % 4096 = 0 ∧ n ≤ localSize s.cur then .ok (s.modCtl fun c => { c with lkeep := BitVec.ofNat 32 n }) else .error cOPERAND
  | .wpaddr n => .ok (s.modCtl fun c => { c with wpaddr := c.wpaddr.set n v })
  | .evsel => .ok (s.modCtl fun c => { c with evsel := v })
  | .evcnt n => .ok (s.modCtl fun c => { c with evcnt := c.evcnt.set n v })
  | _ => .error cCR_PERM

/-! ## SPLIT (12 R231, 22 R359) -/

/-- A write of SPLIT: it joins the changes of the die in the order they reach it, and its word completes once it has taken
effect; `k` ends the word with what the register read before. -/
def State.writeSplit (s : State) (v : Word) (k : State → Word → Out) : Out :=
  let die := dieOf s.cur
  let n := v.toNat % 32
  match s.core.stall with
  | .took old => k s old
  | _ =>
    if (s.die die).splitTo.any fun x => decide (x.1 = s.cur) && decide (x.2.1 = s.ctx) then s.waits (.control false)
    else if isPDie die ∨ (s.die die).dgrant ≠ some s.ctx then s.raise cCR_PERM 0#64
    else if 16 < n then s.raise cOPERAND 0#64
    else (s.modDie die fun d => { d with splitTo := d.splitTo ++ [(s.cur, s.ctx, n)] }).waits (.control false)

/-- SPLIT: a write of SPLIT by the unit in focus. -/
def execSplitWrite (value : Word) (s : State) : Out := s.writeSplit value fun s _ => s.fin

/-- Write back and drop every cached line of a stack. -/
def State.flushStack (s : State) (k : Nat) : State :=
  ((s.stack k).sram.map (·.line)).foldl (fun s line =>
    let r := s.evict k line
    r.2.lostLines r.1) s

/-- SHARED bytes of the ways from lo up to hi − 1 (12 R230): their first offset and their number. -/
def wayBytes (lo hi : Nat) : Nat × Nat := ((16 - hi) * (24 * 2 ^ 20), (hi - lo) * (24 * 2 ^ 20))

/-- The stores that their banks hold for ways that have changed perform against the new size (R231). -/
def State.heldStores (s : State) (die lo hi : Nat) : State :=
  s.units.foldl (fun s x => x.2.stores.foldl (fun s e => match e.loc with
    | .shared d off => if d = die ∧ lo ≤ wayOf off ∧ wayOf off < hi ∧ (s.unitAt x.1).mayPerform x.1 e then (s.performNow x.1 e).2 else s
    | _ => s) s) s

/-- SPLIT_TAKES_EFFECT (R231): the oldest change of a die. Ways that leave the cache are flushed, every changing way is
zeroed, the held accesses go on, and the word that asked completes. -/
def execSplitTakesEffect (die : Nat) (s : State) : Out :=
  match (s.die die).splitTo with
  | [] => .next s
  | (r, ctx, w) :: rest =>
    let old := (s.die die).split
    let lo := min old w
    let hi := max old w
    let s1 := if w < old then s.flushStack (die - 32) else s
    let z := wayBytes lo hi
    let s2 : State := { s1 with mem := Memory.clear s1.mem (sharedKey die z.1) z.2 }
    let s3 := (s2.modDie die fun d => { d with split := w, splitTo := rest }).heldStores die lo hi
    .next (s3.modUnit r fun u => if u.unit.running ∧ u.unit.ctx = ctx ∧ u.stall = .control false
      then { u with stall := .took (BitVec.ofNat 64 old) } else u)

/-! ## TINV (04 R87, 22 R360) -/

/-- The range of a TINV value: its first address and length. -/
def tinvRange (v : Word) : Nat × Nat :=
  let va := bitsAt v.toNat 16 41 * 2 ^ 16
  match bitsAt v.toNat 2 2 with
  | 0 => (va, 2 ^ 16)
  | 1 => (va / 2 ^ 21 * 2 ^ 21, 2 ^ 21)
  | 2 => (va / 2 ^ 30 * 2 ^ 30, 2 ^ 30)
  | _ => (0, 2 ^ 57)

/-- A PUSHM has made a part of its stores; where the rest go has been translated. -/
def Core.pushes (u : Core) : Bool := match u.stall with
  | .pushing _ _ => true
  | _ => false

/-- Every access of a context that is already translated has performed. -/
def State.translatedDone (s : State) (ctx : Nat) : Bool :=
  s.units.all fun x => !((x.2.unit.ctx == ctx && (x.2.stores.any (fun e => !e.performed) || (decide (x.1 ≠ s.cur) && (x.2.pend.isSome || !x.2.loads.isEmpty || x.2.pushes))))
    || x.2.outgoing.any fun o => o.ctx == ctx)

/-- A write of TINV: a release of all classes, then the invalidation in every cache; the accesses already translated have
performed before it completes. -/
def State.writeTinv (s : State) (v : Word) (k : State → Word → Out) : Out :=
  s.afterRelease fun s =>
    let s1 := ((s.units.filter fun x => x.2.unit.ctx = s.ctx).map (·.1)).foldl (fun s r => s.drain r allClasses) s
    if s1.translatedDone s1.ctx then k (s1.invalidate s1.ctx (tinvRange v).1 (tinvRange v).2) 0#64 else s1.waits (.control false)

/-- TINV: a write of TINV by the unit in focus. -/
def execTinv (value : Word) (s : State) : Out := s.writeTinv value fun s _ => s.fin

/-! ## Watchpoints (05 R111, 22 R358) -/

/-- Take a watchpoint of a unit out of every slice and bank. -/
def State.disarm (s : State) (rank num : Nat) : State :=
  s.mapDies fun d => { d with slices := d.slices.filter fun w => !(decide (w.rank = rank) && decide (w.num = num)) }

/-- Where a watchpoint of the unit in focus lies: its die, whether it is SHARED, and its first byte there. -/
def State.watchRange (s : State) (p : Word) (len : Nat) : Acc (Nat × Bool × Nat) :=
  if spaceOf p = 0 then
    if p.toNat / 2 ^ 57 ≠ 0 then .fault cADDR_RANGE p s
    else if 65536 < p.toNat % 65536 + len then .fault cOPERAND 0#64 s
    else match s.xlate s.cur false p.toNat .load with
      | .miss s1 => .wait s1
      | .fault c s1 => .fault c p s1
      | .ok pa _ s1 => if s1.portRefuses s1.ctx pa then .fault cFABRIC p s1 else .ok (homeDie pa, false, pa) s1
  else if spaceOf p = 1 then
    match s.rankFault s.ctx s.cur 1 (rankField p) (offOf p) len with
    | some _ => .fault cOPERAND 0#64 s
    | none =>
      let die := dieOf (resolveRank s.cur 1 (rankField p))
      .ok (die, true, s.sharedOff s.ctx die (offOf p)) s
  else .fault cOPERAND 0#64 s

def Ctl.setWpctl (c : Ctl) (n : Fin 4) (v : Word) : Ctl := { c with wpctl := c.wpctl.set n v }

/-- A write of WPCTLn with EN = 1: the watchpoint is armed afresh; a failure leaves it disarmed, with EN clear. -/
def State.armWatch (s : State) (n : Fin 4) (v : Word) (k : State → Word → Out) : Out :=
  s.afterRelease fun s =>
    let old := s.core.ctl.wpctl[n]
    let p := s.core.ctl.wpaddr[n]
    let len := v.toNat % 65536 + 1
    match s.watchRange p len with
    | .wait s1 => s1.waits (.control false)
    | .fault c t s1 => ((s1.disarm s1.cur n).modCtl fun c => c.setWpctl n (old &&& 0xFFFF#64)).raise c t
    | .ok (die, sh, at_) s1 =>
      let w : Watch := { ctx := s1.ctx, rank := s1.cur, num := n, va := p, shared := sh, die := die, start := at_, len := len }
      let s2 := (s1.disarm s1.cur n).modDie die fun d => { d with slices := d.slices ++ [w] }
      k (s2.modCtl fun c => c.setWpctl n (v &&& wpctlMask)) old

/-- A write of WPCTLn with EN = 0. -/
def State.disarmWatch (s : State) (n : Fin 4) (v : Word) (k : State → Word → Out) : Out :=
  s.afterRelease fun s =>
    let old := s.core.ctl.wpctl[n]
    k ((s.disarm s.cur n).modCtl fun c => c.setWpctl n (v &&& 0xFFFF#64)) old

/-- WATCHPOINT_ARM: a write of WPCTLn with EN = 1 by the unit in focus. -/
def execWatchpointArm (n : BitVec 2) (value : Word) (s : State) : Out := s.armWatch ⟨n.toNat, by omega⟩ value fun s _ => s.fin

/-- WATCHPOINT_DISARM: a write of WPCTLn with EN = 0 by the unit in focus. -/
def execWatchpointDisarm (n : BitVec 2) (value : Word) (s : State) : Out := s.disarmWatch ⟨n.toNat, by omega⟩ value fun s _ => s.fin

/-! ## The words -/

/-- write_cr: `k` ends the word with what the register read before. -/
def State.writeCr (s : State) (r : Cr) (v : Word) (k : State → Word → Out) : Out :=
  match r with
  | .split => s.writeSplit v k
  | .tinv => s.writeTinv v k
  | .wpctl n => if v.getLsbD 63 then s.armWatch n v k else s.disarmWatch n v k
  | _ => match s.setCr r v with
    | .ok s1 => k s1 (s.readCr r)
    | .error c => s.raise c 0#64

/-- NOP. -/
def execNop (s : State) : Out := s.fin

/-- TRAP: SOFT_TRAP with the code in STATUS, returning past the word. -/
def execTrapCode (n : BitVec 12) (s : State) : Out :=
  .next (s.raiseWith cSOFT_TRAP s.core.wordTval (n.setWidth 32) s.core.nextPos)

/-- TRAP 0xFF0: the step is restarted; in a task OPERAND_INVALID. -/
def execTrapRestartStep (s : State) : Out :=
  if s.core.unit.isStep then .next (s.restartStep s.cur cSOFT_TRAP false) else s.raise cOPERAND 0#64

/-- TRAP 0xFF1: the context is rolled back; with no interval open CHK_STATE. -/
def execTrapRollBack (s : State) : Out :=
  if s.intervalOpen s.ctx then .next (s.rollBack s.ctx (some s.cur) cSOFT_TRAP { packed := cSOFT_TRAP, pos := s.core.pc })
  else s.raise cCHK_STATE 0#64

/-- TRAP 0xFF2: the context is killed; a unit of no context is cleared. -/
def execTrapKillContext (s : State) : Out :=
  match s.ctx? s.ctx with
  | some _ => .next (s.fatalKill s.ctx (some s.cur) cHANDLER_KILL { packed := cHANDLER_KILL, pos := s.core.pc })
  | none => .next (s.clearUnit s.cur)

/-- TRAP 0xFF3: the unit ends as STEPEND ends it. -/
def execTrapEndUnit (s : State) : Out := s.stepEnd

/-- Return from a trap to a position (R352): the level falls, its loop bank is in force again (02 R49), held commands are
released (24 R377), the fetch buffer is invalid (R354). -/
def Core.leaveTrap (u : Core) (t : Word) : Core :=
  let u1 := (u.countEvent 2 1)
  { u1 with ctl := { u1.ctl with tlevel := u1.ctl.tlevel - 1#2 }, pc := t, sel := none, stall := .none, pend := none, fetchBuf := [],
            cpe := u1.cpe.release, mat := u1.mat.release, vec := u1.vec.release }

/-- TRET. -/
def execTret (s : State) : Out :=
  if s.core.ctl.tlevel = 0#2 then s.illegal
  else
    let t := if s.core.ctl.tlevel = 1#2 then s.core.ctl.tret1 else s.core.ctl.tret2
    if resumeOk t then .next (s.modCore fun u => u.leaveTrap t) else s.raise cFETCH_ADDR t

/-- CRR. -/
def execCrr (d : RegNo) (n : BitVec 12) (s : State) : Out :=
  match crOf n with
  | none => s.illegal
  | some r => s.writes d (s.readCr r)

/-- CRW. -/
def execCrw (d : RegNo) (n : BitVec 12) (s : State) : Out :=
  match crOf n with
  | none => s.illegal
  | some r => s.writeCr r (s.reg d) fun s _ => s.fin

/-- CRX: one indivisible step. -/
def execCrx (d : RegNo) (n : BitVec 12) (s : State) : Out :=
  match crOf n with
  | none => s.illegal
  | some r => s.writeCr r (s.reg d) fun s old => s.writes d old

/-- BRK: the return address is its own position. -/
def execBrk (s : State) : Out := s.raise cBREAK s.core.wordTval

/-- DICTLD (R353). -/
def execDictld (a b : RegNo) (s : State) : Out :=
  let p := s.reg a
  let n := (s.reg b).toNat
  if spaceOf p ≠ 0 then s.raise cADDR_SPACE p
  else if p.toNat % 64 ≠ 0 then s.raise cMISALIGNED p
  else if 1024 < n then s.raise cOPERAND 0#64
  else if p.toNat / 2 ^ 57 ≠ 0 then s.raise cADDR_RANGE p
  else s.afterRelease fun s => match s.readDict (dieOf s.cur) s.ctx p n with
    | (.error (c, va), s1) => s1.raise c (BitVec.ofNat 64 va)
    | (.ok ws, s1) => (s1.modCore fun u => { u with dict := { ptr := p, count := n, words := ws }, fetchBuf := [] }).fin

/-- IFENCE (R354). -/
def execIfence (s : State) : Out := s.afterRelease fun s => (s.modCore fun u => { u with fetchBuf := [] }).fin

/-- FETCH_LINE: the unit in focus fetches a line ahead; a fetch that would fault reports nothing (04 R88). -/
def execFetchLine (va : Word) (s : State) : Out :=
  if !s.core.unit.running || decide (2 ^ 57 ≤ va.toNat) || (s.core.fetched va.toNat).isSome then .next s
  else match s.fillFetch va.toNat with
    | .ok _ s1 => .next s1
    | .wait s1 => .next s1
    | .fault _ _ _ => .next s

/-! ## Dictionary pairs (01 R19–R22) -/

/-- An entry of a kind that a dictionary may not hold (R20). -/
def forbiddenEntry (w : W32) : Bool :=
  let op := (fld w 26 6).toNat
  op == 0x0E || (decide (0x10 ≤ op) && decide (op ≤ 0x18)) || op == 0x3F || match decode w with
    | .ok .tret => true
    | .ok (.dictld _ _) => true
    | .ok (.cpin _ _ f) => f == 1#1
    | .ok (.cptin _ _ f) => f == 1#1
    | .ok (.cpll _ _ f) => f == 1#1
    | .ok (.gather _ _ _ f _) => f == 1#1
    | _ => false

/-- DICTIONARY_PAIR: the half at pc is selected: the low one at a multiple of 4, else the high one; the entry it names is
what the unit executes next. -/
def execDictionaryPair (j i : BitVec 10) (s : State) : Out :=
  let high := s.core.pc.toNat % 4 != 0
  let x := if high then j else i
  let w := s.core.dict.words.getD x.toNat 0#32
  let here : WordHere := { word := w, index := some x, high := high }
  if s.core.dict.count ≤ x.toNat ∨ forbiddenEntry w = true then (s.begin here).illegal
  else .next (s.modCore fun u => { u with sel := some here, stall := .none })

end Sys2Proof.Machine
end

