-- ==== Sys2Proof/Machine/Late.lean ====
section
/-!
DEFINITION. Loads and atomics that issue and perform later, and the tentative words behind them (02 R34, R53, R407; 05 R95,
R96; 07 R150).
-/
namespace Sys2Proof.Machine

/-! ## Words that may perform later -/

/-- A load, atomic, POPM or descriptor-load word as an access: where from, how much, its class, its ordering, and its meaning. -/
structure Access where
  ptr : Option Word
  size : Nat
  cls : Nat
  atomic : Bool := false
  acq : Bool := false
  pop : Bool := false
  run : State → Out

/-- The parts of an access: a POPM has one in each page of its range (02 R57). -/
def Access.places (a : Access) : List (Word × Nat) := match a.ptr with
  | none => []
  | some p => if a.pop && spaceOf p == 0 then rangePages p a.size else [(p, a.size)]

/-- Where the parts of an access lie. -/
def State.locateParts (s : State) (a : Access) (p : Word) : Acc (List (Word × Nat × Loc)) :=
  if a.pop then s.locateRange p a.size .load
  else match s.locate p a.size a.size (if a.atomic then .atomic else .load) with
    | .ok loc s1 => .ok [(p, a.size, loc)] s1
    | .wait s1 => .wait s1
    | .fault c t s1 => .fault c t s1

def State.loadAccess (s : State) (n : Nat) (b : RegNo) (c : BitVec 4) (r : BitVec 2) (o : BitVec 6) (run : State → Out) : Option Access :=
  some { ptr := ptrAdd (s.reg b) (scaledOff o n), size := n, cls := c.toNat, acq := decide (r ≠ 0#2), run := run }

def State.atomicAccess (s : State) (n : Nat) (r : BitVec 2) (a : RegNo) (c : BitVec 4) (run : State → Out) : Option Access :=
  some { ptr := some (s.reg a), size := n, cls := c.toNat, atomic := true, acq := decide (r ≠ 0#2), run := run }

/-- A POPM reads class 0 from ssp on (02 R56). -/
def State.popAccess (s : State) (f l : RegNo) (run : State → Out) : Option Access :=
  let n := 8 * (l.toNat - f.toNat + 1)
  some { ptr := (ptrAdd s.core.ssp (n : Int)).map fun _ => s.core.ssp, size := n, cls := 0, pop := true, run := run }

/-- The loads, atomics, POPM and descriptor loads (02 R50, R56, R58–R61, 07 R133). -/
def State.access (s : State) : Instr → Option Access
  | .ldb d b c p r o => s.loadAccess 1 b c r o (execLdb d b c p r o)
  | .ldh d b c p r o => s.loadAccess 2 b c r o (execLdh d b c p r o)
  | .ldw d b c p r o => s.loadAccess 4 b c r o (execLdw d b c p r o)
  | .ldd d b c p r o => s.loadAccess 8 b c r o (execLdd d b c p r o)
  | .ldsb d b c p r o => s.loadAccess 1 b c r o (execLdsb d b c p r o)
  | .ldsh d b c p r o => s.loadAccess 2 b c r o (execLdsh d b c p r o)
  | .ldsw d b c p r o => s.loadAccess 4 b c r o (execLdsw d b c p r o)
  | .tdld t b c o => if classOf s.cur = 2 then none else
      some { ptr := ptrAdd (s.reg b) (o.toInt * 16), size := 16, cls := c.toNat, run := execTdld t b c o }
  | .popm f l => s.popAccess f l (execPopm f l)
  | .amoswapW r d a b c => s.atomicAccess 4 r a c (execAmoswapW r d a b c)
  | .amoswapD r d a b c => s.atomicAccess 8 r a c (execAmoswapD r d a b c)
  | .amoaddW r d a b c => s.atomicAccess 4 r a c (execAmoaddW r d a b c)
  | .amoaddD r d a b c => s.atomicAccess 8 r a c (execAmoaddD r d a b c)
  | .amoandW r d a b c => s.atomicAccess 4 r a c (execAmoandW r d a b c)
  | .amoandD r d a b c => s.atomicAccess 8 r a c (execAmoandD r d a b c)
  | .amoorW r d a b c => s.atomicAccess 4 r a c (execAmoorW r d a b c)
  | .amoorD r d a b c => s.atomicAccess 8 r a c (execAmoorD r d a b c)
  | .amoxorW r d a b c => s.atomicAccess 4 r a c (execAmoxorW r d a b c)
  | .amoxorD r d a b c => s.atomicAccess 8 r a c (execAmoxorD r d a b c)
  | .amominW r d a b c => s.atomicAccess 4 r a c (execAmominW r d a b c)
  | .amominD r d a b c => s.atomicAccess 8 r a c (execAmominD r d a b c)
  | .amomaxW r d a b c => s.atomicAccess 4 r a c (execAmomaxW r d a b c)
  | .amomaxD r d a b c => s.atomicAccess 8 r a c (execAmomaxD r d a b c)
  | .amominuW r d a b c => s.atomicAccess 4 r a c (execAmominuW r d a b c)
  | .amominuD r d a b c => s.atomicAccess 8 r a c (execAmominuD r d a b c)
  | .amomaxuW r d a b c => s.atomicAccess 4 r a c (execAmomaxuW r d a b c)
  | .amomaxuD r d a b c => s.atomicAccess 8 r a c (execAmomaxuD r d a b c)
  | .casW r d a b c => s.atomicAccess 4 r a c (execCasW r d a b c)
  | .casD r d a b c => s.atomicAccess 8 r a c (execCasD r d a b c)
  | .cas2 r d a b c => s.atomicAccess 16 r a c (execCas2 r d a b c)
  | .amofadd r d a b c => s.atomicAccess 4 r a c (execAmofadd r d a b c)
  | _ => none

/-! ## What a word reads and writes (01 R11) -/

/-- A register of a field, and of CAS2 the pair it begins. -/
def fieldRegs (w : W32) (lo : Nat) (pair : Bool) : List RegNo :=
  let r : RegNo := fld w lo 6
  if pair then [r, r + 1#6] else [r]

/-- CAS2 (01 Table 6). -/
def isCas2 (w : W32) : Bool := decide (0x28 ≤ (fld w 26 6).toNat) && decide ((fld w 26 6).toNat ≤ 0x2F) && fld w 4 4 == 0xA#4

/-- The general registers that an engine word reads (07 Table 39, 08 Table 42, 09 Table 51). -/
def engineRegs : Instr → List RegNo
  | .cpin _ b _ | .cpout _ b | .fill _ b | .slotret b _ | .vscl _ _ b | .vbcastScalar _ b => [b]
  | .cptin _ b _ | .cptout _ b | .gather _ _ b _ _ | .scatter _ _ b _ | .idxld _ b | .subscr _ b _ | .vrot _ _ b _ | .vrng _ b
  | .vsample _ _ b => [pairReg b, nextReg (pairReg b)]
  | .promote b => [BitVec.ofNat 6 (4 * b.toNat)]
  | .mma _ _ _ g _ | .mvm _ _ _ g _ | .mmapLead _ _ _ g | .mmapFol _ _ g => [g]
  | .vadd _ _ b m | .vsub _ _ b m | .vmul _ _ b m | .vfma _ _ b m | .vmin _ _ b m | .vmax _ _ b m | .vadds _ _ b m | .vand _ _ b m
  | .vor _ _ b m | .vxor _ _ b m | .vshl _ _ b m | .vshr _ _ b m | .vcmpeq _ _ b m | .vcmplt _ _ b m | .vcmple _ _ b m
  | .vsel _ _ b m => if m = 3#2 then [b] else []
  | _ => []

/-- The tile descriptors that an engine word names. -/
def engineTiles : Instr → List Nat
  | .cpin d _ _ | .fill d _ | .mzero d | .vbcastScalar d _ => [d.toNat]
  | .cptin d _ _ | .subscr d _ _ | .vrng d _ => [d.toNat]
  | .gather d _ _ _ _ => [d.toNat]
  | .cpout a _ | .cbld a => [a.toNat]
  | .cptout a _ | .scatter _ a _ _ => [a.toNat]
  | .cpll d a _ | .wbld d a | .vabs d a | .vneg d a | .vscl d a _ | .vmov d a | .vbcast d a _ | .vtrans d a | .vexp d a | .vexp2 d a
  | .vlog2 d a | .vrcp d a | .vrsqrt d a | .vsqrt d a | .vtanh d a | .vsigm d a | .vsilu d a | .vgelu d a | .vcvt d a _
  | .vquant d a | .vdquant d a | .vrsum d a _ | .vrmax d a | .vrmin d a | .vargmax d a => [d.toNat, a.toNat]
  | .vrot d a _ _ | .vsample d a _ => [d.toNat, a.toNat]
  | .mma d a b _ _ | .mvm d a b _ _ | .mmapLead d a b _ => [d.toNat, a.toNat, b.toNat]
  | .mmapFol d b _ => [d.toNat, b.toNat]
  | .vsmaxo d a b | .vsmaxf d a b => [d.toNat, a.toNat, b.toNat % 32]
  | .vadd d a b m | .vsub d a b m | .vmul d a b m | .vfma d a b m | .vmin d a b m | .vmax d a b m | .vadds d a b m | .vand d a b m
  | .vor d a b m | .vxor d a b m | .vshl d a b m | .vshr d a b m | .vcmpeq d a b m | .vcmplt d a b m | .vcmple d a b m
  | .vsel d a b m => [d.toNat, a.toNat] ++ if m = 3#2 then [] else [b.toNat % 32]
  | _ => []

/-- An engine word, as an instruction. -/
def engineInstr (w : W32) : Option Instr :=
  if 0x32 ≤ (fld w 26 6).toNat ∧ (fld w 26 6).toNat ≤ 0x35 then (decode w).toOption else none

/-- The general registers a word that may be tentative names (01 Table 4). -/
def wordRegs (w : W32) : List RegNo :=
  let m := (fld w 26 6).toNat
  if m = 0x01 ∨ m = 0x02 ∨ m = 0x0C then fieldRegs w 20 false ++ fieldRegs w 14 false ++ fieldRegs w 8 false
  else if (0x03 ≤ m ∧ m ≤ 0x09) ∨ m = 0x17 ∨ (0x10 ≤ m ∧ m ≤ 0x15) ∨ (0x1A ≤ m ∧ m ≤ 0x24) then fieldRegs w 20 false ++ fieldRegs w 14 false
  else if (0x0A ≤ m ∧ m ≤ 0x0E) ∨ m = 0x16 ∨ m = 0x18 then fieldRegs w 20 false
  else if m = 0x25 then
    let f := (fld w 20 6).toNat
    (List.range ((fld w 14 6).toNat + 1 - f)).map fun i => BitVec.ofNat 6 (f + i)
  else if m = 0x27 then fieldRegs w 14 false
  else if 0x28 ≤ m ∧ m ≤ 0x2F then fieldRegs w 20 (isCas2 w) ++ fieldRegs w 14 false ++ fieldRegs w 8 (isCas2 w)
  else if m = 0x30 ∨ m = 0x37 then fieldRegs w 14 false
  else ((engineInstr w).map engineRegs).getD []

/-- The tile descriptors it names. -/
def wordTiles (w : W32) : List Nat :=
  if fld w 26 6 = 0x27#6 then [(fld w 21 5).toNat] else ((engineInstr w).map engineTiles).getD []

/-- The access is a POPM. -/
def Late.pops (l : Late) : Bool := fld l.ir.word 26 6 == 0x25#6

/-- The general registers that a load or atomic writes when it returns. -/
def Late.dests (l : Late) : List RegNo :=
  if fld l.ir.word 26 6 = 0x27#6 then []
  else (if l.pops then wordRegs l.ir.word else fieldRegs l.ir.word 20 (isCas2 l.ir.word)).filter fun r => r ≠ 0#6

/-- Those of them that no word issued before the unit's count was n has written since (02 R34). -/
def Late.destsAt (l : Late) (n : Nat) : List RegNo := l.dests.filter fun r => !(l.dead.any fun d => d.1 == r && decide (d.2 ≤ n))

/-- The descriptor that a TDLD writes when it returns. -/
def Late.tiles (l : Late) : List Nat := if fld l.ir.word 26 6 = 0x27#6 then [(fld l.ir.word 21 5).toNat] else []

/-- The register that a word writes and does not read (01 Table 4; 02 Table 12): CAS, LIM and LIH read theirs. -/
def wordKills (w : W32) : Option RegNo :=
  let m := (fld w 26 6).toNat
  let d : RegNo := fld w 20 6
  let a : RegNo := fld w 14 6
  let b : RegNo := fld w 8 6
  if m = 0x0A ∨ m = 0x0E ∨ m = 0x16 then some d
  else if (0x03 ≤ m ∧ m ≤ 0x09) ∨ m = 0x17 ∨ (0x1A ≤ m ∧ m ≤ 0x20) then if d = a then none else some d
  else if m = 0x01 ∨ m = 0x02 ∨ m = 0x0C ∨ ((0x28 ≤ m ∧ m ≤ 0x2F) ∧ fld w 4 4 ≠ 0x9#4 ∧ fld w 4 4 ≠ 0xA#4) then
    if d = a ∨ d = b then none else some d
  else none

/-- A word reads no destination of an access that has not returned (02 R34), and names none of its descriptors. -/
def Core.clearOf (u : Core) (w : W32) : Bool :=
  u.loads.all fun l => !((l.destsAt u.seq).any fun r => (wordRegs w).contains r && wordKills w != some r) &&
    !(l.tiles.any fun t => (wordTiles w).contains t)

/-- A word that may issue while an earlier access has not returned: its effects can be undone, or wait. Words of the system,
synchronisation, continuation and stream groups, LOOP, PUSHM and POPM never do (02 R407); a FENCE waits for the accesses of its
classes (R63, DEDUCED, log 131), and so a store with release for all. -/
def Core.mayIssue (u : Core) (w : W32) : Bool :=
  let m := (fld w 26 6).toNat
  u.loads.isEmpty || (u.clearOf w && !u.inWord &&
    (if m = 0x26 then u.loads.all fun l => !(fld w 0 16).getLsbD l.cls
     else if 0x21 ≤ m ∧ m ≤ 0x24 then fld w 6 2 == 0#2
     else !([0x18, 0x25, 0x30, 0x31, 0x36, 0x37].contains m)))

/-! ## Issue -/

/-- Issue an access that performs later: its addresses are checked and translated, later words run before it returns. -/
def State.issueLate (s : State) (w : WordHere) (i : Instr) : Option State :=
  let s := s.begin w
  if s.core.inWord then none
  else match s.access i with
  | none => none
  | some a => match a.ptr with
    | none => none
    | some p => match s.locateParts a p with
      | .ok locs s1 =>
        if a.atomic && (locs.any fun x => (s1.ownWatch x.1 x.2.2 x.2.1).isSome) then none
        else match locs.map fun x => (x.2.2, x.2.1) with
        | [] => none
        | x :: more =>
          let u := s1.core
          let l : Late := { ir := w, pc := u.pc, ssp := u.ssp, sel := u.sel, regs := u.regs, tds := u.tds, loops := u.loops, loc := x.1,
                            size := x.2, more := more, cls := a.cls, atomic := a.atomic, acq := a.acq, seq := u.seq, pend := u.pend }
          some { s1 with core := { u.done with ctl := u.ctl, loads := u.loads ++ [l], seq := u.seq + 1 } }
      | _ => none

/-- The commands a step has issued name no destination of an access that has not returned. -/
def Core.newClear (u t : Core) : Bool := t.cmdsAll.all fun c => decide (c.seq < u.seq) || u.clearOf c.word

/-- The destinations of accesses out since before the unit's count was n that a word has written belong to that word. -/
def Core.kill (u : Core) (n : Nat) : Core := match wordKills u.ir.word with
  | some r => { u with loads := u.loads.map fun l => if l.seq < n then { l with dead := (r, u.seq) :: l.dead } else l }
  | none => u

/-- What becomes of a word that has run behind an access that has not returned: its effects stay, to be undone if need be; a
word that traps, or stops, waits until every such access has returned (02 R407). -/
def State.accept (s : State) (r : Out) : Out :=
  if s.core.loads.isEmpty then r
  else match r with
    | .next t => match t.core.stall with
      | .none => if t.core.ctl.tlevel = s.core.ctl.tlevel ∧ t.core.unit = s.core.unit ∧ s.core.newClear t.core = true then .next (t.modCore fun u => u.kill s.core.seq) else s.waits
      | .pushing _ _ => s.waits
      | _ => .next t
    | _ => s.waits

/-! ## Performance -/

/-- The places of an access. -/
def Late.parts (l : Late) : List (Loc × Nat) := (l.loc, l.size) :: l.more

/-- Two accesses touch a common byte. -/
def Late.meets (l x : Late) : Bool := l.parts.any fun p => x.parts.any fun q => p.1.overlaps p.2 q.1 q.2

/-- An access may perform: no earlier one of its class has yet (05 R95), none on its bytes (02 R53), none with acquire (05
R96). An atomic performs once it is no longer tentative (02 R407). -/
def Core.mayRun (u : Core) (l : Late) : Bool :=
  (u.loads.filter fun x => decide (x.seq < l.seq)).all fun x => !l.atomic && decide (x.cls ≠ l.cls) && !x.acq && !x.meets l

/-- The results of an access that has returned, in the registers as they were when the unit's count was n. -/
def Late.give (l : Late) (v : Core) (n : Nat) (regs : Vector Word 64) : Vector Word 64 :=
  (l.destsAt n).foldl (fun g r => g.set! r.toNat (v.regs.toList.getD r.toNat 0#64)) regs
def Late.giveTds (l : Late) (v : Core) (tds : Vector (BitVec 128) 32) : Vector (BitVec 128) 32 :=
  l.tiles.foldl (fun g t => g.set! t (v.tds.toList.getD t 0#128)) tds

/-- A unit after one of its accesses has run in v, the unit as it was when the access issued: what the unit shares with it is
as v leaves it. An access that has returned gives its results; another waits on. -/
def Core.afterLate (u : Core) (l : Late) (v : Core) : Core :=
  let back := decide (v.seq = l.seq + 1)
  { u with
    regs := if back then l.give v u.seq u.regs else u.regs, tds := if back then l.giveTds v u.tds else u.tds
    ssp := if back && l.pops then v.ssp else u.ssp
    l1 := v.l1, tcache := v.tcache, reached := v.reached, ctl := v.ctl
    stores := v.stores ++ u.stores.filter fun e => decide (l.seq < e.seq)
    loads := if back then (u.loads.filter fun x => x.seq ≠ l.seq).map fun x =>
        if l.seq < x.seq then { x with regs := l.give v x.seq x.regs, tds := l.giveTds v x.tds, ssp := if l.pops then v.ssp else x.ssp } else x
      else u.loads.map fun x => if x.seq = l.seq then { x with pend := v.pend } else x }

/-- A load or atomic that has issued performs, if it may: its word runs in the unit as it was. A fault of the oldest one is
taken there, and every tentative effect after it is gone (02 R407). -/
def State.performLate (s : State) (rank : Nat) (l : Late) : State :=
  let u := s.unitAt rank
  if !u.mayRun l then s
  else match decode l.ir.word with
    | .error _ => s
    | .ok i =>
      let s0 := (s.focus rank).modCore fun u => u.backTo l
      match s0.access i with
      | none => s
      | some a => match a.run s0 with
        | .next t =>
          let v := t.core
          if v.ctl.tlevel = u.ctl.tlevel ∧ v.unit = u.unit then (t.modCore fun _ => u.afterLate l v).focus s.cur
          else if u.loads.head?.map (·.seq) = some l.seq then (t.dropAsked rank u.loads).focus s.cur
          else s
        | _ => s

end Sys2Proof.Machine
end

