-- ==== Sys2Proof/Machine/MemEvents.lean ====
section
/-!
DEFINITION. Events of memory: the front end's accesses at their points (R408), walks (04 R85, R86), and what happens on the
vertical buses, in the lane test and in the SRAM layer (12 R229, R236–R240).
-/
namespace Sys2Proof.Machine

/-! ## Accesses of a front end -/

/-- A remote load or atomic of a unit performs at its home: its request is answered, and its word completes when it runs
again. -/
def State.answerLoad (s : State) (rank : Nat) (p : Pend) (mark : Core → Pend → Core) : State :=
  if p.performed || p.failed.isSome then s
  else { s.modUnit rank fun u => mark u { p with performed := true } with
         fab := { s.fab with outstanding := s.fab.outstanding.filter fun q => q.id ≠ p.sent } }

/-- The remote access of the word at a unit's pc. -/
def State.performPend (s : State) (rank : Nat) : State :=
  match (s.unitAt rank).pend with
  | none => s
  | some p => s.answerLoad rank p fun u p => { u with pend := some p }

/-- The k-th load or atomic that a unit has issued and that has not returned: the answer of its request, or its performance. -/
def State.performLoad (s : State) (rank k : Nat) : State :=
  match (s.unitAt rank).loads[k]? with
  | none => s
  | some l => match l.pend.filter fun p => !p.performed && p.failed.isNone with
    | some p => s.answerLoad rank p fun u p => { u with loads := u.loads.set k { l with pend := some p } }
    | none => s.performLate rank l

/-- SCALAR_ACCESS_PERFORM: the entry of a unit's store buffer at an index performs if it may; past the buffer's end, its
loads and atomics that have issued, and then the remote access of the word at its pc. -/
def execScalarAccessPerform (rank index : Nat) (s : State) : Out :=
  let u := s.unitAt rank
  match u.stores[index]? with
  | some e => .next (if u.mayPerform rank e then (s.performNow rank e).2 else s)
  | none => .next (if index - u.stores.length < u.loads.length then s.performLoad rank (index - u.stores.length) else s.performPend rank)

/-- A store may be acknowledged: it has performed, and no earlier entry of its class is left (05 R95). -/
def Core.mayAck (u : Core) (e : StoreEntry) : Bool :=
  e.performed && !(u.stores.any fun x => decide (x.seq < e.seq) && decide (x.cls = e.cls))

/-- SCALAR_ACCESS_REPLY: the acknowledgement of a performed store frees its entry; a load or atomic ends in its word. -/
def execScalarAccessReply (rank index : Nat) (s : State) : Out :=
  match (s.unitAt rank).stores[index]? with
  | some e => .next (if (s.unitAt rank).mayAck e then s.modUnit rank fun u => { u with stores := u.stores.filter fun x => x.seq ≠ e.seq } else s)
  | none => .next s

/-! ## Walks -/

/-- TRANSLATION_WALK: the walker of a die takes its oldest miss; 32 walks are in flight at most (04 R85). -/
def execTranslationWalk (die : Nat) (s : State) : Out :=
  let d := s.die die
  match d.missq with
  | [] => .next s
  | w :: rest =>
    if 32 ≤ (d.walks.filter fun x => x.ended.isNone).length then .next s
    else match s.ctx? w.ctx with
      | none => .next (s.modDie die fun d => { d with missq := rest, walks := d.walks ++ [{ w with ended := some cTRANS_INVALID }] })
      | some c =>
        let at_ := d.walkStart w.ctx (w.region * 65536) c.root
        .next ((s.modDie die fun d => { d with missq := rest, walks := d.walks ++ [{ w with level := at_.1, table := at_.2 }] }).dieEvent die 10 1)

/-- One level of a walk: the next level, or its end. A walk sets A in its leaf; D is set by the first access that may write
(04 R82, R85). -/
def State.walkLevel (s : State) (die : Nat) (w : Walk) : Option Walk × State :=
  let va := w.region * 65536
  let pa := w.table + 8 * levelIndex va w.level
  match s.tableRead die w.ctx pa with
  | (.error c, s1) => (some { w with ended := some c }, s1)
  | (.ok e, s1) => match readEntry e w.level with
    | .bad c => (some { w with ended := some c }, s1)
    | .next t => (some { w with level := w.level - 1, table := t },
        s1.modDie die fun d => d.addPtr { ctx := w.ctx, level := w.level, pre := va / 2 ^ levelShift w.level, table := t })
    | .leaf e => match s1.setLeafBits die w.ctx pa 32 with
      | (none, s2) => (none, s2.modDie die fun d => { d with tlb := addT 8192 d.tlb (leafEntry w.ctx va w.level pa e) })
      | (some c, s2) => (some { w with ended := some c }, s2)

/-- WALK_READ_RETURN: a table read of the walk at an index returns. A fault waits for the access that needed the walk. -/
def execWalkReadReturn (die index : Nat) (s : State) : Out :=
  match (s.die die).walks[index]? with
  | none => .next s
  | some w =>
    if w.ended.isSome || !s.reaches die (homeDie w.table) then .next s
    else
      let r := s.walkLevel die w
      .next (r.2.modDie die fun d => { d with walks := match r.1 with
        | some x => d.walks.set index x
        | none => d.walks.eraseIdx index })

/-! ## The vertical bus, lane test, evacuation (12 R236–R239) -/

/-- LINE_TRANSFER: a line crosses its bus once. One that crosses is checked by ECC; a failed transfer is kept for the read
that needs the line (12 R242). -/
def execLineTransfer (stack line : Nat) (s : State) : Out :=
  let st := s.stack stack
  let held := match st.episode (pchOf line) with
    | some e => e.testing || e.line != line
    | none => false
  if held || decide (line ∈ st.moved) then .next s
  else
    let r := s.busTransfer stack line
    match r.1 with
    | .crossed => .next (r.2.eccLine stack line).2
    | .failed => .next (r.2.modStack stack fun st => { st with failedLines := line :: st.failedLines })
    | .again => .next r.2

/-- LANE_TEST of a pseudo-channel whose third retry has failed (12 R237). -/
def execLaneTest (stack pch : Nat) (s : State) : Out := .next (s.laneTest stack pch)

/-- Lines of a stack that lie in a pseudo-channel (12 R227). -/
def linesIn (pch : Nat) : Nat :=
  2 ^ 17 * ((List.range 256).filter fun i => (i % 16 + 2 * (i / 16)) % 6 = pch % 6).length

/-- EVACUATION_LINE_MOVE: a line of a retired pseudo-channel is copied into the reserve, or stays when it cannot be rebuilt;
the last one ends the evacuation. -/
def execEvacuationLineMove (stack line : Nat) (s : State) : Out :=
  let st := s.stack stack
  let pch := pchOf line
  if pch ∉ st.retired ∨ line ∈ st.moved ∨ line ∈ st.lost then .next s
  else
    let r := s.readLine stack line
    let s1 := r.2.modStack stack fun st => if r.1 then st.toReserve line else { st with lost := line :: st.lost }
    let st1 := s1.stack stack
    let n := ((st1.moved ++ st1.lost).filter fun l => pchOf l = pch).length
    if n < linesIn pch ∨ pch ∈ st1.evacuated then .next s1
    else
      let rec0 : LogRec := { seq := 0, kind := 6, pch := pch }
      .next (((s1.modStack stack fun st => { st with evacuated := pch :: st.evacuated }).log stack rec0).send (.event "EVACUATED" 0 "OK" [stack, pch]))

/-- CACHE_LINE_REPLACEMENT: the SRAM layer drops a line, writing a dirty one back; a write-back that fails is reported to
the owner of its key slot (12 R243). -/
def execCacheLineReplacement (stack line : Nat) (s : State) : Out :=
  let r := s.evict stack line
  .next (r.2.lostLines r.1)

end Sys2Proof.Machine
end

