-- ==== Sys2Proof/Machine/EngEvents.lean ====
section
/-!
DEFINITION. Events of the engines: starts, units of transfer, completions, the trap of pending faults (24 R376), pairs,
pushes (07 R146), promotions and the ramp limiter.
-/
namespace Sys2Proof.Machine

/-- ENGINE_COMMAND_START. The limiters of the die come up to the present clk first, since an MMAP half orders rails (16 R280). -/
def execEngineCommandStart (rank : Nat) (eng : EngId) (num : Nat) (s : State) : Out :=
  .next ((if eng = .mat then s.rampDie (dieOf rank) else s).startCmd rank eng num)

/-- CPE_BEAT: a unit of transfer moves; units of one command land in any order (11 R223; log 18). -/
def execCpeBeat (rank num : Nat) (s : State) : Out := .next (match s.cmd? rank .cpe num with
  | some c => s.cpeBeat rank num (c.pickBeat s.tick)
  | none => s)

/-- ENGINE_COMMAND_COMPLETE, of a command of the unit or of one that runs on after its unit has parked. -/
def execEngineCommandComplete (rank : Nat) (eng : EngId) (num : Nat) (s : State) : Out :=
  if eng = .cpe ∧ ((s.unitAt rank).outgoing.any fun o => o.cmd.num = num) = true then .next (s.finishOutgoing rank num)
  else match s.cmd? rank eng num with
    | none => .next s
    | some c => .next (match eng with
      | .cpe => s.finishCpe rank c
      | .mat => s.finishMat rank c
      | .vec => s.finishVec rank c)

/-- The engine-fault record of a pending fault (24 Table 128). -/
def State.faultRec (s : State) (rank : Nat) (f : EngFault) : List Byte :=
  recEngine (s.unitAt rank).ctl.tlevel.toNat (rankWord rank) (packedCause (tcauseOf f.cause false f.eng f.replayable f.status)) f.status.toNat
    f.cmd.idx f.cmd.num f.addr.toNat f.cmd.word.toNat f.cmd.attached.toNat f.cmd.pos.toNat s.time

/-- At a boundary every pending fault of a unit writes its record, and one trap is taken for the first (24 R376). -/
def State.engineTrap (s : State) (rank : Nat) : State :=
  let u := s.unitAt rank
  let l := sortFaults u.faults
  match l with
  | [] => s
  | f :: _ =>
    if !u.faultDue || !u.loads.isEmpty then s
    else
      let s1 := l.foldl (fun s f => s.report u.unit.ctx (s.faultRec rank f)) s
      s1.modUnit rank fun u => ({ u with faults := [] }).enterTrap (tcauseOf f.cause false f.eng f.replayable f.status) u.pc f.addr

/-- ENGINE_FAULT_TRAP. -/
def execEngineFaultTrap (rank : Nat) (s : State) : Out := .next (s.engineTrap rank)

/-- PAIR_MEET. -/
def execPairMeet (rank : Nat) (s : State) : Out := .next (s.pairMeet rank)

/-- PAIR_COMMIT. -/
def execPairCommit (rank : Nat) (s : State) : Out := .next (s.pairCommit rank)

/-- PAIR_ABANDON. -/
def execPairAbandon (rank : Nat) (s : State) : Out := .next (s.pairTimeout rank)

/-- A push slot's bytes (07 Table 41). -/
def PushMsg.bytes (p : PushMsg) : List Byte :=
  p.line ++ w8 p.va ++ bytesOf 4 p.index ++ bytesOf 4 p.drop ++ bytesOf 1 p.cls ++ bytesOf 1 (if p.resync then 1 else 0) ++ zeros 2
    ++ bytesOf 4 p.ident ++ zeros 104

/-- A push of the same line is ahead of one. -/
def pushWaits (l : List PushMsg) (p : PushMsg) : Bool := l.any fun x => decide (x.rank = p.rank) && decide (x.slot = p.slot) && x.va == p.va

/-- PUSH_LAND: a push lands in its ring slot and makes an arrival of 256 bytes; pushes of one line land in order. -/
def execPushLand (index : Nat) (s : State) : Out :=
  match s.pushes[index]? with
  | none => .next s
  | some p =>
    if pushWaits (s.pushes.take index) p then .next s
    else
      let t := tileOf p.ring
      let off := t.off + p.index % t.rows * t.stride
      let s1 : State := { s with mem := Memory.writeBytes s.mem (localKey p.rank off) p.bytes, pushes := s.pushes.eraseIdx index }
      .next (s1.arrive p.rank t.awo 256)

/-- PROMOTE_HEADGATE_STEP of a promotion whose copy is complete. -/
def execPromoteHeadgateStep (rank num : Nat) (s : State) : Out :=
  match s.cmd? rank .cpe num with
  | some c => .next (if c.promoteDue then s.promoteStep rank c else s)
  | none => .next s

/-- RAMP_STEP of a limiter of a die. -/
def execRampStep (die : Nat) (high : Bool) (s : State) : Out := .next (s.rampStep die high)

end Sys2Proof.Machine
end

