-- ==== Sys2Proof/Machine/Sched.lean ====
section
/-!
DEFINITION. Scheduling (14 R252–R265): sweeps and their steps, kernel headers (01 R21), the start of a unit (R255, R256),
candidates and their choice (R262, R263), pipeline groups (R259–R261), the restoring of objects (10 R215) and forced saves
(24 R386, R387).
-/
namespace Sys2Proof.Machine

/-! ## Expansion (R252, R253) -/

def ceilDiv (a b : Nat) : Nat := (a + b - 1) / b

/-- n_i of loop i, numbered from 1. -/
def SweepRec.trips (r : SweepRec) (i : Nat) : Nat := ceilDiv (r.bound.getD (i - 1) 0) (r.tile.getD (i - 1) 1)

/-- S. -/
def SweepRec.steps (r : SweepRec) : Nat := (List.range r.nloop).foldl (fun n i => n * r.trips (i + 1)) 1

/-- First index of each loop in a step, by loop number: the last loop of ORDER varies fastest. -/
def SweepRec.first (r : SweepRec) (step : Nat) : List (Nat × Nat) :=
  (r.order.reverse.foldl (fun (a : Nat × List (Nat × Nat)) i =>
    (a.1 / r.trips i, alSet i (a.1 % r.trips i * r.tile.getD (i - 1) 1) a.2)) (step, [])).2

/-- Position of a die in D. -/
def Sweep.place (w : Sweep) (die : Nat) : Nat := (w.dies.takeWhile fun d => d ≠ die).length

/-- Steps of a die. -/
def Sweep.count (w : Sweep) (die : Nat) : Nat :=
  let total := w.record.steps
  let nd := w.dies.length
  let p := w.place die
  if w.record.mode = 1 then ceilDiv ((p + 1) * total) nd - ceilDiv (p * total) nd
  else (total + nd - 1 - p) / nd

/-- The k-th step of a die. -/
def Sweep.step (w : Sweep) (die k : Nat) : Nat :=
  if w.record.mode = 1 then ceilDiv (w.place die * w.record.steps) w.dies.length + k else w.place die + k * w.dies.length

/-- The die a step runs on. -/
def Sweep.dieOf (w : Sweep) (step : Nat) : Nat :=
  let nd := w.dies.length
  w.dies.getD (if w.record.mode = 1 then step * nd / w.record.steps else step % nd) 0

/-- The step a die hands out next: restarted ones first (R254, R258). -/
def DieSweep.nextStep (x : DieSweep) (w : Sweep) (die : Nat) : Option Nat :=
  match x.again with
  | s :: _ => some s
  | [] => if x.next < w.count die then some (w.step die x.next) else none

def DieSweep.handed (x : DieSweep) (now : Nat) : DieSweep :=
  let y := { x with ready := now, asked := [] }
  match x.again with
  | _ :: r => { y with again := r }
  | [] => { y with next := x.next + 1 }

/-! ## Kernel headers (01 R21) -/

/-- Dictionary pointer and count of a kernel header; none when the header does not let the unit start. Bits 59:57 of the entry and
of DPTR are not looked at: header and dictionary are read at the address without them (DESIGN CHOICE, log 140: R21 names no check
of them). -/
def State.readHeader (s : State) (die ctx : Nat) (entry : Word) : Option (Word × Nat) × State :=
  if !targetOk entry || decide (entry.toNat < 16) then (none, s)
  else match s.ctxReadAs .fetch false die ctx (entry.toNat - 16) 16 with
    | (.error _, s1) => (none, s1)
    | (.ok b, s1) =>
      let p := wordAt b 0
      let n := natAt b 8 2
      if natAt b 10 1 = 1 ∧ n ≤ 1024 ∧ natAt b 11 5 = 0 ∧ spaceOf p = 0 ∧ p.toNat % 64 = 0 then (some (p, n), s1) else (none, s1)

/-- Make a dictionary resident: false when it cannot be read; then none is. -/
def State.loadDict (s : State) (rank ctx : Nat) (p : Word) (n : Nat) : Bool × State :=
  let u := s.unitAt rank
  let put := fun (d : Dict) (s : State) => s.modUnit rank fun u => { u with dict := d }
  if u.dict.ptr = p ∧ u.dict.count = n then (true, s)
  else match s.readDict (dieOf rank) ctx p n with
    | (.ok ws, s1) => (true, put { ptr := p, count := n, words := ws } s1)
    | (.error _, s1) => (false, put {} s1)

/-- A header fault: one fatal record; a sweep hands out nothing more. -/
def State.headerFault (s : State) (ctx : Nat) (entry : Word) (sweep : Option Nat) : State :=
  let s1 := s.fatalUnit ctx none cKERNEL_HEADER { packed := cKERNEL_HEADER, pos := entry }
  match sweep with
  | some id => (s1.modSweep id fun w => { w with stop := true }).checkStopped id
  | none => s1

/-! ## The start of a unit (R255, R256) -/

/-- What an earlier context left in a core is cleared when another context's unit starts (R256). -/
def State.clearTenant (s : State) (rank ctx : Nat) : State :=
  let u := s.unitAt rank
  match u.lastCtx with
  | none => s.modUnit rank fun u => { u with lastCtx := some ctx }
  | some c =>
    if c = ctx then s
    else
      let s1 : State := { s with mem := Memory.clear (Memory.clear s.mem (localKey rank 0) (localSize rank)) (wbKey rank 0) (wbSize rank) }
      s1.modUnit rank fun u => { u with
        lastCtx := some ctx, tds := Vector.replicate 32 0#128, xs := Vector.replicate 8 {}, l1 := [], fetchBuf := [], dict := {}, codebook := {} }

/-- The registers of Table 78 by number. -/
def startRegs (l : List Word) : Vector Word 64 := Vector.ofFn fun i => if i.val = 0 then 0#64 else l.getD (i.val - 1) 0#64

/-- The start of ssp: SPTOP in LOCAL memory or its top; on a memory-side unit the top of its slot of the spill area, slots
in rising order of die and unit. -/
def State.startSsp (s : State) (rank ctx sptop : Nat) : Word :=
  if classOf rank = 2 then match s.ctx? ctx with
    | some c =>
      let before := (List.range (dieOf rank - 32)).filter fun i => c.dmask.getLsbD (32 + i)
      c.msspill + BitVec.ofNat 64 (4096 * (4 * before.length + coreOf rank + 1))
    | none => 0#64
  else mkPtr 2 0xFFF (if sptop = 0 then localSize rank else sptop)

/-- Set a unit's state to that of Table 78, with the registers of Table 114 at their reset values. -/
def State.startUnit (s : State) (rank : Nat) (regs : List Word) (pc : Word) (lkeep : Nat) (info : UnitInfo) : State :=
  let c := s.ctx? info.ctx
  let ctl : Ctl := { lkeep := BitVec.ofNat 32 (if classOf rank = 2 then 0 else lkeep), tvec := (c.map (·.tvec)).getD 0#64,
                     spinl := (c.map (·.spinl)).getD 0, pdl := (c.map (·.pdl)).getD 0 }
  let ssp := s.startSsp rank info.ctx info.sptop
  let s1 := s.modUnit rank fun u => { u with
    regs := startRegs regs, pc := pc, ssp := ssp, sel := none, loops := Vector.replicate 3 (Vector.replicate 4 {}), ctl := ctl,
    xs := u.xs.map fun x => { x with cnt := 0, bnd := 0#32 }, cpe := {}, mat := {}, vec := {}, codebook := { u.codebook with valid := false },
    cmds := 0, stores := [], pend := none, stall := .none, faults := [], starting := none,
    unit := { info with running := true, started := s.starts + 1, uid := s.starts + 1 } }
  { s1 with starts := s1.starts + 1 }

/-- Start a step on a core with the dictionary its header names: false when that cannot be read. Stage registers are set by
the caller. -/
def State.beginStep (s : State) (rank : Nat) (w : Sweep) (step handedBy : Nat) (group : Option Nat) (p : Word) (n : Nat) : Bool × State :=
  let r := w.record
  let d := (s.clearTenant rank w.ctx).loadDict rank w.ctx p n
  if !d.1 then (false, d.2)
  else
    let f := r.first step
    let regs := ([1, 2, 3, 4, 5, 6].map fun i => BitVec.ofNat 64 ((alGet i f).getD 0)) ++ [BitVec.ofNat 64 step, w.ptr]
    (true, d.2.startUnit rank regs r.kernel r.lkeep
      { ctx := w.ctx, isStep := true, sweep := w.id, sweepPtr := w.ptr, stepNo := step, handedBy := handedBy, prio := r.prio, sptop := r.sptop, group := group })

/-- Start a step on a core: false when its header prevents it. -/
def State.startStep (s : State) (rank : Nat) (w : Sweep) (step handedBy : Nat) (group : Option Nat) : Bool × State :=
  match s.readHeader (dieOf rank) w.ctx w.record.kernel with
  | (none, s1) => (false, s1)
  | (some (p, n), s1) => s1.beginStep rank w step handedBy group p n

/-- Start a task packet on a core or memory-side unit. -/
def State.startTask (s : State) (rank : Nat) (k : Packet) : State :=
  match s.readHeader (dieOf rank) k.ctx k.entry with
  | (none, s1) => s1.headerFault k.ctx k.entry none
  | (some (p, n), s1) =>
    let d := (s1.clearTenant rank k.ctx).loadDict rank k.ctx p n
    if !d.1 then d.2.headerFault k.ctx k.entry none
    else
      (d.2.startUnit rank [k.g1, k.g2] k.entry k.lkeep.toNat
        { ctx := k.ctx, prio := k.prio, sptop := if classOf rank = 2 then 0 else k.sptop, fence := k.fence }).dieEvent (dieOf rank) 3 1

/-! ## Candidates (R262, R263) -/

/-- A candidate: its kind (0 own queue of a core, 1 ready queue, 2 sweep), its place or number, base priority and ready time,
what it is, and whether it is a group, which needs a rectangle. -/
structure Cand where
  kind : Nat
  index : Nat
  base : Nat
  ready : Nat
  key : CandKey
  group : Bool := false
deriving DecidableEq, Repr

def Cand.eff (c : Cand) (now : Nat) : Nat := min 3 (c.base + (now - c.ready) / 16384)

/-- The first candidate is taken before the second. -/
def Cand.ahead (a b : Cand) (now : Nat) : Bool :=
  let ea := a.eff now
  let eb := b.eff now
  decide (eb < ea) || (ea == eb && (decide (a.ready < b.ready) || (a.ready == b.ready && (decide (a.kind < b.kind) || (a.kind == b.kind && decide (a.index < b.index))))))

def bestCand (now : Nat) (l : List Cand) : Option Cand :=
  l.foldl (fun b c => match b with
    | none => some c
    | some x => if c.ahead x now then some c else b) none

/-- The group that holds a core is being saved (R261). -/
def State.groupSaving (s : State) (rank g : Nat) : Bool := (s.die (dieOf rank)).groups.any fun x => decide (x.id = g) && x.saving

/-- The candidate that a core is reserved for; of several whose rectangles hold it the one that reserved first (R265). -/
def Die.reserved (d : Die) (rank : Nat) : Option Nat :=
  (d.reserve.find? fun x => decide (x.2.1 ≤ clusterOf rank) && decide (clusterOf rank < x.2.1 + x.2.2.2.1)
    && decide (x.2.2.1 ≤ coreOf rank) && decide (coreOf rank < x.2.2.1 + x.2.2.2.2)).map (·.1)

/-- A core or memory-side unit that runs nothing and may take work. -/
def Core.free (u : Core) : Bool := !u.unit.running && u.starting.isNone && !u.outOfService

/-- Whether a free unit may take an item of a queue. -/
def Item.fits (i : Item) (rank : Nat) (held : Bool) : Bool :=
  match i.work with
  | .packet _ => !held
  | .object o => decide (o.cls = classOf rank) && (match o.boundTo with
    | some r => decide (r = rank) && held
    | none => !held)
  | .image _ => false

/-- An item of a queue as a candidate. -/
def itemCand (kind index : Nat) (i : Item) : Cand :=
  { kind := kind, index := index, base := i.prio, ready := i.ready, key := .work i.work i.ready }

/-- Items of a list that fit, as candidates of a kind. -/
def itemCands (kind rank : Nat) (held : Bool) (l : List Item) : List Cand :=
  (l.mapIdx fun i x => (i, x)).filterMap fun x => if x.2.fits rank held then some (itemCand kind x.1 x.2) else none

/-- A sweep may hand out steps: its context is not saved as a whole (24 R388). -/
def State.mayHand (s : State) (w : Sweep) : Bool := w.admitted && !w.stop && !(match s.ctx? w.ctx with
  | some c => c.saved || c.killed
  | none => true)

/-- The next steps of the sweeps of a die, as candidates; `group` picks pipeline sweeps or the others. -/
def State.sweepCands (s : State) (die : Nat) (group : Bool) : List Cand :=
  (s.die die).sweeps.filterMap fun x => match s.sweep? x.id with
    | some w =>
      if x.expanded && s.mayHand w && (w.record.mode == 2) == group && (x.nextStep w die).isSome
      then some { kind := 2, index := x.id, base := w.record.prio, ready := x.ready, key := .sweep x.id x.ready, group := group } else none
    | none => none

/-- The own queue of a core, with each entry's place in the die's list. -/
def Die.privOf (d : Die) (rank : Nat) : List (Nat × Item) :=
  (d.priv.mapIdx fun i x => (i, x)).filterMap fun x => if x.2.1 = rank then some (x.1, x.2.2) else none

/-- What a free unit could take by itself. -/
def State.cands (s : State) (rank : Nat) : List Cand :=
  let d := s.die (dieOf rank)
  let u := s.unitAt rank
  if classOf rank = 2 then itemCands 1 rank false d.memReady
  else match u.heldFor with
    | some g => if s.groupSaving rank g then [] else itemCands 1 rank true d.ready
    | none =>
      if (d.reserved rank).isSome then []
      else ((d.privOf rank).map fun x => itemCand 0 x.1 x.2)
        ++ itemCands 1 rank false d.ready ++ s.sweepCands (dieOf rank) false

/-! ## Pre-emption requests (R264, 24 R385) -/

/-- Every unit that shares a request with a unit: the stages of its group. -/
def State.together (s : State) (rank : Nat) : List Nat :=
  match (s.unitAt rank).unit.group with
  | some g => (s.units.filter fun x => x.2.unit.running && decide (x.2.unit.group = some g)).map (·.1)
  | none => [rank]

def State.setSaving (s : State) (rank : Nat) (b : Bool) : State :=
  match (s.unitAt rank).unit.group with
  | some g => s.modDie (dieOf rank) fun d => { d with groups := d.groups.map fun x => if x.id = g then { x with saving := b } else x }
  | none => s

/-- Set PRQ on a unit, and on every stage of its group (R261). -/
def State.askUnit (s : State) (rank : Nat) : State :=
  let s1 := s.setSaving rank true
  (s.together rank).foldl (fun s r =>
    let pdl := match s.ctx? (s.unitAt r).unit.ctx with
      | some c => c.pdl
      | none => 0
    (s.modUnit r fun u => if u.ctl.prq then u else { u with ctl := { u.ctl with prq := true, pdl := pdl } }).dieEvent (dieOf r) 6 1) s1

/-- Withdraw a request from a unit and those that share it (24 R385). -/
def State.withdrawFrom (s : State) (rank : Nat) : State :=
  (s.together rank).foldl (fun s r => s.modUnit r fun u => { u with ctl := { u.ctl with prq := false } }) (s.setSaving rank false)

/-- Withdraw a request from the units it asked. -/
def State.withdrawAsk (s : State) (asked : List Nat) : State := asked.foldl (fun s r => s.withdrawFrom r) s

/-! ## Taking work -/

/-- Take an object from a queue: PARKED → RUNNING by CAS for a parked one's record; a stale record is dropped (10 R211). -/
def State.takeObj (s : State) (rank : Nat) (o : ObjRec) : State :=
  let die := dieOf rank
  let ok := fun (v : Nat) (s : State) =>
    (s.modUnit rank fun u => { u with starting := some { o with version := v, running := true } }).dieEvent die 4 1
  if o.running then match s.cstate die o.ctx o.ptr with
    | (.ok c, s1) => if c.state = sRUNNING ∧ c.version = o.version then ok c.version s1 else s1
    | (.error _, s1) => s1
  else match s.moveObj die o.ctx o.ptr sPARKED (some o.version) sRUNNING with
    | (some c, s1) => ok c.version s1
    | (none, s1) => s1

/-- The next step of a sweep goes to a core of its die. -/
def State.takeStep (s : State) (rank id : Nat) : State :=
  let die := dieOf rank
  match s.sweep? id, (s.die die).sweeps.find? fun x => x.id = id with
  | some w, some x => match x.nextStep w die with
    | none => s
    | some k =>
      let s1 := s.withdrawAsk x.asked
      match s1.startStep rank w k die none with
      | (false, s2) => s2.headerFault w.ctx w.record.kernel (some id)
      | (true, s2) => ((s2.modDieSweep die id fun x => x.handed s2.clk).modSweep id fun w => { w with running := w.running + 1 }).dieEvent die 2 1
  | _, _ => s

/-- A free unit takes an item of work. -/
def State.takeWork (s : State) (rank : Nat) (i : Item) : State :=
  let s1 := s.withdrawAsk i.asked
  match i.work with
  | .packet k => s1.startTask rank k
  | .object o => s1.takeObj rank o
  | .image _ => s1

/-- A free unit takes a candidate of its own. -/
def State.takeCand (s : State) (rank : Nat) (c : Cand) : State :=
  let die := dieOf rank
  match c.kind with
  | 0 => match (s.die die).priv[c.index]? with
    | some x => (s.modDie die fun d => { d with priv := d.priv.eraseIdx c.index }).takeWork rank x.2
    | none => s
  | 1 =>
    if classOf rank = 2 then match (s.die die).memReady[c.index]? with
      | some x => (s.modDie die fun d => { d with memReady := d.memReady.eraseIdx c.index }).takeWork rank x
      | none => s
    else match (s.die die).ready[c.index]? with
      | some x => (s.modDie die fun d => { d with ready := d.ready.eraseIdx c.index }).takeWork rank x
      | none => s
  | _ => s.takeStep rank c.index

/-! ## Restoring an object (10 R215) -/

/-- The armed watchpoints of a resumed unit are armed again; one whose range no longer translates, or breaks the
limits of a range, is disarmed (22 R358). -/
def State.rearm (s : State) (rank : Nat) (n : Fin 4) : State :=
  let u := s.unitAt rank
  let v := u.ctl.wpctl[n]
  let p := u.ctl.wpaddr[n]
  let len := v.toNat % 65536 + 1
  let ctx := u.unit.ctx
  let off := fun (s : State) => s.modUnit rank fun u => { u with ctl := u.ctl.setWpctl n (v &&& 0xFFFF#64) }
  let arm := fun (die : Nat) (sh : Bool) (at_ : Nat) (s : State) => s.modDie die fun d => { d with slices := d.slices ++
    [({ ctx := ctx, rank := rank, num := n, va := p, shared := sh, die := die, start := at_, len := len } : Watch)] }
  if !v.getLsbD 63 then s
  else if spaceOf p = 0 ∧ p.toNat / 2 ^ 57 = 0 ∧ p.toNat % 65536 + len ≤ 65536 then match s.ctxXlate (dieOf rank) ctx p.toNat .load with
    | (.ok (pa, _), s1) => arm (homeDie pa) false pa s1
    | (.error _, s1) => off s1
  else if spaceOf p = 1 then match s.rankFault ctx rank 1 (rankField p) (offOf p) len with
    | some _ => off s
    | none =>
      let die := dieOf (resolveRank rank 1 (rankField p))
      arm die true (s.sharedOff ctx die (offOf p)) s
  else off s

/-- Reopen the subscriptions an image records (07 R148); one that cannot be opened stays closed. -/
def State.reopenSubs (s : State) (rank ctx : Nat) (b : List Byte) : State :=
  [0, 1, 2, 3].foldl (fun s i =>
    let x := (b.drop (0xF00 + 32 * i)).take 32
    if natAt x 8 4 = 0 then s
    else (s.openSub ctx rank i (wordAt x 0) (natAt x 8 4) (tileImageOf (natAt x 16 16)) (natAt x 12 4) true).2) s

/-- What a rollback changes in the unit it resumes (24 R392): level 0, TCAUSE1. -/
def Core.rolledBack (u : Core) (trig : Nat) : Core :=
  let b := bankOf u u.ctl.tlevel
  { u with ctl := { u.ctl with tlevel := 0#2, tcause1 := tcauseOf cROLLED_BACK false 0 false (BitVec.ofNat 32 trig) },
           loops := (Vector.replicate 3 (Vector.replicate 4 {})).set! 0 b }

/-- The step an object carries (R257): the admitted sweep its SWEEP names, where several have that record the one the unit
came from (log 29), and its STEPNO. -/
def State.stepOf (s : State) (ctx : Nat) (x : Option Parked) (b : List Byte) : Option (Sweep × Nat) :=
  let ptr := wordAt b 0x78
  let step := natAt b 0x74 4
  if ptr = 0#64 then none
  else
    let l := s.head.sweeps.filter fun w => decide (w.ctx = ctx) && w.admitted && w.ptr == ptr && decide (step < w.record.steps)
    let own := match x with
      | some k => l.find? fun w => w.id = k.sweep
      | none => none
    (own <|> l.head?).map fun w => (w, step)

/-- Load an image into a core, with its weight-buffer and LOCAL prefixes. -/
def State.loadUnit (s : State) (rank : Nat) (o : ObjRec) (c : CState) (b : List Byte) : State :=
  let x := s.parkedInfo o.ctx o.ptr
  let step := if o.rolled.isSome then none else s.stepOf o.ctx x b
  let whw := natAt b 0x58 4
  let keep := natAt b 0x5C 4
  let m1 := Memory.writeBytes s.mem (wbKey rank 0) ((b.drop 0x3000).take (min whw (wbSize rank)))
  let m2 := Memory.writeBytes m1 (localKey rank 0) ((b.drop (0x3000 + 128 * ((whw + 127) / 128))).take (min keep (localSize rank)))
  let info : UnitInfo := {
    running := true, ctx := o.ctx, isStep := step.isSome, sweep := (step.map (·.1.id)).getD 0, sweepPtr := wordAt b 0x78,
    stepNo := natAt b 0x74 4, handedBy := (step.map fun y => y.1.dieOf y.2).getD 0, prio := c.prio, sptop := natAt b 0x70 4,
    started := s.starts + 1, origin := some (o.ptr, o.version), ckpt := if wordAt b 0x60 = 0#64 then none else some (wordAt b 0x60),
    group := (s.unitAt rank).heldFor, fence := x.bind (·.fence),
    arvDone := if c.cause = 2 then some { pc := wordAt b 0x28 &&& ~~~1#64, var := wordAt b 0x18, phase := natAt b 0x20 8 } else none
    uid := match x with
      | some k => if k.uid = 0 then s.starts + 1 else k.uid
      | none => s.starts + 1 }
  let pdl := match s.ctx? o.ctx with
    | some k => k.pdl
    | none => 0
  let s1 := ({ s with mem := m2, starts := s.starts + 1 }).modUnit rank fun u =>
    let u1 := { u with cmds := 0, stores := [], pend := none, stall := .none, faults := (x.map Parked.faults).getD [], starting := none, sel := none, l1 := [], fetchBuf := [],
                       unit := info, ctl := {} }
    let u2 := u1.loadImage b x
    let u3 := { u2 with ctl := { u2.ctl with pdl := pdl, cycle := 0#64 } }
    match o.rolled with
    | some trig => u3.rolledBack trig
    | none => u3
  s1.forgetPark o.ctx o.ptr

/-- The unit that owns an open interval's object takes the interval with it wherever it resumes (24 R389). -/
def State.takeInterval (s : State) (rank : Nat) : State :=
  let u := (s.unitAt rank).unit
  s.modCtx u.ctx fun c => if c.ckptOpen && u.ckpt.isSome && c.ckptObj == u.ckpt then { c with ckptOwner := some rank } else c

/-- A core restores the object it has taken once its OUTST is 0; a resume value goes to the register SUSPEND names (R213).
An object that cannot be read is reported and not run. -/
def State.restoreUnit (s : State) (rank : Nat) (o : ObjRec) : State :=
  let die := dieOf rank
  if s.outst die o.ctx o.ptr ≠ 0 then s
  else
    let size := 0x3000 + 128 * ((s.objField die o.ctx o.ptr 0x58 + 127) / 128) + s.objField die o.ctx o.ptr 0x5C
    match s.cstate die o.ctx o.ptr with
    | (.error e, s1) => (s1.reportMem o.ctx (some (rank, 0)) e o.ptr.toNat 8).modUnit rank fun u => { u with starting := none }
    | (.ok c, s1) => match s1.ctxRead die o.ctx o.ptr.toNat size with
      | (.error e, s2) => (s2.reportMem o.ctx (some (rank, 0)) e o.ptr.toNat 8).modUnit rank fun u => { u with starting := none }
      | (.ok b, s2) =>
        let given := fun (s : State) => match o.value, (s2.parkedInfo o.ctx o.ptr).bind (·.dst) with
          | some v, some d => s.modUnit rank fun u => u.setReg (BitVec.ofNat 6 d) v
          | _, _ => s
        let s3 := given ((s2.clearTenant rank o.ctx).loadUnit rank o c b)
        let s4 := (s3.loadDict rank o.ctx (wordAt b 0x30) (natAt b 0x38 2)).2
        let s5 := ([0, 1, 2, 3] : List (Fin 4)).foldl (fun s n => s.rearm rank n) ((s4.reopenSubs rank o.ctx b).takeInterval rank)
        match (s5.unitAt rank).heldFor with
        | some g => if s5.groupSaving rank g then s5.modUnit rank fun u => { u with ctl := { u.ctl with prq := true } } else s5
        | none => s5

/-! ## Forced saves (24 R386–R388) -/

/-- A unit stands at a boundary where it can be saved: its stores and packets are done, no control write is half done, and a
spinning wait suspends of itself. -/
def Core.savable (u : Core) : Bool := u.unit.running && u.unit.packets == 0 && u.stores.isEmpty && match u.stall with
  | .none => true
  | .resource => true
  | .full => true
  | _ => false

/-- What a forced save records: the boundary's word, or of a BARARV .w that has arrived what its own suspension does (R386;
10 R199). -/
def Core.forcedPark (u : Core) : Park := match u.arrived with
  | some x => { cause := 2, pc := u.pc, waiton := x.var, waitval := BitVec.ofNat 64 x.phase }
  | none => { cause := 6, pc := u.pc }

/-- Save a unit by force into an object of the pool: the record of the object, or the cause and address of the report. -/
def State.saveUnit (s : State) (rank : Nat) : Except (Nat × Nat) ObjRec × State :=
  let u := s.unitAt rank
  match s.popPool (dieOf rank) u.unit.ctx u.objSize with
  | .none s1 => (.error (cCONT_POOL, 0), s1)
  | .bad c p s1 => (.error (c, p.toNat), s1)
  | .ok p s1 =>
    let r := s1.suspendInto rank p u.forcedPark
    (.ok r.1, r.2.dieEvent (dieOf rank) 7 1)

/-- The deadline of a request is over: the unit is saved and its object queued, or the request falls (R387). -/
def State.forceSave (s : State) (rank : Nat) : State :=
  let s1 := (s.undoLate rank).drain rank allClasses
  if !(s1.unitAt rank).savable then s1
  else
    let s2 := s1.settleEngines rank
    if (s2.unitAt rank).faultDue || !s2.settledEngines rank then s2
    else match s2.saveUnit rank with
      | (.ok o, s3) => s3.enqueueObj o
      | (.error (c, a), s3) =>
        let u := s3.unitAt rank
        (s3.reportMem u.unit.ctx (some (rank, u.ctl.tlevel.toNat)) c a 0).withdrawFrom rank

end Sys2Proof.Machine
end

