-- ==== Sys2Proof/Machine/Group.lean ====
section
/-!
DEFINITION. Pipeline groups (14 R259–R261, R265): descriptors, rectangles, starting and restoring a group, and the forming of
a group image once every stage of a pre-empted group is parked or has ended.
-/
namespace Sys2Proof.Machine

def signed4 (n : Nat) : Int := if n < 8 then n else (n : Int) - 16

def groupDescOf (b : List Byte) : GroupDesc :=
  let v := natOf b
  { w := bitsAt v 0 8, h := bitsAt v 8 8, nstg := bitsAt v 16 8, oc := bitsAt v 24 4, ok := bitsAt v 32 4, rmask := bitsAt v 64 64,
    hops := (List.range 31).map fun t => (signed4 (bitsAt v (140 + 8 * t) 4), signed4 (bitsAt v (136 + 8 * t) 4)),
    reserved := bitsAt v 384 128 != 0 || bitsAt v 128 8 != 0 || bitsAt v 40 24 != 0 || bitsAt v 36 4 != 0 || bitsAt v 28 4 != 0
      || bitAt v 64 || ((List.range 31).any fun t => decide (bitsAt v 16 8 ≤ t + 1) && bitsAt v (136 + 8 * t) 8 != 0) }

/-- Positions of the stages in the rectangle. -/
def GroupDesc.stages (g : GroupDesc) : List (Int × Int) :=
  ((g.hops.take (g.nstg - 1)).foldl (fun (a : List (Int × Int)) hop =>
    let p := a.getLastD (0, 0)
    a ++ [(p.1 + hop.1, p.2 + hop.2)]) [((g.oc : Int), (g.ok : Int))])

def distinct : List (Int × Int) → Bool
  | [] => true
  | x :: r => !r.contains x && distinct r

/-- The descriptor is valid on the dies of a mask (R259). -/
def GroupDesc.valid (g : GroupDesc) (dmask : Nat) : Bool :=
  let anyP := dmask % 16 != 0
  let anyD := decide (0 < dmask / 2 ^ 32)
  !g.reserved && decide (1 ≤ g.w) && decide (1 ≤ g.h) && decide (g.h ≤ 4) && (!anyP || decide (g.w ≤ 8)) && (!anyD || decide (g.w ≤ 6))
    && decide (1 ≤ g.nstg) && decide (g.nstg ≤ g.w * g.h) && decide (g.nstg ≤ 32)
    && (g.stages.all fun p => decide (0 ≤ p.1) && decide (p.1 < g.w) && decide (0 ≤ p.2) && decide (p.2 < g.h)) && distinct g.stages

/-- Read the group descriptor of a context. -/
def State.readGroup (s : State) (die ctx : Nat) (p : Word) : Option GroupDesc × State :=
  match s.ctxRead die ctx p.toNat 64 with
  | (.ok b, s1) => (some (groupDescOf b), s1)
  | (.error _, s1) => (none, s1)

/-! ## Rectangles -/

def rectRanks (die c0 k0 w h : Nat) : List Nat :=
  ((List.range w).map fun dc => (List.range h).map fun dk => rankOf die (c0 + dc) (k0 + dk)).flatten

/-- Origins of the rectangles of a shape on a die, lowest cluster first, then lowest core. -/
def origins (die w h : Nat) : List (Nat × Nat) :=
  ((List.range (clustersOf die + 1 - w)).map fun c => (List.range (5 - h)).map fun k => (c, k)).flatten

/-- A core is free for a group candidate. -/
def State.freeFor (s : State) (cand rank : Nat) : Bool :=
  let u := s.unitAt rank
  u.free && u.heldFor.isNone && (match (s.die (dieOf rank)).reserved rank with
    | some c => c == cand
    | none => true)

/-- The rectangle a candidate may start on: its reserved one, else the first free one. -/
def State.freeRect (s : State) (die cand w h : Nat) : Option (Nat × Nat) :=
  let ok := fun (o : Nat × Nat) => (rectRanks die o.1 o.2 w h).all (s.freeFor cand)
  match (s.die die).reserve.find? fun x => x.1 = cand with
  | some (_, c0, k0, _, _) => if ok (c0, k0) then some (c0, k0) else none
  | none => (origins die w h).find? ok

/-- The rectangle a candidate reserves: of those whose cores are all in service the one with most free cores (R265). -/
def State.bestRect (s : State) (die w h : Nat) : Option (Nat × Nat) :=
  ((origins die w h).foldl (fun (b : Option ((Nat × Nat) × Nat)) o =>
    let rs := rectRanks die o.1 o.2 w h
    if rs.any fun r => (s.unitAt r).outOfService then b
    else
      let n := (rs.filter fun r => (s.unitAt r).free && (s.unitAt r).heldFor.isNone).length
      match b with
      | none => some (o, n)
      | some x => if x.2 < n then some (o, n) else b) none).map (·.1)

/-- A candidate's reservations end. -/
def State.unreserve (s : State) (cand : Nat) : State := s.mapDies fun d => { d with reserve := d.reserve.filter fun x => x.1 ≠ cand }

/-- Hold a rectangle for a group. -/
def State.holdRect (s : State) (ranks : List Nat) (g : Nat) : State :=
  ranks.foldl (fun s r => s.modUnit r fun u => { u with heldFor := some g }) s

/-- STGNO, STGNEXT and STGPREV of a stage. -/
def stageRegs (ranks : List Nat) (t : Nat) : Word × Word × Word :=
  let p := fun (i : Nat) => match ranks[i]? with
    | some r => mkPtr 2 r 0
    | none => 0#64
  (BitVec.ofNat 64 t, p (t + 1), if t = 0 then 0#64 else p (t - 1))

/-- Ranks of the stages of a descriptor placed at an origin. -/
def GroupDesc.ranks (g : GroupDesc) (die c0 k0 : Nat) : List Nat :=
  g.stages.map fun p => rankOf die (c0 + p.1.toNat) (k0 + p.2.toNat)

/-! ## Starting a group step (R260) -/

/-- Start every stage with the dictionary of the kernel's header; the first that cannot have it stops. -/
def State.startStages (s : State) (w : Sweep) (step die g : Nat) (p : Word) (n : Nat) (ranks : List Nat) : Nat → List Nat → Bool × State
  | _, [] => (true, s)
  | t, r :: rest =>
    match s.beginStep r w step die (some g) p n with
    | (false, s1) => (false, s1)
    | (true, s1) =>
      let x := stageRegs ranks t
      State.startStages (s1.modUnit r fun u => { u with ctl := { u.ctl with stgno := x.1, stgnext := x.2.1, stgprev := x.2.2 } })
        w step die g p n ranks (t + 1) rest

/-- A step of a sweep starts on a rectangle of a die, every stage at once; a dictionary that cannot be read lets the rectangle
go. -/
def State.placeGroup (s : State) (die : Nat) (w : Sweep) (x : DieSweep) (k : Nat) (d : GroupDesc) (c0 k0 : Nat) (p : Word) (n : Nat) : State :=
  let g := s.images
  let ranks := d.ranks die c0 k0
  let s1 := { ((s.unreserve w.id).withdrawAsk x.asked).holdRect (rectRanks die c0 k0 d.w d.h) g with images := g + 1 }
  let grp : Group := { id := g, ctx := w.ctx, die := die, c0 := c0, k0 := k0, w := d.w, h := d.h, desc := d,
                       sweep := w.id, stepNo := k, handedBy := die, stages := ranks, prio := w.record.prio }
  match (s1.modDie die fun y => { y with groups := y.groups ++ [grp] }).startStages w k die g p n ranks 0 ranks with
  | (false, s2) => (ranks.foldl (fun s r => if (s.unitAt r).unit.group = some g then s.clearUnit r else s) s2).releaseGroup g |>.headerFault w.ctx w.record.kernel (some w.id)
  | (true, s2) => ((s2.modDieSweep die w.id fun y => y.handed s2.clk).modSweep w.id fun w => { w with running := w.running + 1 }).dieEvent die 2 1

/-- The next step of a pipeline sweep starts on a rectangle of its die. The kernel's header is read once for all its stages. -/
def State.startGroup (s : State) (die id : Nat) : State :=
  match s.sweep? id, (s.die die).sweeps.find? fun x => x.id = id with
  | some w, some x =>
    if w.record.mode ≠ 2 ∨ x.expanded = false ∨ s.mayHand w = false then s
    else match x.nextStep w die with
      | none => s
      | some k => match s.readGroup die w.ctx w.record.group with
        | (none, s1) => s1.headerFault w.ctx w.record.kernel (some id)
        | (some d, s1) =>
          if !d.valid w.record.dmask then s1.headerFault w.ctx w.record.kernel (some id)
          else match s1.freeRect die id d.w d.h with
            | none => s1
            | some (c0, k0) => match s1.readHeader die w.ctx w.record.kernel with
              | (none, s2) => s2.headerFault w.ctx w.record.kernel (some id)
              | (some (p, n), s2) => s2.placeGroup die w x k d c0 k0 p n
  | _, _ => s

/-! ## Saving a group (R261) -/

/-- The record of an object that waits for a stage's core: on the ready queue (then it goes with the image as ready), or
parked elsewhere. -/
def State.stageRec (s : State) (die ctx rank : Nat) : Option (ObjRec × Bool) :=
  match (s.die die).ready.findSome? fun i => match i.work with
    | .object o => if o.ctx = ctx ∧ o.boundTo = some rank then some o else none
    | _ => none with
  | some o => some (o, false)
  | none => (s.parked.find? fun x => decide (x.ctx = ctx) && decide (x.bound = some rank)).map fun x =>
      ({ ctx := ctx, ptr := x.ptr, version := 0, running := false, cls := classOf rank, prio := 0, hdie := die }, true)

/-- Once every stage of a group that is being saved has parked or ended, its image is queued and its rectangle released. -/
def State.formImage (s : State) (die : Nat) (g : Group) : State :=
  let left := (g.stages.mapIdx fun t r => (t, r)).filter fun x => !decide (x.2 ∈ g.ended)
  if left.any fun x => (s.unitAt x.2).unit.running || (s.unitAt x.2).starting.isSome then s
  else
    let recs := left.filterMap fun x => (s.stageRec die g.ctx x.2).map fun y => (x.1, { y.1 with boundTo := none }, y.2)
    let taken := recs.filterMap fun x => if x.2.2 then none else some x.2.1.ptr
    let img : GroupImage := { ctx := g.ctx, desc := g.desc, c0 := g.c0, k0 := g.k0, die := g.die, w := g.w, h := g.h, stages := recs,
                              prio := g.prio, sweep := g.sweep, stepNo := g.stepNo, handedBy := g.handedBy, group := g.id }
    let s1 := s.modDie die fun d => { d with ready := d.ready.filter fun i => match i.work with
      | .object o => !(decide (o.ctx = g.ctx) && decide (o.ptr ∈ taken))
      | _ => true }
    let free := fun (x : Parked) => if x.ctx = g.ctx ∧ recs.any (fun y => decide (y.2.1.ptr = x.ptr)) = true then { x with bound := none } else x
    let s1 := { s1 with parked := s1.parked.map free }
    (s1.releaseGroup g.id).enqueue die (.image img) g.prio

/-- Every group that is being saved, at the end of a step. -/
def State.settleGroups (s : State) : State :=
  s.dies.foldl (fun s d => (d.2.groups.filter (·.saving)).foldl (fun s g => s.attempt fun s => s.formImage d.1 g) s) s

/-! ## Restoring a group image -/

/-- A LOCAL pointer that names a core of the old rectangle, moved to the same position of the new one. -/
def GroupImage.move (g : GroupImage) (die c0 k0 : Nat) (v : Word) : Word :=
  let r := rankField v
  if spaceOf v = 2 ∧ r ∈ rectRanks g.die g.c0 g.k0 g.w g.h then
    mkPtr 2 (rankOf die (clusterOf r - g.c0 + c0) (coreOf r - g.k0 + k0)) (offOf v)
  else v

/-- Registers captured by a saved engine command, as their places in its entry: r0 at 16, r1 at 24, with the general register
each was read from. -/
def capturedRegs (w : W32) : List (Nat × Nat) :=
  let one := fun (g : RegNo) => [(16, g.toNat)]
  let pair := fun (b : BitVec 5) => [(16, (pairReg b).toNat), (24, (nextReg (pairReg b)).toNat)]
  let mode := fun (m : BitVec 2) (b : RegNo) => if m = 3#2 then one b else []
  match decode w with
  | .error _ => []
  | .ok i =>
    match i with
    | .cpin _ b _ | .cpout _ b | .fill _ b | .slotret b _ | .vbcastScalar _ b | .vscl _ _ b => one b
    | .promote b => one (BitVec.ofNat 6 (4 * b.toNat))
    | .cptin _ b _ | .cptout _ b | .gather _ _ b _ _ | .scatter _ _ b _ | .idxld _ b | .subscr _ b _ | .vrot _ _ b _ | .vrng _ b
    | .vsample _ _ b => pair b
    | .mma _ _ _ g _ | .mvm _ _ _ g _ | .mmapLead _ _ _ g | .mmapFol _ _ g => one g
    | .vadd _ _ b m | .vsub _ _ b m | .vmul _ _ b m | .vmin _ _ b m | .vmax _ _ b m | .vadds _ _ b m | .vand _ _ b m
    | .vor _ _ b m | .vxor _ _ b m | .vshl _ _ b m | .vshr _ _ b m | .vcmpeq _ _ b m | .vcmplt _ _ b m | .vcmple _ _ b m
    | .vfma _ _ b m | .vsel _ _ b m => mode m b
    | _ => []

/-- Rewrite one 8-byte value of an object. -/
def State.rewriteObj (s : State) (die ctx : Nat) (va : Nat) (f : Word → Word) : State :=
  match s.ctxReadNat die ctx va 8 with
  | (.ok n, s1) =>
    let v := BitVec.ofNat 64 n
    if f v = v then s1 else (s1.ctxWrite die ctx va (w8 (f v))).2
  | (.error _, s1) => s1

/-- Rewrite a stage's object: its neighbours, and the registers and captured copies RMASK names. -/
def State.relocate (s : State) (g : GroupImage) (die c0 k0 t : Nat) (p : Word) : State :=
  let d := g.desc
  let x := stageRegs (d.ranks die c0 k0) t
  let s1 := [(12, x.1), (13, x.2.1), (14, x.2.2)].foldl (fun s y => s.rewriteObj die g.ctx (p.toNat + 0x300 + 8 * y.1) fun _ => y.2) s
  let s2 := ((List.range 64).filter fun i => bitAt d.rmask i).foldl (fun s i => s.rewriteObj die g.ctx (p.toNat + 0x100 + 8 * i) (g.move die c0 k0)) s1
  (List.range 48).foldl (fun s i =>
    let at_ := p.toNat + 0x1000 + 128 * i
    match s.ctxReadNat die g.ctx at_ 4 with
    | (.ok w, s1) =>
      if w = 0 then s1
      else (capturedRegs (BitVec.ofNat 32 w)).foldl (fun s y => if bitAt d.rmask y.2 then s.rewriteObj die g.ctx (at_ + y.1) (g.move die c0 k0) else s) s1
    | (.error _, s1) => s1) s2

/-- Bind every record of an object to a core. -/
def State.rebind (s : State) (ctx : Nat) (p : Word) (rank : Nat) : State :=
  let f := fun (o : ObjRec) => if o.ctx = ctx ∧ o.ptr = p then { o with boundTo := some rank, hdie := dieOf rank } else o
  let fi := fun (i : Item) => match i.work with
    | .object o => { i with work := .object (f o) }
    | _ => i
  { s.mapDies fun d => { d with
      ready := d.ready.map fi
      homeWait := d.homeWait.map f
      syncs := d.syncs.map fun v => { v with waiters := v.waiters.map f }
      slTime := d.slTime.map fun t => { t with waiters := t.waiters.map f } } with
    parked := s.parked.map fun x => if x.ctx = ctx ∧ x.ptr = p then { x with bound := some rank } else x }

/-- Group images that wait on other dies and may come to a die: one of D of the same core class (R261); with the die and the
place where each is queued. -/
def State.foreignImages (s : State) (die : Nat) : List (Nat × Nat × Item) :=
  (s.dies.map fun d => if d.1 = die then [] else (d.2.ready.mapIdx fun i x => (d.1, i, x)).filter fun x => match x.2.2.work with
    | .image g => isPDie die == isPDie g.die && (match s.sweep? g.sweep with
      | some w => w.dies.contains die
      | none => false)
    | _ => false).flatten

/-- The group image at an index of a die's candidates: of its own ready queue, and after that of other dies'. -/
def State.imageAt (s : State) (die index : Nat) : Option (Nat × Nat × Item) :=
  match (s.die die).ready[index]? with
  | some x => some (die, index, x)
  | none => (s.foreignImages die)[index - (s.die die).ready.length]?

/-- Restore a group image onto a free rectangle of a die. -/
def State.restoreGroup (s : State) (die index : Nat) : State :=
  match s.imageAt die index with
  | none => s
  | some (src, place, it) => match it.work with
    | .image g => match s.freeRect die (2 ^ 32 + g.group) g.w g.h with
      | none => s
      | some (c0, k0) =>
        let id := s.images
        let ranks := g.desc.ranks die c0 k0
        let live := g.stages.map (·.1)
        let ended := ((ranks.mapIdx fun t r => (t, r)) : List (Nat × Nat)).filterMap fun x => if live.contains x.1 then none else some x.2
        let grp : Group := { id := id, ctx := g.ctx, die := die, c0 := c0, k0 := k0, w := g.w, h := g.h, desc := g.desc, sweep := g.sweep,
                             stepNo := g.stepNo, handedBy := g.handedBy, stages := ranks, ended := ended, prio := g.prio }
        let s1 := (s.unreserve (2 ^ 32 + g.group)).modDie src fun y => { y with ready := y.ready.eraseIdx place }
        let s2 := { (s1.withdrawAsk it.asked).holdRect (rectRanks die c0 k0 g.w g.h) id with images := id + 1 }
        let s3 := s2.modDie die fun y => { y with groups := y.groups ++ [grp] }
        g.stages.foldl (fun s x =>
          let rank := ranks.getD x.1 0
          let s1 := (s.relocate g die c0 k0 x.1 x.2.1.ptr).rebind g.ctx x.2.1.ptr rank
          if x.2.2 then s1 else s1.takeObj rank { x.2.1 with boundTo := some rank }) s3
    | _ => s

/-! ## The best candidate of a die and its claims (R263–R265) -/

/-- The key by which a group candidate reserves a rectangle. -/
def Cand.reserveKey (c : Cand) : Nat := match c.key with
  | .work (.image g) _ => 2 ^ 32 + g.group
  | .work _ _ => 0
  | .sweep id _ => id

/-- The shape of a group candidate. -/
def State.shapeOf (s : State) (die : Nat) (c : Cand) : Option (Nat × Nat) := match c.key with
  | .work (.image g) _ => some (g.w, g.h)
  | .work _ _ => none
  | .sweep id _ => match s.sweep? id with
    | some w => (s.readGroup die w.ctx w.record.group).1.map fun d => (d.w, d.h)
    | none => none

/-- Group images that could go to a die, as candidates. -/
def State.imageCands (s : State) (die : Nat) : List Cand :=
  let n := (s.die die).ready.length
  (((s.die die).ready.mapIdx fun i x => (i, x)) ++ ((s.foreignImages die).mapIdx fun j x => (n + j, x.2.2))).filterMap fun x => match x.2.work with
    | .image g => if (origins die g.w g.h).isEmpty then none else some { itemCand 1 x.1 x.2 with group := true }
    | _ => none

/-- Group candidates of a die. -/
def State.groupCands (s : State) (die : Nat) : List Cand := s.imageCands die ++ s.sweepCands die true

/-- Every candidate of a die for its cores, or for its memory-side units. -/
def State.dieCands (s : State) (die : Nat) (memSide : Bool) : List Cand :=
  let d := s.die die
  let all := fun (k : Nat) (l : List Item) => ((l.mapIdx fun i x => (i, x)).filterMap fun x => match x.2.work with
    | .image _ => none
    | .object o => if o.boundTo.isSome then none else some (itemCand k x.1 x.2)
    | .packet _ => some (itemCand k x.1 x.2))
  if memSide then all 1 d.memReady else all 0 (d.priv.map (·.2)) ++ all 1 d.ready ++ s.sweepCands die false ++ s.groupCands die

/-- The rectangle a group candidate could start on now. -/
def State.rectOf (s : State) (die : Nat) (c : Cand) : List Nat :=
  match s.shapeOf die c with
  | none => []
  | some (w, h) => match s.freeRect die c.reserveKey w h with
    | some (c0, k0) => rectRanks die c0 k0 w h
    | none => []

/-- What a free unit may take: what it could take by itself, and groups that could start now on a rectangle that holds it. -/
def State.choices (s : State) (rank : Nat) : List Cand :=
  let u := s.unitAt rank
  s.cands rank ++ (if classOf rank = 2 ∨ u.heldFor.isSome = true then []
    else (s.groupCands (dieOf rank)).filter fun c => (s.rectOf (dieOf rank) c).contains rank)

/-- A group candidate is the choice of every core of its rectangle (R263). -/
def State.groupWins (s : State) (die : Nat) (c : Cand) : Bool :=
  (s.rectOf die c).all fun r => bestCand s.clk (s.choices r) == some c

/-- A group starts, or its image is restored, when it is its cores' choice. A sweep whose group cannot be read is found out at
its start. -/
def State.startCand (s : State) (die : Nat) (c : Cand) : State :=
  if !s.groupWins die c then s
  else match c.kind with
    | 1 => s.restoreGroup die c.index
    | _ => s.startGroup die c.index

/-- A free core or memory-side unit takes its best candidate (R263). -/
def State.dispatch (s : State) (rank : Nat) : State :=
  if !(isCoreRank rank || isMemRank rank) || !(s.unitAt rank).free then s
  else match bestCand s.clk (s.choices rank) with
    | none => s
    | some c => if c.group then s.startCand (dieOf rank) c else s.takeCand rank c

/-- Ranks of a die's cores and memory-side units. -/
def ranksOfDie (die : Nat) : List Nat :=
  let cores := fun (c : Nat) => (List.range 4).map (rankOf die c)
  ((List.range (clustersOf die)).map cores).flatten ++ (if isDDie die then cores 7 else [])

/-- A unit that could take a candidate is free. -/
def State.someFree (s : State) (die : Nat) (c : Cand) : Bool :=
  if c.group then !(s.rectOf die c).isEmpty
  else (ranksOfDie die).any fun r => (s.unitAt r).free && (s.cands r).contains c

/-- The claim of a die's best candidate: it stands while the same one is the best and no unit that could take it is free
(R264; log 125). -/
def State.nextClaim (s : State) (die : Nat) (memSide : Bool) (old : Option Claim) : Option Claim :=
  match bestCand s.clk (s.dieCands die memSide) with
  | none => none
  | some c => match old with
    | some k => if k.key = c.key ∧ s.someFree die c = false then some k else some { key := c.key, since := s.clk }
    | none => some { key := c.key, since := s.clk }

/-- What the scheduler of a die keeps up: its claims, and the reservations of groups that are still candidates (R265). -/
def State.watchDie (s : State) (die : Nat) : State :=
  let d := s.die die
  let keys := if d.reserve.isEmpty then [] else (s.groupCands die).map Cand.reserveKey
  let d' := { d with best := s.nextClaim die false d.best, bestMem := s.nextClaim die true d.bestMem,
                     reserve := d.reserve.filter fun x => keys.contains x.1 }
  if d' = d then s else s.setDie die d'

/-- Every die's scheduler, at the end of a step. -/
def State.watchDies (s : State) : State := (s.dies.map (·.1)).foldl (fun s d => s.watchDie d) s

/-- Whom a candidate has asked. -/
def State.askedOf (s : State) (die : Nat) (memSide : Bool) (c : Cand) : List Nat :=
  let d := s.die die
  match c.kind with
  | 0 => (d.priv[c.index]?.map (·.2.asked)).getD []
  | 1 => if memSide then (d.memReady[c.index]?.map (·.asked)).getD [] else ((s.imageAt die c.index).map (·.2.2.asked)).getD []
  | _ => ((d.sweeps.find? fun x => x.id = c.index).map (·.asked)).getD []

/-- Note whom a candidate asks. -/
def State.setAsked (s : State) (die : Nat) (memSide : Bool) (c : Cand) (l : List Nat) : State :=
  let f := fun (i : Item) => { i with asked := l }
  match c.kind with
  | 0 => s.modDie die fun d => { d with priv := d.priv.modify c.index fun x => (x.1, f x.2) }
  | 1 =>
    if memSide then s.modDie die fun d => { d with memReady := d.memReady.modify c.index f }
    else match s.imageAt die c.index with
      | some (src, place, _) => s.modDie src fun d => { d with ready := d.ready.modify place f }
      | none => s
  | _ => s.modDie die fun d => { d with sweeps := d.sweeps.map fun x => if x.id = c.index then { x with asked := l } else x }

/-- Units of a die that a candidate could run on. -/
def State.rivalsOf (s : State) (die : Nat) (memSide : Bool) (c : Cand) : List Nat :=
  let own := fun (r : Nat) => match c.kind with
    | 0 => ((s.die die).priv[c.index]?.map (·.1)) == some r
    | _ => true
  (s.units.filter fun x => decide (dieOf x.1 = die) && (classOf x.1 == 2) == memSide && x.2.unit.running && own x.1).map (·.1)

/-- The unit a request asks: lowest base priority, then started most recently. -/
def State.victim (s : State) (l : List Nat) (base : Nat) : Option Nat :=
  l.foldl (fun (b : Option Nat) r =>
    let u := (s.unitAt r).unit
    if base ≤ u.prio then b
    else match b with
      | none => some r
      | some x =>
        let v := (s.unitAt x).unit
        if u.prio < v.prio ∨ (u.prio = v.prio ∧ v.started < u.started) then some r else b) none

/-- A request is still outstanding: one of the units it asked runs on under it. -/
def State.askedStill (s : State) (l : List Nat) : Bool := l.any fun r => (s.unitAt r).unit.running && (s.unitAt r).ctl.prq

/-- The claim of a die's best candidate of one kind of unit. -/
def Die.claim (d : Die) (memSide : Bool) : Option Claim := if memSide then d.bestMem else d.best

/-- The scheduler looks at a die's best candidate of one kind of unit: after 2048 clk it asks a unit of lower priority to make
room (R264). -/
def State.lookFor (s : State) (die : Nat) (memSide : Bool) : State :=
  match bestCand s.clk (s.dieCands die memSide), (s.die die).claim memSide with
  | some c, some k =>
    if k.key ≠ c.key ∨ s.clk < k.since + 2048 ∨ s.askedStill (s.askedOf die memSide c) = true then s
    else match s.victim (s.rivalsOf die memSide c) c.base with
      | none => s
      | some r => (s.setAsked die memSide c (s.together r)).askUnit r
  | _, _ => s

/-- A group candidate that has been its die's best for 4096 clk reserves a rectangle (R265). -/
def State.reserveRect (s : State) (die : Nat) (c : Cand) : State :=
  match (s.die die).best, s.shapeOf die c with
  | some k, some (w, h) =>
    if k.key ≠ c.key ∨ bestCand s.clk (s.dieCands die false) ≠ some c ∨ s.clk < k.since + 4096
      ∨ (s.die die).reserve.any (fun x => decide (x.1 = c.reserveKey)) = true then s
    else match s.bestRect die w h with
      | some (c0, k0) => s.modDie die fun d => { d with reserve := d.reserve ++ [(c.reserveKey, c0, k0, w, h)] }
      | none => s
  | _, _ => s

end Sys2Proof.Machine
end

