-- ==== Sys2Proof/Machine/SchedEvents.lean ====
section
/-!
DEFINITION. Events of synchronisation and scheduling: operations at the engines, the ends of spinning waits (10 R199), packets
(10 R204), dispatch (14 R263), sweeps at the walkers and the Headgate (14 R253–R257), restarts (14 R258), groups (14
R260–R265) and pre-emption (14 R264, 24 R385–R387).
-/
namespace Sys2Proof.Machine

/-! ## Synchronisation engines and waits -/

/-- SYNC_ENGINE_OPERATION: the oldest operation waiting at a die's engine performs. -/
def execSyncEngineOperation (die : Nat) (s : State) : Out := .next (s.syncOperation die)

/-- The wait word in execution looks again. -/
def State.lookAgain (s : State) : Option Out :=
  match decode s.core.ir.word with
  | .ok (.ctrwait a) => some (execCtrwait a s)
  | .ok (.bararv d a w) => some (execBararv d a w s)
  | .ok (.barwait a b) => some (execBarwait a b s)
  | .ok (.tlwait c a b e) => some (execTlwait c a b e s)
  | .ok (.arwait a b) => some (execArwait a b s)
  | _ => none

/-- The look of a unit that spins, with the focus on it and back. -/
def State.spinLook (s : State) (rank : Nat) : Option State :=
  if s.stopping (s.unitAt rank).unit.ctx then none
  else match (s.unitAt rank).stall with
  | .spin _ => match (s.focus rank).lookAgain with
    | some (.next t) => some t
    | _ => none
  | _ => none

/-- WAIT_SATISFIED: a spinning wait whose condition holds ends with its acquire; one that does not hold spins on. -/
def execWaitSatisfied (rank : Nat) (s : State) : Out :=
  match s.spinLook rank with
  | some t =>
    if t.core.stall = .none ∧ t.core.unit.running = true ∧ t.core.ctl.tlevel = (s.unitAt rank).ctl.tlevel then .next (t.focus s.cur) else .next s
  | none => .next s

/-- SPIN_LIMIT_EXPIRY: a wait unsatisfied after SPINL clk, or pre-empted, suspends. -/
def execSpinLimitExpiry (rank : Nat) (s : State) : Out :=
  let u := s.unitAt rank
  if u.ctl.spinl ≤ u.looks ∨ u.ctl.prq = true then match s.spinLook rank with
    | some t => .next (t.focus s.cur)
    | none => .next s
  else .next s

/-! ## Packets and dispatch -/

/-- SPAWN_PACKET_ACCEPT: packets of one unit are accepted in the order of its spawn words; one for another package leaves this
one's state. -/
def execSpawnPacketAccept (index : Nat) (s : State) : Out :=
  match s.spawns[index]? with
  | none => .next s
  | some m =>
    if !s.reaches (dieOf m.from_) m.die || (s.spawns.take index).any fun x => x.from_ = m.from_ then .next s
    else
      let it : Item := { work := .packet m.pkt, prio := m.pkt.prio, ready := s.clk }
      let s1 := { s with spawns := s.spawns.eraseIdx index }.modUnit m.from_ fun u => { u with unit := { u.unit with packets := u.unit.packets - 1 } }
      if m.away.isSome then .next s1
      else .next (s1.modDie m.die fun d => match m.core with
        | some r => { d with priv := d.priv ++ [(r, it)] }
        | none => if m.memSide then { d with memReady := d.memReady ++ [it] } else { d with ready := d.ready ++ [it] })

/-- WORK_DISPATCH. -/
def execWorkDispatch (rank : Nat) (s : State) : Out := .next (s.dispatch rank)

/-- CONTINUATION_START: a core restores the object it has taken once its OUTST is 0. -/
def execContinuationStart (rank : Nat) (s : State) : Out :=
  match (s.unitAt rank).starting with
  | some o => .next (s.restoreUnit rank o)
  | none => .next s

/-- The fence of a spawned unit (10 R204): the unit begins once it is met. -/
def State.passFence (s : State) : Option State :=
  match s.core.unit.fence with
  | none => some s
  | some f => if s.fenceMet (some f) then some (s.modCore fun u => { u with unit := { u.unit with fence := none } }) else none

/-! ## Sweeps -/

/-- Active sweeps on a die's walker. -/
def Die.activeSweeps (d : Die) : Nat := (d.sweeps.filter fun x => !x.reported).length

/-- SWEEP_ADMISSION: a sweep goes to all its dies together once each has a walker slot (R254). -/
def execSweepAdmission (sweep : Nat) (s : State) : Out :=
  match s.sweep? sweep with
  | none => .next s
  | some w =>
    if w.admitted || !(w.dies.all fun d => decide ((s.die d).activeSweeps < 64)) then .next s
    else
      let s1 := w.dies.foldl (fun s d => s.modDie d fun x => { x with sweeps := x.sweeps ++ [{ id := sweep }] }) s
      .next (s1.modSweep sweep fun w => { w with admitted := true })

/-- WALKER_EXPAND: a die's walker has the record. -/
def execWalkerExpand (die sweep : Nat) (s : State) : Out :=
  .next (s.modDieSweep die sweep fun x => if x.expanded then x else { x with expanded := true, ready := s.clk })

/-- Signals of a sweep not yet performed. -/
def State.signalsPending (s : State) (w : Sweep) : Bool :=
  s.dies.any fun d => d.2.syncOps.any fun o => decide (o.ctx = w.ctx) && !o.trapSig && (w.record.signals 1).contains o.ptr

/-- SWEEP_DIE_REPORT: a die whose steps have ended reports once; with the last report the kind-0 signals are made and the
completion is posted (R257). -/
def execSweepDieReport (die sweep : Nat) (s : State) : Out :=
  match s.sweep? sweep, (s.die die).sweeps.find? fun x => x.id = sweep with
  | some w, some x =>
    if !x.expanded || x.reported || w.stop || decide (x.done.length ≠ w.count die) || s.signalsPending w then .next s
    else
      let s1 := (s.modDieSweep die sweep fun x => { x with reported := true }).modSweep sweep fun w => { w with reported := die :: w.reported }
      if !(w.dies.all fun d => d == die || w.reported.contains d) then .next s1
      else .next (((w.record.signals 0).foldl (fun s p => s.partSignal w.ctx p false) s1).postSweep w "OK" |>.dropSweep sweep)
  | _, _ => .next s

/-- STEP_RESTART of the step a unit runs, in one of the two cases of R258: a trap handler has asked for it, or its core is lost. -/
def execStepRestart (rank cause : Nat) (s : State) : Out :=
  let u := (s.unitAt rank).unit
  .next (if u.running && u.isStep && [cSOFT_TRAP, cCORE_LOST].contains cause then s.restartStep rank cause (cause == cCORE_LOST) else s)

/-- CORE_OUT_OF_SERVICE: the step of the core is restarted elsewhere; a task on it is lost with its state; an object it has
taken and not started is queued again. -/
def execCoreOutOfService (rank : Nat) (s : State) : Out :=
  let u := s.unitAt rank
  let s1 := s.modUnit rank fun u => { u with outOfService := true, starting := none }
  .next (match u.starting with
    | some o => s1.enqueueObj o
    | none =>
      if u.unit.running && u.unit.isStep then s1.restartStep rank cCORE_LOST true
      else if u.unit.running then s1.haltUnit rank
      else s1)

/-! ## Groups -/

/-- GROUP_START: the next step of a pipeline sweep, when it is its cores' choice. A group that cannot be read, or is not valid,
is found out here. -/
def execGroupStart (die sweep : Nat) (s : State) : Out :=
  .next (match (s.sweepCands die true).find? fun c => c.index = sweep with
    | some c => s.startCand die c
    | none => s)

/-- GROUP_RESTORE of the image at an index. -/
def execGroupRestore (die index : Nat) (s : State) : Out :=
  .next (match (s.imageCands die).find? fun c => c.index = index with
    | some c => if (s.rectOf die c).isEmpty then s else s.startCand die c
    | none => s)

/-- GROUP_RESERVE: the group candidate at an index of its die's. -/
def execGroupReserve (die index : Nat) (s : State) : Out :=
  .next (match (s.groupCands die)[index]? with
    | some c => s.reserveRect die c
    | none => s)

/-! ## Pre-emption -/

/-- PREEMPTION_REQUEST: the scheduler of a die looks at its best candidates, for its cores and for its memory-side units. -/
def execPreemptionRequest (die : Nat) (s : State) : Out := .next ((s.lookFor die false).lookFor die true)

/-- FORCED_SAVE: once PDL is 0. -/
def execForcedSave (rank : Nat) (s : State) : Out :=
  let u := s.unitAt rank
  .next (if u.unit.running && u.ctl.prq && decide (u.ctl.pdl = 0) then s.forceSave rank else s)

/-- What a step's end brings about: every context settles, groups whose stages have all parked form their images, and the
schedulers see what is best; commands that could start are eligible. -/
def State.settleAll (s : State) : State := s.settle.settleGroups.watchDies.noteEligible

end Sys2Proof.Machine
end

