-- ==== Sys2Proof/Machine/Pow.lean ====
section
/-!
DEFINITION. Power and temperature (16 R274–R283): sensors, the bids of an epoch and the market, rails, meters.
-/
namespace Sys2Proof.Machine

/-! ## Clusters -/

/-- Every cluster of the package, by die and number. -/
def allClusters : List (Nat × Nat) :=
  (((List.range 4) ++ (List.range 32).map (· + 32)).map fun d => (List.range (clustersOf d)).map fun c => (d, c)).flatten

/-- Floor, high and low headroom of a cluster of a die (Table 86). -/
def floorOf (die : Nat) : Nat := if isPDie die then 16 else 3
def highOf (die : Nat) : Nat := if isPDie die then 90 else 17
def lowOf (die : Nat) : Nat := if isPDie die then 36 else 7

/-! ## Sensors (R282, R283) -/

def sensorId (die column height : Nat) : Nat := die * 64 + column * 8 + height

/-- Sensors above, below and at the same height of the adjacent columns of a stack; a P-cluster's sensor has none. -/
def sensorsBeside (id : Nat) : List Nat :=
  let die := id / 64
  let c := id / 8 % 8
  let h := id % 8
  if isPDie die then []
  else (if h = 0 then [] else [sensorId die c (h - 1)]) ++ (if h < 4 then [sensorId die c (h + 1)] else [])
    ++ (if c = 0 then [] else [sensorId die (c - 1) h]) ++ (if c < 5 then [sensorId die (c + 1) h] else [])

/-- Latest reading of a sensor. -/
def State.reading (s : State) (id : Nat) : Option Int := (alGet id s.power.sensors).bind fun x => x.past.head?

def maxInt (l : List Int) : Option Int := l.foldl (fun b x => match b with
  | none => some x
  | some y => some (max x y)) none

/-- The reading that counts: a failed sensor's is its hottest healthy neighbour's plus 10 °C, or TCRIT. -/
def State.sensed (s : State) (id : Nat) : Option Int :=
  if id ∈ s.power.failed then
    match maxInt (((sensorsBeside id).filter fun n => !(decide (n ∈ s.power.failed))).filterMap s.reading) with
    | some t => some (t + 80)
    | none => some s.power.tcrit
  else s.reading id

def heights (die : Nat) : List Nat := if isPDie die then [0] else [0, 1, 2, 3, 4]

/-- Temperature of a column or a P-cluster. -/
def State.columnTemp (s : State) (die c : Nat) : Option Int :=
  maxInt ((heights die).filterMap fun h => s.sensed (sensorId die c h))

/-- A sensor after one more reading. -/
def Sensor.sample (x : Sensor) (v : Int) : Sensor :=
  { past := v :: x.past.take 100, same := if x.past.head? == some v then x.same + 1 else 0 }

/-- The highest value and the span of a list of powers. -/
def spanOf (l : List Nat) : Nat × Nat :=
  let hi := l.foldl max 0
  (hi, hi - l.foldl min hi)

/-- A sensor fails by its range, its jump within 1 ms, or one code for 100 ms over which its cluster's metered power, by the
epochs of that window, varies by more than 10 % of its highest value. -/
def Sensor.fails (x : Sensor) (powers : List Nat) : Bool :=
  match x.past with
  | [] => false
  | v :: _ => decide (v < -160) || decide (1200 < v)
    || (match x.past[100]? with
      | some o => decide (160 < v - o) || decide (160 < o - v)
      | none => false)
    || (decide (10000 ≤ x.same) && decide ((spanOf powers).1 < 10 * (spanOf powers).2))

/-- One sensor's sample. -/
def State.sampleOne (s : State) (id : Nat) (v : Int) : State :=
  let x := ((alGet id s.power.sensors).getD {}).sample v
  let s1 := { s with power := { s.power with sensors := alSet id x s.power.sensors } }
  if x.fails (s.cluster (id / 64) (id / 8 % 8)).powers && !(decide (id ∈ s.power.failed)) then
    { s1 with power := { s1.power with failed := id :: s1.power.failed } }.send (.event "SENSOR_FAILED" 0 "OK" [id / 64, id / 8 % 8, id % 8])
  else s1

/-- SENSOR_SAMPLE: every reading given; a column that has fallen below TCRIT is no longer withheld for it. -/
def execSensorSample (readings : List (Nat × Int)) (s : State) : Out :=
  let s1 := readings.foldl (fun s r => s.sampleOne r.1 r.2) s
  .next (allClusters.foldl (fun s k =>
    if (s.cluster k.1 k.2).critical && (match s.columnTemp k.1 k.2 with
      | some t => decide (t < s.power.tcrit)
      | none => true) then s.modCluster k.1 k.2 fun x => { x with critical := false } else s) s1)

/-! ## The market (R276, R277) -/

/-- A cluster's bid, and what it has been given. -/
structure Bid where
  die : Nat
  cluster : Nat
  weight : Nat
  occ : Nat
  demand : Nat
  got : Nat
deriving DecidableEq, Repr

/-- The bid of a cluster (R276); its limiter has come up to the present clk. -/
def State.bid (s : State) (die c : Nat) : Bid :=
  let us := (coresOf die c).map s.unitAt
  let prio := us.foldl (fun n (u : Core) => if u.unit.running then max n u.unit.prio else n) 0
  let refused := (coresOf die c).any fun r => (s.eligibleCmd r).isSome
  let busy := us.foldl (fun n (u : Core) => n + match u.activeFrom with
    | some g => s.clk - max g s.power.epochAt
    | none => 0) (s.cluster die c).busyClk
  let u := if refused then 16 else min 16 (ceilDiv (16 * busy) (max 1 (4 * (s.clk - s.power.epochAt))))
  { die := die, cluster := c, weight := 2 ^ prio, occ := u, demand := floorOf die + ceilDiv (highOf die * u) 16, got := floorOf die }

/-- One share more for each bid of a weight, while shares last. -/
def oneMore (w : Nat) (avail : Nat) : List Bid → Nat × List Bid
  | [] => (avail, [])
  | b :: r =>
    if b.weight = w ∧ b.got < b.demand ∧ 0 < avail then
      let x := oneMore w (avail - 1) r
      (x.1, { b with got := b.got + 1 } :: x.2)
    else
      let x := oneMore w avail r
      (x.1, b :: x.2)

/-- The rounds of R277. -/
def clearMarket : Nat → Nat → List Bid → List Bid
  | 0, _, l => l
  | fuel + 1, avail, l =>
    let total := (l.filter fun b => b.got < b.demand).foldl (fun n b => n + b.weight) 0
    if avail = 0 ∨ total = 0 then l
    else
      let x := fun (b : Bid) => if b.got < b.demand then min (b.demand - b.got) (avail * b.weight / total) else 0
      let given := l.foldl (fun n b => n + x b) 0
      if given = 0 then
        ([8, 4, 2, 1].foldl (fun (a : Nat × List Bid) w => oneMore w a.1 a.2) (avail, l)).2
      else clearMarket fuel (avail - given) (l.map fun b => { b with got := b.got + x b })

/-- The cap of a cluster: of a hot column (R282) and of a failed sensor (R283); and whether the column is hot. -/
def State.capOf (s : State) (b : Bid) : Option Nat × Bool :=
  let hot := match s.columnTemp b.die b.cluster with
    | some t => decide ((s.power.thot : Int) ≤ t)
    | none => false
  let failed := (heights b.die).any fun h => decide (sensorId b.die b.cluster h ∈ s.power.failed)
  let f := floorOf b.die
  let c1 := if hot then some (f + ceilDiv (lowOf b.die * b.occ) 16) else none
  let c2 := if failed then some (max f ((f + highOf b.die) / 2)) else none
  (match c1, c2 with
    | some a, some b => some (min a b)
    | some a, none => some a
    | none, x => x, hot)

/-- The commands of a cluster that wait for a grant are eligible no longer (R278). -/
def State.withhold (s : State) (die c : Nat) : State :=
  (coresOf die c).foldl (fun s r =>
    if (s.unitAt r).mat.queue.any fun x => x.granted.isNone && x.eligible.isSome then
      s.modUnit r fun u => { u with mat := { u.mat with queue := u.mat.queue.map fun x => if x.granted.isNone then { x with eligible := none } else x } }
    else s) s

/-- A cluster's results, and its column's critical threshold. -/
def State.clearOne (s : State) (b : Bid) : State :=
  let cap := s.capOf b
  let a := match cap.1 with
    | some c => min b.got c
    | none => b.got
  let high := !cap.2 && decide (floorOf b.die + ceilDiv (highOf b.die * b.occ) 16 ≤ a)
  let crit := match s.columnTemp b.die b.cluster with
    | some t => decide ((s.power.tcrit : Int) ≤ t)
    | none => false
  let was := (s.cluster b.die b.cluster).critical
  let s1 := s.modCluster b.die b.cluster fun k =>
    { k with cleared := some (a, high), critical := k.critical || crit, used := 0, busyClk := 0,
             powers := (k.used + Config.energyUse s.tick (b.die * 8 + b.cluster)) :: k.powers.take 9999 }
  if crit && !was then (s1.withhold b.die b.cluster).send (.event "THERMAL_CRIT" 0 "OK" [b.die, b.cluster]) else s1

/-- EPOCH_END: every cluster bids, the watermaster clears the market, and the contexts' energy counters take the epoch's
activity. -/
def execEpochEnd (s : State) : Out :=
  let avail := s.power.pbudget - 680 - 32 * 90 - (4 * 8 * 16 + 32 * 6 * 3)
  let s0 := s.rampAll
  let bids := clearMarket (avail + 1) avail (allClusters.map fun k => s0.bid k.1 k.2)
  let s1 := bids.foldl (fun s b => s.clearOne b) s0
  .next { s1 with power := { s1.power with epochAt := s.clk }, ctxs := s1.ctxs.map fun c => (c.1, { c.2 with energy := c.2.energy + Config.energyUse s.tick (512 + c.1) }) }

/-! ## Results, rails and meters -/

/-- The results of a cluster apply: its share, the rail it gets by itself, and nothing of it is withheld for its meter. -/
def Cluster.apply (k : Cluster) : Cluster := match k.cleared with
  | some (a, high) => { k with alloc := some a, own := high, cleared := none, withheld := false }
  | none => k

/-- MARKET_RESULTS_ARRIVE: the results apply; the two clusters of a pair site in use get the lower of their rails (R280). -/
def execMarketResultsArrive (s : State) : Out :=
  let s0 := s.rampAll
  let s1 := allClusters.foldl (fun t k => if (s0.cluster k.1 k.2).cleared.isSome then t.modCluster k.1 k.2 Cluster.apply else t) s0
  .next (allClusters.foldl (fun t k =>
    if (s0.cluster k.1 k.2).cleared.isNone then t
    else
      let own := (s1.cluster k.1 k.2).own
      t.modCluster k.1 k.2 fun x => x.order (if s1.pairBusy k.1 k.2 then own && (s1.cluster k.1 (k.2 ^^^ 1)).own else own) s.clk) s1)

/-- RAIL_SWITCH of a cluster: the boundary of its limiter at which an ordered switch takes effect (R274). -/
def execRailSwitch (die cluster : Nat) (s : State) : Out :=
  .next (if (s.railDue die cluster (s.clk + 1)).isSome then s.rampStep die (s.cluster die cluster).railHigh else s)

/-- ENERGY_METER_EXHAUSTED: the metered energy of the epoch reaches a_c × 10 share·µs, 5 µJ a share. -/
def execEnergyMeterExhausted (die cluster : Nat) (s : State) : Out :=
  let k := s.cluster die cluster
  let used := k.used + Config.energyUse s.tick (die * 8 + cluster)
  .next (match k.alloc with
    | some a =>
      if a * 5000 ≤ used then ((s.rampDie die).modCluster die cluster fun k => { k with used := used + (k.used - (s.cluster die cluster).used), withheld := true }).withhold die cluster
      else s
    | none => s)

end Sys2Proof.Machine
end

