-- ==== Sys2Proof/Machine/Head.lean ====
section
/-!
DEFINITION. Admission from the work queues (19 R308–R312, 25 R400): launches and the checks of 14 R251, streams, frames,
batches, and the packets that kill, save and restore a context (24 R384, R388); the end of a snapshot copy (17 R295).
-/
namespace Sys2Proof.Machine

/-! ## Packets at queue heads -/

/-- Packets of a queue, in arrival order. -/
def State.packetsOf (s : State) (q : Nat) : List (List Byte) := (alGet q s.host.packets).getD []

/-- The effective priority of a queue's head (R308). -/
def State.headEff (s : State) (q : Nat) (p : List Byte) : Nat := min 3 (natAt p 1 1 % 4 + (s.time - (alGet q s.host.heads).getD 0) / 20000)

/-- The queue whose head is admitted next, of those whose head's admission has not started: highest eff, then earliest at a
head, then lowest number. -/
def State.nextQueue (s : State) : Option Nat :=
  (s.host.packets.foldl (fun (b : Option (Nat × Nat × Nat)) x =>
    match x.2 with
    | [] => b
    | p :: _ =>
      if x.1 ∈ s.host.admitting then b
      else
      let e := s.headEff x.1 p
      let t := (alGet x.1 s.host.heads).getD 0
      match b with
      | none => some (x.1, e, t)
      | some y => if y.2.1 < e ∨ (y.2.1 = e ∧ (t < y.2.2 ∨ (t = y.2.2 ∧ x.1 < y.1))) then some (x.1, e, t) else b) none).map (·.1)

/-- The head packet of a queue leaves; the one behind it becomes the head. -/
def State.popPacket (s : State) (q : Nat) : State :=
  { s with host := { s.host with
      packets := alSet q ((s.packetsOf q).drop 1) s.host.packets
      heads := alSet q s.time s.host.heads
      admitting := s.host.admitting.filter (· ≠ q) } }

/-- The admission of a queue's head may go on: it has started, or its turn has come and fewer than 8 are in progress. -/
def State.mayAdmit (s : State) (q : Nat) : Bool :=
  s.host.admitting.contains q || (s.nextQueue == some q && decide (s.host.admitting.length < 8))

/-- The admission of a queue's head has started and waits. -/
def State.startAdmission (s : State) (q : Nat) : State :=
  { s with host := { s.host with admitting := q :: s.host.admitting.filter (· ≠ q) } }

/-- A COMPLETION event of a packet (25 R400). -/
def State.complete (s : State) (q : Nat) (status : String) (args : List Nat) : State := s.send (.event "COMPLETION" q status args)

/-- Bytes a packet of a kind lists besides KIND and PRIO: offset and length (25 Table 134). -/
def listed (kind : Nat) : List (Nat × Nat) := match kind with
  | 3 => [(8, 8), (16, 4), (24, 8), (32, 8)]
  | 4 => [(8, 8), (16, 4)]
  | 10 => [(8, 8), (16, 4)]
  | 8 => []
  | 9 => []
  | _ => [(8, 8)]

/-- Every reserved byte and bit of a packet is zero. -/
def packetClean (p : List Byte) : Bool :=
  decide (natAt p 1 1 < 4) && (List.range 62).all fun i =>
    ((listed (natAt p 0 1)).any fun r => decide (r.1 ≤ i + 2) && decide (i + 2 < r.1 + r.2)) || natAt p (i + 2) 1 == 0

/-- Admit the head of a queue if its turn has come and it is of a kind. f gives its effect, or none while it must wait: then
its admission has started and holds back no other queue. A packet of an unassigned kind completes with FAULT (log 46). -/
def State.fromQueue (s : State) (q kind : Nat) (refusal : String) (f : Nat → List Byte → State → Option State) : Out :=
  match s.packetsOf q with
  | [] => .next s
  | p :: _ =>
    let k := natAt p 0 1
    if !s.mayAdmit q then .next s
    else if kind = 1 ∧ (k = 0 ∨ 10 < k) then .next ((s.popPacket q).complete q "FAULT" [])
    else if k ≠ kind then .next s
    else match alGet q s.host.queues with
      | none => .next ((s.popPacket q).complete q "KILLED" [])
      | some c => match s.ctx? c with
        | none => .next ((s.popPacket q).complete q "KILLED" [])
        | some x =>
          if x.killed then .next ((s.popPacket q).complete q "KILLED" [])
          else if !packetClean p then .next ((s.popPacket q).complete q refusal [])
          else match f c p (s.popPacket q) with
            | some t => if t.held then .next ((s.takeBack t).startAdmission q) else .next t
            | none => .next (s.startAdmission q)

/-! ## Sweep records (14 R250, R251) -/

def sweepRecOf (b : List Byte) : SweepRec :=
  { kernel := wordAt b 0, nloop := natAt b 8 1, prio := natAt b 9 1, queue := natAt b 10 2, mode := natAt b 12 1, rlimit := natAt b 13 1,
    bound := (List.range 6).map fun i => natAt b (16 + 4 * i) 4, tile := (List.range 6).map fun i => natAt b (40 + 4 * i) 4,
    order := (List.range (min 6 (natAt b 8 1))).map fun i => natAt b (64 + i) 1, dmask := natAt b 72 8, group := wordAt b 80,
    signal := (List.range 4).map fun i => wordAt b (88 + 8 * i), lkeep := natAt b 120 4, sptop := natAt b 124 4 }

/-- Dies of a mask in increasing order. -/
def maskDies (m : Nat) : List Nat := (List.range 64).filter fun d => bitAt m d

/-- The checks on a record by itself. -/
def SweepRec.fits (r : SweepRec) (b : List Byte) : Bool :=
  natAt b 14 2 == 0 && natAt b 70 2 == 0 && natAt b 128 128 == 0 && decide (r.prio < 4) && decide (r.rlimit < 8) && decide (r.mode < 3)
    && decide (1 ≤ r.nloop) && decide (r.nloop ≤ 6)
    && ((List.range 6).all fun i =>
      let n := r.bound.getD i 0
      let t := r.tile.getD i 0
      if i < r.nloop then decide (1 ≤ n) && decide (1 ≤ t) && decide (t ≤ n) else n == 0 && t == 0 && natAt b (64 + i) 1 == 0)
    && ((List.range r.nloop).all fun i => r.order.contains (i + 1)) && decide (r.steps ≤ 2 ^ 32)
    && r.dmask != 0 && (maskDies r.dmask).all isDie && r.lkeep % 4096 == 0 && r.sptop % 16 == 0
    && (maskDies r.dmask).all fun d => decide (r.lkeep ≤ localSize (rankOf d 0 0)) && decide (r.sptop ≤ localSize (rankOf d 0 0))

/-- A SIGNAL pointer passes: a counter, named with its die (14 R251, 10 R193). -/
def State.signalFits (s : State) (ctx : Nat) (p : Word) : Bool :=
  p == 0#64 || (decide (p.toNat % 16 < 2) && spaceOf p == 3 && rankField p != 0xFFF
    && (s.rankFault ctx 0 3 (rankField p) (offOf p / 16 * 16) 16).isNone
    && match s.syncVar (rankField p / 64) ctx (offOf p / 16 * 16) with
      | some v => v.counter?.isSome
      | none => false)

/-- Read bytes of a context's memory for the Headgate at an aligned GLOBAL pointer: the bytes, or the cause. -/
def State.headRead (s : State) (ctx : Nat) (p : Word) (align n : Nat) : Except Nat (List Byte) × State :=
  if spaceOf p ≠ 0 then (.error cADDR_SPACE, s)
  else if p.toNat / 2 ^ 57 ≠ 0 then (.error cADDR_RANGE, s)
  else if p.toNat % align ≠ 0 then (.error cMISALIGNED, s)
  else s.ctxRead headDie ctx p.toNat n

/-- The group of a pipeline record passes R259. -/
def State.groupFits (s : State) (ctx : Nat) (r : SweepRec) : Bool × State :=
  if r.mode ≠ 2 then (true, s)
  else match s.headRead ctx r.group 64 64 with
    | (.ok b, s1) => ((groupDescOf b).valid r.dmask, s1)
    | (.error _, s1) => (false, s1)

/-- Admit a sweep, for the packet of a queue or for a batch: its number, or the refusal with the cause of an unreadable record. -/
def State.admitSweep (s : State) (via : Option Nat) (ctx : Nat) (p : Word) : Except (List Nat) Nat × State :=
  match s.headRead ctx p 256 256 with
  | (.error c, s1) => (.error [c], s1)
  | (.ok b, s1) =>
    let r := sweepRecOf b
    let g := s1.groupFits ctx r
    if r.fits b && (maskDies r.dmask).all (s1.dieAllowed ctx) && r.signal.all (s1.signalFits ctx) && g.1 then
      let id := g.2.head.nextSweep
      let w : Sweep := { id := id, ctx := ctx, ptr := p, record := r, dies := maskDies r.dmask, queue := r.queue, via := via }
      (.ok id, { g.2 with head := { g.2.head with sweeps := g.2.head.sweeps ++ [w], nextSweep := id + 1 } })
    else (.error [], g.2)

/-- Admit a sweep for a packet of a queue; a refusal completes the packet. -/
def State.admitFor (s : State) (q ctx : Nat) (p : Word) : State :=
  match s.admitSweep (some q) ctx p with
  | (.ok _, s1) => s1
  | (.error args, s1) => s1.complete q "SWEEP_INVALID" args

/-- LAUNCH. -/
def execLaunch (queue : Nat) (s : State) : Out :=
  s.fromQueue queue 1 "SWEEP_INVALID" fun c p s => some (s.admitFor queue c (wordAt p 8))

/-! ## Streams (17 R287, 19 R309, R310) -/

/-- A record image as a stream of a context. -/
def streamOf (ctx handle : Nat) (b : List Byte) : Stream :=
  { ctx := ctx, handle := handle, g := natAt b 0 4, version := natAt b 4 4, p := natAt b 8 4, c := natAt b 12 4, snapint := natAt b 0x18 4,
    nsnap := natAt b 0x1C 4, rstate := wordAt b 0x20, rsize := natAt b 0x28 4, snaplast := natAt b 0x2C 4, snapbase := wordAt b 0x30,
    tlog := natAt b 0x38 8, kvbase := wordAt b 0x40, btab := wordAt b 0x48, nblk := natAt b 0x50 4, hiblk := natAt b 0x54 4,
    ddie := natAt b 0x58 1, prio := natAt b 0x59 1, queue := natAt b 0x5A 2, snappos := (List.range 64).map fun i => natAt b (0x80 + 4 * i) 4 }

/-- A GLOBAL pointer of an alignment. -/
def globalAt (p : Word) (align : Nat) : Bool := decide (p.toNat < 2 ^ 57) && p.toNat % align == 0

/-- The image keeps R286 and the limits of Table 88. Reserved bytes and bits that are not zero refuse it (DESIGN CHOICE, log 143:
R287 names the limits of Table 88 only, and 00 R9 would ignore them). -/
def Stream.fits (t : Stream) (b : List Byte) : Bool :=
  natAt b 0x10 4 == 0 && natAt b 0x14 4 == 0 && natAt b 0x60 8 == 0 && natAt b 0x5C 4 == 0 && natAt b 0x180 128 == 0
    && decide (t.c ≤ t.p) && decide (t.p ≤ t.g) && decide (t.g < 2 ^ 31) && decide (1 ≤ t.nblk) && decide (t.nblk ≤ 2 ^ 27) && decide (t.hiblk ≤ t.nblk)
    && (if t.snapint = 0 then t.nsnap == 0
        else ((List.range 13).any fun i => t.snapint == 2 ^ (i + 4)) && decide (1 ≤ t.nsnap) && decide (t.nsnap ≤ 64))
    && globalAt t.rstate 128 && globalAt t.snapbase 128 && globalAt (BitVec.ofNat 64 t.tlog) 1 && globalAt t.kvbase 65536 && globalAt t.btab 16
    && t.rsize % 128 == 0 && decide (t.rsize ≤ 2 ^ 24) && isDDie t.ddie && decide (t.prio < 4)

/-- The next handle of a context: counting up modulo 2^36, past 0 and every live one. -/
def State.freeHandle (s : State) (ctx : Nat) : Nat → Nat → Nat
  | 0, h => h
  | f + 1, h =>
    let h' := h % 2 ^ 36
    if h' = 0 ∨ (s.stream? ctx h').isSome then State.freeHandle s ctx f (h' + 1) else h'

/-- STREAM_OPEN. -/
def execStreamOpen (queue : Nat) (s : State) : Out :=
  s.fromQueue queue 2 "STREAM_IMAGE" fun c p s => some (match s.headRead c (wordAt p 8) 256 512 with
    | (.error _, s1) => s1.complete queue "STREAM_IMAGE" []
    | (.ok b, s1) =>
      let last := ((s1.ctx? c).map (·.nextHandle)).getD 1
      let h := s1.freeHandle c (s1.head.streams.length + 2) last
      let t := streamOf c h b
      if t.fits b && s1.dieAllowed c t.ddie then
        let s2 := ({ s1 with head := { s1.head with streams := s1.head.streams ++ [t] } }).modCtx c fun x => { x with nextHandle := h + 1, kvbase := t.kvbase }
        (s2.send (.event "STREAM_OPENED" t.queue "OK" [h])).complete queue "OK" [h]
      else s1.complete queue "STREAM_IMAGE" [])

/-- The live stream a STREAM pointer names. -/
def State.liveStream (s : State) (ctx : Nat) (p : Word) : Option Stream :=
  if spaceOf p = 4 ∧ rankField p = 0xFFF ∧ offOf p % 4096 = 0 then s.stream? ctx (offOf p / 4096) else none

/-- The argument pointer of a frame packet: 0, or an aligned pointer to a page that may be written. -/
def State.argFits (s : State) (ctx : Nat) (p : Word) : Bool × State :=
  if p = 0#64 then (true, s)
  else if !globalAt p 8 then (false, s)
  else match s.ctxCheck headDie ctx p.toNat 8 .store with
    | (none, s1) => (true, s1)
    | (some _, s1) => (false, s1)

/-- FRAME. -/
def execFrame (queue : Nat) (s : State) : Out :=
  s.fromQueue queue 3 "FRAME_INVALID" fun c p s =>
    let anchor := natAt p 16 4
    let arg := wordAt p 24
    let rec_ := wordAt p 32
    match s.liveStream c (wordAt p 8) with
    | none => some (s.complete queue "STREAM_INVALID" [])
    | some t =>
      if s.snapBusy t then none
      else
        let a := s.argFits c arg
        if !a.1 then some (a.2.complete queue "FRAME_INVALID" [])
        else if anchor < t.c then
          some (((a.2.report c (recStream cLATE_FRAME (wordAt p 8).toNat anchor t.c t.version s.time)).send
            (.event "FRAME_LATE" t.queue "OK" [t.handle, anchor, t.c])).complete queue "FRAME_LATE" [])
        else if t.g < anchor then some (a.2.complete queue "FRAME_INVALID" [])
        else
          let s1 := a.2.acceptFrame t anchor
          let s2 := if arg = 0#64 then s1 else (s1.ctxWriteLogged headDie c arg.toNat (bytesOf 4 anchor ++ bytesOf 4 (t.frame anchor).version)).2
          some (if rec_ = 0#64 then s2.complete queue "OK" [] else s2.admitFor queue c rec_)

/-- PLAYBACK_REPORT. -/
def execPlaybackReport (queue : Nat) (s : State) : Out :=
  s.fromQueue queue 4 "PLAYBACK_INVALID" fun c p s => some (match s.liveStream c (wordAt p 8) with
    | none => s.complete queue "STREAM_INVALID" []
    | some t =>
      let n := natAt p 16 4
      if t.tpend || decide (t.g < t.p + n) then s.complete queue "PLAYBACK_INVALID" []
      else (s.setStream { t with p := t.p + n }).complete queue "OK" [])

/-- STREAM_CLOSE. -/
def execStreamClose (queue : Nat) (s : State) : Out :=
  s.fromQueue queue 5 "STREAM_INVALID" fun c p s => some (match s.liveStream c (wordAt p 8) with
    | none => s.complete queue "STREAM_INVALID" []
    | some t => (s.closeStream t 0).complete queue "OK" [])

/-! ## Batches (19 R311, R312) -/

/-- The batch a descriptor gives, or none where a field is outside its limits. -/
def batchOf (ctx queue : Nat) (desc : Word) (now : Nat) (b : List Byte) : Option Batch :=
  let x : Batch := { ctx := ctx, desc := desc, record := wordAt b 0, list := wordAt b 8, members := wordAt b 16, nmem := natAt b 24 2,
                     nmax := natAt b 26 2, period := natAt b 28 4, queue := queue, due := now + natAt b 28 4 * 1000 }
  if natAt b 40 88 = 0 ∧ 1 ≤ x.nmem ∧ x.nmem ≤ 4096 ∧ 1 ≤ x.nmax ∧ x.nmax ≤ 1024 ∧ 1 ≤ x.period ∧ x.period ≤ 10000
      ∧ (globalAt x.record 1 && globalAt x.list 1 && globalAt x.members 1) = true then some x else none

/-- BATCH_OPEN. -/
def execBatchOpen (queue : Nat) (s : State) : Out :=
  s.fromQueue queue 6 "BATCH_INVALID" fun c p s =>
    let bad := fun (s : State) => some (s.complete queue "BATCH_INVALID" [])
    if 64 ≤ s.head.batches.length then some (s.complete queue "BATCH_FULL" [])
    else match s.headRead c (wordAt p 8) 128 128 with
      | (.error _, s1) => bad s1
      | (.ok b, s1) => match batchOf c queue (wordAt p 8) s1.time b with
        | none => bad s1
        | some x => match s1.headRead c x.record 256 256 with
          | (.error _, s2) => bad s2
          | (.ok r, s2) =>
            if natAt r 8 1 = 1 ∧ natAt r 40 4 = 1 then
              some (({ s2 with head := { s2.head with batches := s2.head.batches ++ [x] } }).complete queue "OK" [])
            else bad s2

/-- BATCH_CLOSE: the open batch of the context with that descriptor. -/
def execBatchClose (queue : Nat) (s : State) : Out :=
  s.fromQueue queue 7 "BATCH_INVALID" fun c p s =>
    match s.head.batches.findIdx? fun b => decide (b.ctx = c) && b.desc == wordAt p 8 with
    | none => some (s.complete queue "BATCH_INVALID" [])
    | some i => some (({ s with head := { s.head with batches := s.head.batches.eraseIdx i } }).complete queue "OK" [])

/-- Write for the Headgate, undo-logged like any other write for the context (24 R389); a fault is reported. -/
def State.headWrite (s : State) (ctx va : Nat) (bs : List Byte) : State :=
  match s.ctxWriteLogged headDie ctx va bs with
  | (none, s1) => s1
  | (some c, s1) => if c = cUNDO_OVERFLOW then s1 else s1.reportMem ctx none c va bs.length

/-- A member is captured when its stream can take a decode step. -/
def State.capture (s : State) (b : Batch) (i n : Nat) : Nat × State :=
  match s.ctxReadNat headDie b.ctx (b.members.toNat + 8 * i) 8 with
  | (.error c, s1) => (n, s1.reportMem b.ctx none c (b.members.toNat + 8 * i) 8)
  | (.ok v, s1) =>
    let p := BitVec.ofNat 64 v
    match s1.liveStream b.ctx p with
    | none => (n, s1)
    | some t =>
      if n < b.nmax ∧ t.tpend = false ∧ t.g < min (16 * t.nblk) (2 ^ 31 - 1) then
        (n + 1, s1.headWrite b.ctx (b.list.toNat + 16 * n) (w8 p ++ bytesOf 4 t.version ++ bytesOf 4 t.g))
      else (n, s1)

/-- One tick of a batch (R312). -/
def State.tickBatch (s : State) (b : Batch) : Batch × State :=
  let d := b.desc.toNat
  if (s.sweep? b.last).isSome then
    match s.ctxReadNat headDie b.ctx (d + 36) 4 with
    | (.ok v, s1) => (b, s1.headWrite b.ctx (d + 36) (bytesOf 4 (min (v + 1) (2 ^ 32 - 1))))
    | (.error c, s1) => (b, s1.reportMem b.ctx none c (d + 36) 4)
  else match s.ctxReadNat headDie b.ctx (d + 32) 4 with
    | (.error c, s1) => (b, s1.reportMem b.ctx none c (d + 32) 4)
    | (.ok rot, s1) =>
      let r := (List.range b.nmem).foldl (fun (a : Nat × State) j => a.2.capture b ((rot + j) % b.nmem) a.1) (0, s1)
      let s2 := r.2.headWrite b.ctx (d + 32) (bytesOf 4 ((rot + 1) % b.nmem))
      if r.1 = 0 then (b, s2)
      else match (s2.headWrite b.ctx (b.record.toNat + 16) (bytesOf 4 r.1)).admitSweep none b.ctx b.record with
        | (.ok id, s3) => ({ b with last := id }, s3)
        | (.error args, s3) => (b, s3.complete b.queue "SWEEP_INVALID" args)

/-- BATCH_TICK of the open batch at an index, once its period has passed. -/
def execBatchTick (index : Nat) (s : State) : Out :=
  match s.head.batches[index]? with
  | none => .next s
  | some b =>
    if s.time < b.due then .next s
    else
      let r := s.tickBatch b
      .next { r.2 with head := { r.2.head with batches := r.2.head.batches.set index { r.1 with due := b.due + b.period * 1000 } } }

/-! ## Kill, save, restore (24 R383, R384, R388) -/

/-- KILL_CONTEXT; its completion comes with the kill. -/
def execKillContext (queue : Nat) (s : State) : Out :=
  s.fromQueue queue 8 "FAULT" fun c _ s =>
    if (s.ctx? c).any (·.killDue) then none else some (s.fatalKill c none cHOST_KILL { packed := cHOST_KILL } (some queue))

/-- A running unit stands at a command boundary, a spinning wait included. -/
def Core.atBoundary (u : Core) : Bool := u.unit.packets == 0 && u.stores.isEmpty && !u.faultDue && match u.stall with
  | .none => true
  | .resource => true
  | .full => true
  | .spin _ => true
  | _ => false

/-- Save one unit of a context: its object's pointer, or a report (R387). -/
def State.saveOne (s : State) (rank : Nat) : List Word × State :=
  match s.saveUnit rank with
  | (.ok o, s1) => ([o.ptr], s1)
  | (.error (c, a), s1) =>
    let u := s1.unitAt rank
    ([], s1.reportMem u.unit.ctx (some (rank, u.ctl.tlevel.toNat)) c a 0)

/-- SAVE_CONTEXT: once every running unit of the context stands at a boundary, all are saved and left parked. -/
def execSaveContext (queue : Nat) (s : State) : Out :=
  s.fromQueue queue 9 "FAULT" fun c _ s =>
    let ranks := (s.units.filter fun u => u.2.unit.running && decide (u.2.unit.ctx = c)).map (·.1)
    let s1 := ranks.foldl (fun s r => ((s.undoLate r).drain r allClasses).settleEngines r) s
    if !(ranks.all fun r => (s1.unitAt r).atBoundary && s1.settledEngines r) then none
    else
      let r := ranks.foldl (fun (a : List Word × State) r =>
        let x := a.2.saveOne r
        (a.1 ++ x.1, x.2)) ([], s1.modCtx c fun x => { x with saved := true })
      some ((r.2.send (.event "SAVED" queue "OK" (c :: r.1.map (·.toNat)))).complete queue "OK" [])

/-- Objects of a restore list: a count of 8 bytes, then pointers of 8 bytes each (log 24). -/
def State.objectList (s : State) (ctx : Nat) (p : Word) : Except Nat (List Word) × State :=
  match s.headRead ctx p 8 8 with
  | (.error c, s1) => (.error c, s1)
  | (.ok b, s1) =>
    let n := natOf b
    if 65536 < n then (.error cOPERAND, s1)
    else match s1.headRead ctx (p + 8#64) 8 (8 * n) with
      | (.error c, s2) => (.error c, s2)
      | (.ok l, s2) => (.ok ((List.range n).map fun i => wordAt l (8 * i)), s2)

/-- The record of a parked object made ready on a die. -/
def State.readyRec (s : State) (ctx die : Nat) (p : Word) : Option ObjRec × State :=
  match s.cstate headDie ctx p with
  | (.error _, s1) => (none, s1)
  | (.ok k, s1) =>
    if k.state = sPARKED ∧ classFits die k.cls = true then
      (some { ctx := ctx, ptr := p, version := k.version, running := false, cls := k.cls, prio := k.prio, hdie := die,
              boundTo := (s1.parkedInfo ctx p).bind (·.bound) }, s1)
    else (none, s1)

/-- RESTORE_CONTEXT: every object of the list becomes ready on the named die, and the walkers resume. An object that is not
parked, or whose class does not run there, refuses the packet. -/
def execRestoreContext (queue : Nat) (s : State) : Out :=
  s.fromQueue queue 10 "FAULT" fun c p s =>
    let die := natAt p 16 4
    match s.objectList c (wordAt p 8) with
    | (.error x, s1) => some (s1.complete queue "FAULT" [x])
    | (.ok l, s1) =>
      let recs := l.map fun p => (s1.readyRec c die p).1
      if !isDie die || !s1.dieAllowed c die || recs.any Option.isNone then some (s1.complete queue "FAULT" [])
      else some (((recs.filterMap id).foldl (fun s o => s.enqueueObj o) (s1.modCtx c fun x => { x with saved := false })).complete queue "OK" [])

/-! ## Snapshots (17 R295) -/

/-- SNAPSHOT_COPY_DONE of the copy at an index: the slot holds the state, the record names it, and the SSNAP completes with its
version as it is now. The copy writes as the sluice of the stream's die, channel 0 (DESIGN CHOICE, log 144: R295 gives it no
channel). -/
def execSnapshotCopyDone (index : Nat) (s : State) : Out :=
  match s.head.snaps[index]? with
  | none => .next s
  | some x =>
    let s1 : State := { s with head := { s.head with snaps := s.head.snaps.eraseIdx index } }
    let s2 := match s1.stream? x.ctx x.handle with
      | none => s1
      | some t =>
        if t.version ≠ x.version then s1
        else
          let at_ := t.snapbase.toNat + x.slot * t.rsize
          let w := s1.ctxWriteBy { cls := 2, ident := t.ddie, ctx := none } t.ddie x.ctx at_ x.bytes
          let s2 := match w.1 with
            | none => w.2
            | some c => w.2.reportMem x.ctx none c at_ t.rsize
          s2.setStream { t with snappos := t.snappos.set x.slot x.pos, snaplast := x.pos }
    let after : Stall := match s2.stream? x.ctx x.handle with
      | some t => .took (withVersion t x.pos)
      | none => .control true
    .next (s2.modUnit x.rank fun u =>
      if u.unit.running && decide (u.unit.ctx = x.ctx) && u.stall == .control false then { u with stall := after } else u)

end Sys2Proof.Machine
end

