-- ==== Sys2Proof/Machine/Sluice.lean ====
section
/-!
DEFINITION. The sluices (21 R336–R345): sending and converting blocks, landing and committing them, acknowledgements,
cancels and aborts, retransmission, stop and go. A sender's channels are named by their number; a sender or receiver is
package × 64 + die, a receiver's side of a channel is named by sender × 16 + channel, and stop and go by receiver × 16 +
channel.
-/
namespace Sys2Proof.Machine

/-! ## Writes and records of a sluice -/

/-- A sluice engine as a writer for a context (05 Table 33, R345): the sender's package decides the class. -/
def State.slWriter (s : State) (src ch ctx : Nat) : Writer :=
  if src / 64 = s.fab.pkg then { cls := 2, ident := src % 64 + ch * 256, ctx := some ctx }
  else { cls := 3, ident := src / 64 * 4096 + src % 64 * 64 + ch, ctx := some ctx }

/-- A sluice record for the issuing context (24 Table 128); an uncorrectable fault while its interval is open rolls it back
instead (24 R393). -/
def State.slReport (s : State) (x : SlDesc) (cause reason addr : Nat) : State :=
  if (cause == cUNCORR_READ || cause == cUNCORR_WRITE) && s.intervalOpen x.ctx then s.reportMem x.ctx none cause addr 0
  else s.report x.ctx (recSluice cause x.handle.toNat x.xid reason addr s.time)

/-- An uncorrectable read that receiver-side work of a transfer meets while the context's interval is open rolls it back (24
R393); the abort that stops the work is as without one. -/
def State.slFault (s : State) (ctx cause va : Nat) : State :=
  if cause = cUNCORR_READ ∧ s.intervalOpen ctx = true then s.reportMem ctx none cause va 4 else s

/-- Blocks of a transfer. -/
def SlDesc.blocks (x : SlDesc) : Nat := x.npos / 16

/-- Bytes of a block at its source. -/
def SlDesc.source (x : SlDesc) : Nat := 32 * x.nh * x.hd

/-! ## The sender -/

/-- Bytes of staged copies on a die. -/
def Die.staged (d : Die) : Nat := d.chans.foldl (fun n c => c.2.unacked.foldl (fun n i => n + i.bytes.length) n) 0

/-- A row of a source block: position r, head h. -/
def SlDesc.row (x : SlDesc) (b : List Byte) (h r : Nat) : List Byte := (b.drop (2 * (r * x.nh + h) * x.hd)).take (2 * x.hd)

/-- Heads and positions in the landed order. -/
def SlDesc.rows (x : SlDesc) (b : List Byte) : List (List Byte) :=
  ((List.range x.nh).map fun h => (List.range 16).map fun r => x.row b h r).flatten

/-- Runs of 32 elements of a row, as values. -/
def runsOf (row : List Byte) : List (List Val) :=
  (List.range (row.length / 64)).map fun k => (List.range 32).map fun d => ofBF16 (natAt row (64 * k + 2 * d) 2)

/-- Convert a source block into the landed layout (17 R300, 21 R336). -/
def SlDesc.convert (x : SlDesc) (b : List Byte) : List Byte :=
  if x.narrow then
    let runs := ((x.rows b).map runsOf).flatten
    let scales := runs.map (qscale fF8A)
    ((List.zipWith (fun run sc => run.map fun v => BitVec.ofNat 8 (qelem fF8A sc v)) runs scales).flatten) ++ scales.map (BitVec.ofNat 8)
  else (x.rows b).flatten

/-- The first address of a range that a load cannot reach. -/
def State.failingVa (s : State) (die ctx va n : Nat) : Nat :=
  (((vaPieces (n + 1) va n).find? fun p => match (s.ctxRead die ctx p.1 p.2).1 with
    | .error _ => true
    | .ok _ => false).map (·.1)).getD va

/-- Send the next item of a channel: a waiting cancel, else the next block of its first unstopped transfer (R337). -/
def State.blockSend (s : State) (die key : Nat) : State :=
  let c := s.chan die key
  if 4096 ≤ c.unacked.length then s
  else match c.pending with
    | i :: rest => (s.setChan die key { c with pending := rest }).slPut die i
    | [] =>
      if !c.stopped.isEmpty then s
      else match c.transfers.find? fun t => !t.stop && decide (t.next < t.desc.blocks) with
        | none => s
        | some t =>
          let x := t.desc
          let va := x.src.toNat + t.next * x.source
          if 2 ^ 22 < (s.die die).staged + x.landed then s
          else match s.ctxRead die x.ctx va x.source with
            | (.error e, s1) =>
              (s1.slReport x e (if e = cUNCORR_READ then 4 else 5) (s1.failingVa die x.ctx va x.source)).slCancel die t none
            | (.ok b, s1) =>
              let s2 := s1.modChan die key fun c => { c with transfers := c.transfers.map fun y => if y.desc = x then { y with next := y.next + 1 } else y }
              s2.slPut die { q := 0, cancel := false, desc := x, block := t.next, bytes := x.convert b }

/-- BLOCK_SEND. -/
def execBlockSend (die channel : Nat) (s : State) : Out := .next (s.blockSend die channel)

/-- Write RESULT: blocks committed and blocks freed. A fault is reported and ends nothing (17 R300). -/
def State.slResult (s : State) (die : Nat) (x : SlDesc) (committed freed : Nat) : State :=
  match s.ctxWriteFor (s.slWriter (s.slKey die) (x.handle.toNat % 16) x.ctx) die x.ctx (x.ptr.toNat + 40) (bytesOf 2 committed ++ bytesOf 2 freed) with
  | (none, s1) => s1
  | (some (c, va), s1) => if c = cUNDO_OVERFLOW then s1 else s1.slReport x c 8 va

/-- A transfer is settled: its staged copies are freed and its counter number completes. -/
def State.slSettle (s : State) (die : Nat) (x : SlDesc) : State :=
  (s.modChan die (chanKey x.handle) fun c => { c with
    transfers := c.transfers.filter fun t => t.desc ≠ x
    unacked := c.unacked.filter fun i => i.cancel || decide (i.desc ≠ x) }).slComplete die (x.handle.toNat % 16) x.ctx x.num

/-! ## Messages -/

def SlBody.isAck : SlBody → Bool
  | .item _ => false
  | _ => true

/-- The way of a message between the dies of two sluices is whole in this package: no link of it is dead (21 R334). Between
packages it passes through the port of its plane (21 R349). -/
def State.slWay (s : State) (from_ to_ plane : Nat) : Bool :=
  let here := fun (x : Nat) => decide (x / 64 = s.fab.pkg)
  if from_ / 64 = to_ / 64 then !here from_ || s.reaches (from_ % 64) (to_ % 64)
  else (!here from_ || s.reaches (from_ % 64) (32 + plane)) && (!here to_ || s.reaches (32 + plane) (to_ % 64))

/-- A message can arrive: items go from the sender to the receiver, and their answers back. -/
def State.slArrives (s : State) (m : SlMsg) : Bool :=
  if m.body.isAck then s.slWay m.receiver m.sender m.plane else s.slWay m.sender m.receiver m.plane

/-- Acknowledgements of a channel arrive in the order they left (R342). -/
def ackWaits (l : List SlMsg) (m : SlMsg) : Bool :=
  l.any fun x => x.body.isAck && decide (x.sender = m.sender) && decide (x.receiver = m.receiver) && decide (x.chan = m.chan)

def State.dropMsg (s : State) (index : Nat) : State := { s with fab := { s.fab with msgs := s.fab.msgs.eraseIdx index } }

/-- COMMITTED_ACK_ARRIVAL. -/
def execCommittedAckArrival (index : Nat) (s : State) : Out :=
  match s.fab.msgs[index]? with
  | none => .next s
  | some m => match m.body with
    | .committed q =>
      if m.sender / 64 ≠ s.fab.pkg ∨ ackWaits (s.fab.msgs.take index) m = true ∨ s.slArrives m = false then .next s
      else
        let die := m.sender % 64
        let key := m.chan
        let s1 := s.dropMsg index
        match (s1.chan die key).unacked.find? fun i => decide (i.q = q) && !i.cancel with
        | none => .next s1
        | some i =>
          let s2 := s1.modChan die key fun c => { c with
            unacked := c.unacked.filter fun y => y.q ≠ q
            transfers := c.transfers.map fun t => if t.desc = i.desc then { t with committed := t.committed + 1 } else t }
          match (s2.chan die key).transfers.find? fun t => t.desc = i.desc with
          | none => .next s2
          | some t =>
            let s3 := s2.slResult die i.desc t.committed 0
            .next (if t.committed = i.desc.blocks then s3.slSettle die i.desc else s3)
    | _ => .next s

/-- CANCEL_ACK_ARRIVAL: of a cancel or of an abort. -/
def execCancelAckArrival (index : Nat) (s : State) : Out :=
  match s.fab.msgs[index]? with
  | none => .next s
  | some m => match m.body with
    | .ack q count reason =>
      if m.sender / 64 ≠ s.fab.pkg ∨ ackWaits (s.fab.msgs.take index) m = true ∨ s.slArrives m = false then .next s
      else
        let die := m.sender % 64
        let key := m.chan
        let s1 := s.dropMsg index
        match (s1.chan die key).unacked.find? fun i => i.q = q with
        | none => .next s1
        | some i =>
          let x := i.desc
          let s2 := s1.modChan die key fun c => { c with unacked := c.unacked.filter fun y => y.q ≠ q }
          let s3 := match i.num with
            | some n => s2.slComplete die m.chan x.ctx n
            | none => s2
          match (s3.chan die key).transfers.find? fun t => t.desc = x with
          | none => .next s3
          | some t =>
            let s4 := (s3.slResult die x t.committed count).slSettle die x
            .next (if reason = 2 ∨ reason = 6 ∨ reason = 7 then s4.slReport x cSLUICE_ABORT reason 0 else s4)
    | _ => .next s

/-- RETRANSMIT_TIMEOUT of an unacknowledged item, whatever stop is in force; the 16th expiry of one is reported once for its
transfer (R341). -/
def execRetransmitTimeout (die channel seq : Nat) (s : State) : Out :=
  match (s.chan die channel).unacked.find? fun i => i.q = seq with
  | none => .next s
  | some i =>
    let c := s.chan die channel
    let tell := decide (15 ≤ i.expiries) && !(c.reported.contains i.desc.serial)
    let s1 := (s.setChan die channel { c with
      unacked := c.unacked.map fun y => if y.q = seq then { y with expiries := y.expiries + 1 } else y
      reported := if tell then i.desc.serial :: c.reported else c.reported }).slSend
      { sender := s.slKey die, receiver := slTarget i.desc.handle, chan := channel, body := .item i }
    .next (if tell then s1.slReport i.desc cSLUICE_STALLED 0 0 else s1)

/-! ## The receiver -/

def Die.recv (d : Die) (src ch : Nat) : SlRecv := (d.slRecv.find? fun r => decide (r.src = src) && decide (r.chan = ch)).getD { src := src, chan := ch }
def State.setRecv (s : State) (die : Nat) (r : SlRecv) : State :=
  s.modDie die fun d => { d with slRecv := r :: d.slRecv.filter fun x => !(decide (x.src = r.src) && decide (x.chan = r.chan)) }

/-- Bytes of blocks in a die's landing buffer. -/
def Die.landing (d : Die) : Nat := d.slRecv.foldl (fun n r => r.landed.foldl (fun n l => n + l.item.bytes.length) n) 0

/-- Blocks a channel has landed and not committed. -/
def SlRecv.waiting (r : SlRecv) : Nat := (r.landed.filter fun l => !l.item.cancel).length

def SlRecv.xfer (r : SlRecv) (x : SlDesc) : SlRecvX :=
  (r.xfers.find? fun y => y.serial = x.serial).getD { serial := x.serial }
def SlRecv.setXfer (r : SlRecv) (y : SlRecvX) : SlRecv :=
  { r with xfers := y :: r.xfers.filter fun z => z.serial ≠ y.serial }

/-- The outcome of an item; those of the last 4096 are kept. -/
def SlRecv.setOut (r : SlRecv) (k : Nat) (o : SlOut) : SlRecv := { r with outcomes := (alSet k o r.outcomes).filter fun x => r.next ≤ x.1 + 4096 }

/-- An item has been dealt with. -/
def SlRecv.dropLanded (r : SlRecv) (q : Nat) : SlRecv := { r with landed := r.landed.filter fun l => l.item.q ≠ q }

/-- Answer the sender of a channel. -/
def State.slAnswer (s : State) (die : Nat) (r : SlRecv) (b : SlBody) : State :=
  s.slSend { sender := r.src, receiver := s.slKey die, chan := r.chan, body := b }

/-- BLOCK_ARRIVAL of an item at a receiver of this package (R340). -/
def execBlockArrival (index : Nat) (s : State) : Out :=
  match s.fab.msgs[index]? with
  | none => .next s
  | some m => match m.body with
    | .item i =>
      if m.receiver / 64 ≠ s.fab.pkg ∨ s.slArrives m = false then .next s
      else
        let die := m.receiver % 64
        let s1 := s.dropMsg index
        let r := (s1.die die).recv m.sender m.chan
        if r.next < i.k then .next s1
        else if i.k + 4096 < r.next then .next s1
        else if i.k < r.next then match alGet i.k r.outcomes with
          | some .committed => .next (s1.slAnswer die r (.committed i.q))
          | some (.acked c n) => .next (s1.slAnswer die r (.ack i.q c n))
          | _ => .next s1
        else
          let r1 := { r with next := r.next + 1 }
          if i.cancel then .next (s1.setRecv die { r1 with landed := r.landed ++ [{ item := i }] })
          else if (r.xfer i.desc).closed then .next (s1.setRecv die r1)
          else if 2 ^ 20 < (s1.die die).landing + i.bytes.length then .next s1
          else .next (s1.setRecv die { r1 with landed := r.landed ++ [{ item := i }] })
    | _ => .next s

/-- Free one committed block (R342). -/
def State.slFree (s : State) (ctx handle : Nat) (x : SlDone) : State :=
  if !x.taken then s
  else
    let s1 := match s.stream? ctx handle with
      | none => s
      | some t => match s.readEntryAt t x.entry with
        | (.ok e, s1) => if e = x.page then match s1.writeEntryAt t x.entry emptyEntry with
            | (none, s2) => s2.lowerHiblk t x.entry
            | (some _, s2) => s2
          else s1
        | (.error _, s1) => s1
    s1.pageFromEntry ctx x.page handle x.entry

def dstHandle (x : SlDesc) : Nat := offOf x.dst / 4096

/-- A cancel or abort of an open transfer at its receiver: its committed blocks are freed in decreasing index, it closes,
and the count is acknowledged under a sequence number (R342, R343). -/
def State.slClose (s : State) (die : Nat) (r : SlRecv) (i : SlItem) (reason : Nat) : State :=
  let y := r.xfer i.desc
  if y.closed then (s.setRecv die ((r.dropLanded i.q).setOut i.k (.acked 0 reason))).slAnswer die r (.ack i.q 0 reason)
  else
    let s1 := y.blocks.reverse.foldl (fun s b => s.slFree i.desc.ctx (dstHandle i.desc) b) s
    let n := y.blocks.length
    let r1 := y.blocks.foldl (fun r b => r.setOut b.k .none) ((r.dropLanded i.q).setXfer { y with blocks := [], closed := true })
    (s1.setRecv die (r1.setOut i.k (.acked n reason))).slAnswer die r (.ack i.q n reason)

/-- The stream a block is for, or the reason it is aborted. -/
def State.slDest (s : State) (x : SlDesc) : Except Nat Stream :=
  match s.ctx? x.ctx with
  | none => .error 6
  | some c =>
    if c.killed then .error 3
    else match s.liveStream x.ctx x.dst with
      | none => .error 3
      | some t => if t.version = x.ver then .ok t else .error 1

/-- Block-table entry of a block. -/
def SlItem.entry (i : SlItem) : Nat := i.desc.pos0 / 16 + i.block

/-- An earlier block of an item's transfer has landed and is not yet committed or discarded. -/
def SlRecv.behind (r : SlRecv) (i : SlItem) : Bool :=
  r.landed.any fun y => !y.item.cancel && decide (y.item.k < i.k) && decide (y.item.desc.serial = i.desc.serial)

/-- An abort, once every earlier block of its transfer has been committed or discarded (R343). -/
def State.slAbort (s : State) (die : Nat) (r : SlRecv) (i : SlItem) (reason : Nat) : State :=
  if r.behind i then s else s.slClose die r i reason

/-- BLOCK_LANDING_CHECK of the first unchecked block of a channel (R339). A block of a transfer closed meanwhile is
discarded. -/
def execBlockLandingCheck (die channel : Nat) (s : State) : Out :=
  let r := (s.die die).recv (channel / 16) (channel % 16)
  match r.landed.find? fun l => !l.item.cancel && l.page.isNone with
  | none => .next s
  | some l =>
    let i := l.item
    if (r.xfer i.desc).closed then .next (s.setRecv die (r.dropLanded i.q))
    else match s.slDest i.desc with
      | .error n => .next (s.slAbort die r i n)
      | .ok t =>
        if t.nblk ≤ i.entry then .next (s.slAbort die r i 7)
        else
          let mark := fun (e : Nat) (taken : Bool) (s : State) =>
            s.setRecv die { r with landed := r.landed.map fun y => if y.item.q = i.q then { y with page := some (e, taken) } else y }
          match s.readEntryAt t i.entry with
          | (.error c, s1) => .next ((s1.slFault t.ctx c (t.entryVa i.entry)).slAbort die r i 6)
          | (.ok e, s1) =>
            if e ≠ emptyEntry then .next (mark e false s1)
            else match s1.takePage t.ctx t.ddie with
              | (none, s2) => .next (s2.slAbort die r i 2)
              | (some e, s2) => .next (mark e true (s2.placePage t.ctx e .landing))

/-- Write a landed block into a page: false on a translation or permission fault. -/
def State.slWriteBlock (s : State) (die : Nat) (r : SlRecv) (t : Stream) (i : SlItem) (page : Nat) : Bool × State :=
  match s.ctxWriteFor (s.slWriter r.src r.chan t.ctx) die t.ctx (pageVa t.kvbase page + i.desc.loff) i.bytes with
  | (none, s1) => (true, s1)
  | (some (c, va), s1) =>
    if c = cUNDO_OVERFLOW then (true, s1)
    else if c = cUNCORR_WRITE then (true, s1.reportMem t.ctx none c va i.bytes.length)
    else (false, s1.slFault t.ctx c va)

/-- A block is committed. -/
def State.slDone (s : State) (die : Nat) (r : SlRecv) (i : SlItem) (page : Nat) (taken : Bool) : State :=
  let y := r.xfer i.desc
  let y1 := { y with blocks := y.blocks ++ [{ k := i.k, block := i.block, page := page, taken := taken, entry := i.entry }],
                     closed := decide (y.blocks.length + 1 = i.desc.blocks) }
  ((s.setRecv die (((r.dropLanded i.q).setXfer y1).setOut i.k .committed)).slAnswer die r (.committed i.q)).dieEvent die 17 1

/-- The commit of a block whose bytes are written: the version again, then the entry (R339). -/
def State.slCommit (s : State) (die : Nat) (r : SlRecv) (i : SlItem) (e : Nat) (taken : Bool) : State :=
  let back := fun (s : State) => if taken then s.pageHome i.desc.ctx e else s
  match s.slDest i.desc with
  | .error n => (back s).slClose die r i n
  | .ok t =>
    if !taken then s.slDone die r i e false
    else match s.readEntryAt t i.entry with
      | (.error c, s1) => (back (s1.slFault t.ctx c (t.entryVa i.entry))).slClose die r i 6
      | (.ok v, s1) =>
        if v = emptyEntry then match s1.writeEntryAt t i.entry e with
          | (some c, s2) => (back (s2.slFault t.ctx c (t.entryVa i.entry))).slClose die r i 6
          | (none, s2) => ((s2.placePage t.ctx e (.entry t.handle i.entry)).setStream { t with hiblk := max t.hiblk (i.entry + 1) }).slDone die r i e true
        else
          let w := (back s1).slWriteBlock die r t i v
          if w.1 then w.2.slDone die r i v false else w.2.slClose die r i 6

/-- BLOCK_COMMIT of the first checked block of a channel: its bytes are written at their homes, then it commits. -/
def execBlockCommit (die channel : Nat) (s : State) : Out :=
  let r := (s.die die).recv (channel / 16) (channel % 16)
  match r.landed.find? fun l => !l.item.cancel && l.page.isSome with
  | none => .next s
  | some l => match l.page with
    | none => .next s
    | some (e, taken) =>
      let i := l.item
      let back := fun (s : State) => if taken then s.pageHome i.desc.ctx e else s
      if (r.xfer i.desc).closed then .next ((back s).setRecv die (r.dropLanded i.q))
      else match s.liveStream i.desc.ctx i.desc.dst with
        | none => .next ((back s).slClose die r i 3)
        | some t =>
          let w := s.slWriteBlock die r t i e
          .next (if w.1 then w.2.slCommit die r i e taken else (back w.2).slClose die r i 6)

/-- CANCEL_PROCESS of the first cancel of a channel whose transfer has no block landed before it (R342). -/
def execCancelProcess (die channel : Nat) (s : State) : Out :=
  let r := (s.die die).recv (channel / 16) (channel % 16)
  match r.landed.find? fun l => l.item.cancel && !(r.landed.any fun y => decide (y.item.q < l.item.q) && decide (y.item.desc.serial = l.item.desc.serial)) with
  | none => .next s
  | some l => .next (s.slClose die r l.item 0)

/-! ## Flow control, lost packages, contexts set up anew -/

/-- Transfers of a context number that is set up again are the old context's: no context has them any more. -/
def State.orphan (s : State) (ctx : Nat) : State :=
  let d := fun (x : SlDesc) => if x.ctx = ctx then { x with ctx := 0 } else x
  let i := fun (i : SlItem) => { i with desc := d i.desc }
  let s1 := s.mapDies fun die => { die with
    chans := die.chans.map fun c => (c.1, { c.2 with
      transfers := c.2.transfers.map fun t => { t with desc := d t.desc }, unacked := c.2.unacked.map i, pending := c.2.pending.map i })
    slRecv := die.slRecv.map fun r => { r with landed := r.landed.map fun l => { l with item := i l.item } } }
  { s1 with fab := { s1.fab with msgs := s1.fab.msgs.map fun m => match m.body with
    | .item x => { m with body := .item (i x) }
    | _ => m } }

/-- Receiver of a sender's channel, where it stands in this package, and its landing buffer. -/
def State.peer (s : State) (die channel : Nat) : Option (SlRecv × Nat) :=
  let t := channel / 16
  if t / 64 = s.fab.pkg then some ((s.die (t % 64)).recv (s.slKey die) (channel % 16), (s.die (t % 64)).landing) else none

/-- A signal of a receiver reaches a sender's die of this package. -/
def State.signalArrives (s : State) (die channel : Nat) : Bool :=
  let to_ := channel / 16
  let m : SlMsg := { sender := s.slKey die, receiver := to_, chan := channel % 16, body := .committed 0 }
  match s.slPlane m with
  | some p => s.slWay to_ (s.slKey die) p
  | none => false

/-- STOP: when a receiver of this package holds 768 KiB, or 16 blocks of the channel; another package's receiver decides
for itself (R344). -/
def execSluiceStop (die channel : Nat) (s : State) : Out :=
  .next (if s.signalArrives die channel && (match s.peer die channel with
    | some (r, n) => decide (768 * 1024 ≤ n) || decide (16 ≤ r.waiting)
    | none => true) then s.modChan die (channel % 16) fun c => { c with stopped := if c.stopped.contains (channel / 16) then c.stopped else channel / 16 :: c.stopped } else s)

/-- GO: under 512 KiB and under 8 blocks. -/
def execSluiceGo (die channel : Nat) (s : State) : Out :=
  .next (if s.signalArrives die channel && (match s.peer die channel with
    | some (r, n) => decide (n < 512 * 1024) && decide (r.waiting < 8)
    | none => true) then s.modChan die (channel % 16) fun c => { c with stopped := c.stopped.filter fun r => r ≠ channel / 16 } else s)

/-- What a channel has for a lost package: its transfers end unanswered and its numbers complete (R341). -/
def State.loseChan (s : State) (die key pkg : Nat) : State :=
  let c := s.chan die key
  let lost := fun (x : SlDesc) => decide (slTarget x.handle / 64 = pkg)
  let s1 := (c.transfers.filter fun t => lost t.desc).foldl (fun s t => s.slSettle die t.desc) s
  let s2 := ((c.unacked ++ c.pending).filter fun i => lost i.desc).foldl (fun s i => match i.num with
    | some n => s.slComplete die key i.desc.ctx n
    | none => s) s1
  s2.modChan die key fun c => { c with
    transfers := c.transfers.filter fun t => !lost t.desc, unacked := c.unacked.filter fun i => !lost i.desc
    pending := c.pending.filter fun i => !lost i.desc, stopped := c.stopped.filter fun r => r / 64 ≠ pkg }

/-- PACKAGE_LOST. -/
def execPackageLost (package : Nat) (s : State) : Out :=
  if package = s.fab.pkg ∨ package ∈ s.fab.lostPkgs then .next s
  else
    let s1 := s.dies.foldl (fun s d => d.2.chans.foldl (fun s c => s.loseChan d.1 c.1 package) s) s
    .next (({ s1 with fab := { s1.fab with
      lostPkgs := package :: s1.fab.lostPkgs
      msgs := s1.fab.msgs.filter fun m => !(decide (m.receiver / 64 = package) || decide (m.sender / 64 = package)) } }).send
      (.event "PACKAGE_LOST" 0 "OK" [package]))

end Sys2Proof.Machine
end

