-- ==== Sys2Proof/Machine/FabricEv.lean ====
section
/-!
DEFINITION. Events of the scale-up fabric and of the links of the package (21 R334, R347–R349).
-/
namespace Sys2Proof.Machine

/-- The new bytes of an atomic a request asks for, or none where it does not write (02 R58, R59). -/
def amoNew (op : FabricAmo) (n old operand compare : Nat) : Option Nat :=
  let x := BitVec.ofNat (8 * n) old
  let y := BitVec.ofNat (8 * n) operand
  match op with
  | .swap => some y.toNat
  | .add => some (x + y).toNat
  | .band => some (x &&& y).toNat
  | .bor => some (x ||| y).toNat
  | .bxor => some (x ^^^ y).toNat
  | .smin => some (if x.slt y then x else y).toNat
  | .smax => some (if x.slt y then y else x).toNat
  | .umin => some (if x.ult y then x else y).toNat
  | .umax => some (if x.ult y then y else x).toNat
  | .cas => if x = BitVec.ofNat (8 * n) compare then some y.toNat else none
  | .fadd => some (fadd32 (old % 2 ^ 32) (operand % 2 ^ 32))

/-- Context of a request. -/
def fabCtx : FabricOp → Nat
  | .load c _ _ _ _ => c
  | .store c _ _ _ _ _ _ => c
  | .atomic c _ _ _ _ _ _ _ _ => c

/-- Address of a request. -/
def fabPa : FabricOp → Nat
  | .load _ _ pa _ _ => pa
  | .store _ _ pa _ _ _ _ => pa
  | .atomic _ _ pa _ _ _ _ _ _ => pa

/-- A request of another package has met an uncorrectable codeword: it is refused, and its context is told by its own package;
but while the context's interval is open, it is rolled back (24 R393), with the PA for the address (DESIGN CHOICE, log 150:
the request carries no VA). -/
def State.fabFails (s : State) (ctx cause pa n : Nat) : List Byte × Bool × State :=
  ([], true, if s.intervalOpen ctx && cause != cUNDO_OVERFLOW then s.reportMem ctx none cause pa n else s)

/-- Key slot of a request. -/
def fabKey : FabricOp → Nat
  | .load _ key _ _ _ => key
  | .store _ key _ _ _ _ _ => key
  | .atomic _ key _ _ _ _ _ _ _ => key

/-- Perform a request of another package at its home: its answer, and whether it was refused. -/
def State.fabPerform (s : State) (source : Nat) (op : FabricOp) : List Byte × Bool × State :=
  let w := fun (c : Nat) => ({ cls := 3, ident := source, ctx := some c } : Writer)
  match op with
  | .load c key pa n pol => match s.readHome pa { key := key, pol := pol } (pol = 0) n with
    | (.ok bs, s1) => (bs, false, s1)
    | (.error _, s1) => s1.fabFails c cUNCORR_READ pa n
  | .store c key pa pol logged compress bytes =>
    match s.performWrite (w c) pa { key := key, pol := pol, logged := logged, compress := compress } (pol = 0) bytes with
    | (none, s1) => ([], false, s1)
    | (some x, s1) => s1.fabFails c x pa bytes.length
  | .atomic c key pa n logged compress f operand compare =>
    let attr : PageAttr := { key := key, logged := logged, compress := compress }
    match s.readHome pa attr true n with
    | (.error _, s1) => s1.fabFails c cUNCORR_READ pa n
    | (.ok old, s1) => match amoNew f n (natOf old) operand compare with
      | none => (old, false, s1)
      | some v => match s1.performWrite (w c) pa attr true (bytesOf n v) with
        | (none, s2) => (old, false, s2)
        | (some x, s2) => s2.fabFails c x pa n

/-- A request is refused: its home is not this port's, its package is outside the domain, its context is not set up here, or
its key slot is empty. -/
def State.fabRefuses (s : State) (source : Nat) (op : FabricOp) : Bool :=
  decide (pkgOf (fabPa op) ≠ s.fab.pkg) || (s.keyId (fabKey op)).isNone || !(s.fab.domain.contains (source / 4096)) || (match s.ctx? (fabCtx op) with
    | some c => c.killed
    | none => true)

/-- FABRIC_REQUEST_ARRIVAL at a port: performed once; a number seen before is answered from the response cache (R347). It waits
while its key slot is flushed (25 R403). -/
def execFabricRequestArrival (port source seq : Nat) (op : FabricOp) (s : State) : Out :=
  let key := source / 4096 * 32 + port
  if (s.fab.responses.any fun r => r.1 = key ∧ r.2.1 = seq) || s.keyBusy (fabKey op) then .next s
  else
    let r := if s.fabRefuses source op then ([], true, s) else s.fabPerform source op
    .next { r.2.2 with fab := { r.2.2.fab with responses := (key, seq, r.1, r.2.1) :: r.2.2.fab.responses } }

/-- FABRIC_REPLAY_TIMEOUT: the request is sent again under its number. A port is named as package × 32 + port. -/
def execFabricReplayTimeout (port seq : Nat) (s : State) : Out :=
  .next { s with fab := { s.fab with outstanding := s.fab.outstanding.map fun q =>
    if q.port = port ∧ q.seq = seq then { q with replays := q.replays + 1 } else q } }

/-- The request of a remote access has failed. -/
def Pend.fail (p : Pend) (id : Nat) : Pend := if p.sent = id then { p with failed := some cFABRIC } else p

/-- FABRIC_REQUEST_EXPIRY after 1 ms of replays every 50 µs (R348): a load, an atomic or a fetch faults with FABRIC_UNREACH in
its word, a copy stops; a store counts as refused and is reported (24 R381). -/
def execFabricRequestExpiry (port seq : Nat) (s : State) : Out :=
  match s.fab.outstanding.find? fun q => decide (q.port = port) && decide (q.seq = seq) && decide (19 ≤ q.replays) with
  | none => .next s
  | some q =>
    let s1 : State := { s with fab := { s.fab with outstanding := s.fab.outstanding.filter fun y => y.id ≠ q.id } }
    match q.use with
    | .store entry => match (s1.unitAt q.rank).stores.find? fun e => e.seq = entry with
      | none => .next s1
      | some e =>
        let s2 := s1.modUnit q.rank fun u => { u with stores := markPerformed u.stores entry }
        .next (s2.reportMem q.ctx (some (q.rank, (s2.unitAt q.rank).ctl.tlevel.toNat)) cFABRIC e.va.toNat e.bytes.length)
    | .load => .next (s1.modUnit q.rank fun u => { u with pend := u.pend.map (·.fail q.id), loads := u.loads.map fun l => { l with pend := l.pend.map (·.fail q.id) } })
    | _ => .next { s with fab := { s.fab with outstanding := s.fab.outstanding.map fun y => if y.id = q.id then { y with failed := true } else y } }

/-- PLANE_FAILURE: ports move their new requests to the next plane (R349). -/
def execPlaneFailure (plane : Nat) (s : State) : Out :=
  .next (if plane < 32 ∧ s.fab.failed.contains plane = false then { s with fab := { s.fab with failed := plane :: s.fab.failed } } else s)

/-- RETRAIN_FAILURE of the link between two dies, reported once (R334; 00 R3). -/
def execRetrainFailure (dieA dieB : Nat) (s : State) : Out :=
  let l := (min dieA dieB, max dieA dieB)
  .next (if !linked dieA dieB || s.fab.linksDown.contains l then s
    else { s with fab := { s.fab with linksDown := l :: s.fab.linksDown } }.send (.event "LINK_DOWN" 0 "OK" [l.1, l.2]))

end Sys2Proof.Machine
end

