-- ==== Sys2Proof/Machine/HostSide.lean ====
section
/-!
DEFINITION. The host's side of the part (25): messages of the Tiust links, contexts, keys, management registers, reset and
boot; and the events of containment that no word makes (24 R379, R384, R391).
-/
namespace Sys2Proof.Machine

/-! ## Containment events -/

/-- TRAP_RECORD_LAND: the oldest waiting record of a context. -/
def execTrapRecordLand (ctx : Nat) (s : State) : Out := .next (s.landRecord ctx)

/-- Causes of a kill (24 R383). -/
def killCauses : List Nat := [cTRAP_LEVEL, cUNDO_OVERFLOW, cHANDLER_KILL, cHOST_KILL, cDOUBLE_FATAL]

/-- CONTEXT_KILL by a fatal event that no unit of this package carries: what another package's unit of the context has met
(DESIGN CHOICE, log 139). -/
def execContextKill (ctx cause : Nat) (s : State) : Out :=
  .next (match s.ctx? ctx with
    | none => s
    | some c => if c.killed || !killCauses.contains cause then s else s.fatalKill ctx none cause { packed := cause })

/-- Causes of a rollback (24 R391). -/
def rollCauses : List Nat := [cTRAP_LEVEL, cSOFT_TRAP, cUNCORR_READ, cUNCORR_WRITE]

/-- ROLLBACK of a context whose interval is open: a trigger that another package's unit of the context has met (DESIGN CHOICE,
log 139). -/
def execRollback (ctx cause : Nat) (s : State) : Out :=
  .next (if s.intervalOpen ctx && rollCauses.contains cause then s.rollBack ctx none cause { packed := cause } else s)

/-! ## Messages and completions (R398) -/

/-- A port takes messages. -/
def State.portUp (s : State) (port : Nat) : Bool := decide (port < 2) && !s.host.portsDown.contains port

/-- The one completion of a request. -/
def State.answer (s : State) (port : Nat) (status : String) (cause : Nat := 0) (data : List Byte := []) : State :=
  s.send (.completion port status cause data)

/-- A message joins those that wait on its port. -/
def State.holdMsg (s : State) (port : Nat) (m : HostReq) : State :=
  { s with host := { s.host with waiting := s.host.waiting ++ [(port, m)] } }

/-- A message of a port is under way: its key slot is being flushed, its grant changes hands, or the context it drops has units
that have not yet come to a command boundary. -/
def State.portStuck (s : State) (port : Nat) : Bool :=
  s.host.keyWork.any (fun k => k.2.1 == port) || s.dies.any (fun d => d.2.handovers.any fun h => h.port == port)
    || s.ctxs.any fun c => c.2.drop == some port

/-- Messages that the part accepts before READY (R406). -/
def HostReq.early : HostReq → Bool
  | .mgmtrd _ _ => true
  | .memrd _ ctx _ _ => ctx == 0
  | .memwr _ ctx _ _ => ctx == 0
  | _ => false

/-- Try what a message does, which answers none while it must wait: whether it has happened. -/
def State.tryMsg (s : State) (f : State → Option State) : Bool × State := match f s with
  | none => (false, s)
  | some t => if t.held then (false, s.takeBack t) else (true, t.partDone)

/-- A message of a port with meaning f: the messages of a port take effect in arrival order (05 R103; log 91). Nothing happens on
a port without its link, nor before READY but for what the part then accepts (log 147). -/
def State.onPort (s : State) (port : Nat) (m : HostReq) (f : State → Option State) : Out :=
  .next (if !s.portUp port || (s.host.boot.isSome && !m.early) then s
    else if s.portStuck port || s.host.waiting.any (fun x => x.1 = port) then s.holdMsg port m
    else
      let r := s.tryMsg f
      if r.1 then r.2 else r.2.holdMsg port m)

/-- The die a port sits on (R409). -/
def portDie (port : Nat) : Nat := if port = 0 then 32 else 63

/-! ## Translated accesses (R399, R409) -/

/-- A port's translation of an address that its own cache does not hold: the shared cache of its die, else the walker. -/
def State.hostWalk (s : State) (port ctx va : Nat) : Except Nat TEntry × State :=
  match findT (s.die (portDie port)).tlb ctx va with
  | some e => (.ok e, s)
  | none => match s.ctx? ctx with
    | none => (.error cTRANS_INVALID, s)
    | some c => s.walkFrom (portDie port) ctx va 4 c.root

/-- The translation of an address for a port, without a change to the leaf. -/
def State.hostEntry (s : State) (port ctx va : Nat) : Except Nat TEntry × State :=
  match findT ((s.host.hostTcache.filter fun x => x.1 = port).map (·.2)) ctx va with
  | some e => (.ok e, s)
  | none => s.hostWalk port ctx va

/-- A translation enters a port's cache and the shared cache of its die. -/
def State.hostKeep (s : State) (port : Nat) (e : TEntry) : State :=
  let own := (s.host.hostTcache.filter fun x => x.1 = port).map (·.2)
  let s1 := s.modDie (portDie port) fun d => { d with tlb := addT 8192 d.tlb e }
  { s1 with host := { s1.host with hostTcache := (s.host.hostTcache.filter fun x => x.1 ≠ port) ++ (addT 64 own e).map fun x => (port, x) } }

/-- An access of a port uses a translation: the leaf's A, and for a write D (04 R82); the cause when the leaf cannot
take them. -/
def State.hostUse (s : State) (port : Nat) (e : TEntry) (kind : AccKind) : Option Nat × State :=
  match s.setLeafBits (portDie port) e.ctx e.leafPa (if kind.writes then 96 else 32) with
  | (none, s1) => (none, s1.hostKeep port { e with dirty := e.dirty || kind.writes })
  | r => r

/-- A part of a host access within one page: where it lies and how long it is. -/
structure HostPart where
  pa : Nat
  attr : PageAttr
  len : Nat
  entry : Option TEntry := none
deriving DecidableEq, Repr

/-- Outcome of the checks of a host access. -/
inductive HostRes (α : Type) where
  | ok (v : α) (s : State)
  | fault (cause : Nat) (s : State)
  | wait

/-- Check one page of a host access. A walk that meets an uncorrectable codeword ends the access with FAULT and UNCORR_READ
(DESIGN CHOICE, log 145: UNCORR is for the data of the access). -/
def State.hostPage (s : State) (port ctx va n : Nat) (kind : AccKind) : HostRes HostPart :=
  match s.hostEntry port ctx va with
  | (.error c, s1) => .fault c s1
  | (.ok e, s1) =>
    if s1.keyBusy e.attr.key then .wait
    else match s1.leafFault e kind with
      | some c => .fault c s1
      | none =>
        if s1.portRefuses ctx (e.pa va) then .fault cFABRIC s1
        else .ok { pa := e.pa va, attr := e.attr, len := n, entry := some e } s1

/-- The pages of a range of a host access: address and length of the part in each. -/
def pageParts (va n : Nat) : List (Nat × Nat) :=
  (List.range ((va % 65536 + n + 65535) / 65536)).map fun i =>
    let lo := max va (va / 65536 * 65536 + 65536 * i)
    (lo, min (va + n) (va / 65536 * 65536 + 65536 * (i + 1)) - lo)

/-- Look up every page of a host access before anything of it performs (R399). Context 0 names PAs, under key slot 0. -/
def State.hostLook (s : State) (port ctx : Nat) (va : Word) (n : Nat) (kind : AccKind) : HostRes (List HostPart) :=
  if ctx = 0 then
    if pkgOf va.toNat = s.fab.pkg ∧ pkgOf (va.toNat + n - 1) = s.fab.pkg then .ok [{ pa := va.toNat, attr := {}, len := n }] s
    else .fault cADDR_RANGE s
  else if (s.ctx? ctx).isNone then .fault cTRANS_INVALID s
  else if spaceOf va ≠ 0 then .fault cADDR_SPACE s
  else if 2 ^ 57 < va.toNat + n then .fault cADDR_RANGE s
  else (pageParts va.toNat n).foldl (fun a p =>
    match a with
    | .ok l s => match s.hostPage port ctx p.1 p.2 kind with
      | .ok x s1 => .ok (l ++ [x]) s1
      | .fault c s1 => .fault c s1
      | .wait => .wait
    | r => r) (.ok [] s)

/-- Every page of an access is used. -/
def State.hostUseAll (s : State) (port : Nat) (l : List HostPart) (kind : AccKind) : HostRes (List HostPart) :=
  l.foldl (fun a x => match a with
    | .ok l s => match x.entry with
      | some e => match s.hostUse port e kind with
        | (none, s1) => .ok l s1
        | (some c, s1) => .fault c s1
      | none => a
    | r => r) (.ok l s)

/-- The access goes from its port's die to the homes of its parts (R409): the way there may be held (21 R334, R347), or its
request may have expired (21 R348). -/
def State.hostGate (s : State) (port ctx : Nat) (l : List HostPart) : HostRes (List HostPart) :=
  let r := l.foldl (fun (a : Bool × State) x => if a.1 then a.2.partGate (portDie port) ctx x.pa x.len else a) (true, s)
  if r.1 then .ok l r.2 else .fault cFABRIC r.2

/-- The pages of a host access, all usable and used. -/
def State.hostParts (s : State) (port ctx : Nat) (va : Word) (n : Nat) (kind : AccKind) : HostRes (List HostPart) :=
  match s.hostLook port ctx va n kind with
  | .ok l s1 => match s1.hostGate port ctx l with
    | .ok l s2 => s2.hostUseAll port l kind
    | r => r
  | r => r

/-- The pages of a host atomic: only where every page has SA = 1, else refused with no mark in its leaf (05 R103), which
cause 0 tells. -/
def State.hostAtomicParts (s : State) (port ctx : Nat) (va : Word) (n : Nat) : HostRes (List HostPart) :=
  match s.hostLook port ctx va n .atomic with
  | .ok l s1 =>
    if l.all fun x => x.attr.sysAtomic then match s1.hostGate port ctx l with
      | .ok l s2 => s2.hostUseAll port l .atomic
      | r => r
    else .fault 0 s1
  | r => r

/-- Read the parts of an access; none on an uncorrectable read. -/
def State.hostRead (s : State) (l : List HostPart) : Option (List Byte) × State :=
  l.foldl (fun (a : Option (List Byte) × State) x =>
    match a.1 with
    | none => a
    | some bs => match a.2.readHome x.pa x.attr (x.attr.pol = 0) x.len with
      | (.ok r, s1) => (some (bs ++ r), s1)
      | (.error _, s1) => (none, s1)) (some [], s)

/-- MEMRD. -/
def State.msgMemrd (s : State) (port ctx : Nat) (va : Word) (size : Nat) : Option State :=
  if size = 0 ∨ 4096 < size then some (s.answer port "FAULT" cOPERAND)
  else match s.hostParts port ctx va size .load with
    | .wait => none
    | .fault c s1 => some (s1.answer port "FAULT" c)
    | .ok l s1 => match s1.hostRead l with
      | (some bs, s2) => some (s2.answer port "OK" 0 bs)
      | (none, s2) => some (s2.answer port "UNCORR" cUNCORR_READ)

/-- MEMRD arrives at its port. -/
def execMemrd (port ctx : Nat) (va : Word) (size : Nat) (s : State) : Out :=
  s.onPort port (.memrd port ctx va size) fun s => s.msgMemrd port ctx va size

/-- The host's port as a writer (05 Table 33). -/
def hostWriter (port ctx : Nat) : Writer := { cls := 4, ident := port, ctx := some ctx }

/-- The writes that a host write makes, each with the attributes of its page: a whole block at once, and the lines of what is
left (12 R233). -/
def hostPieces : List HostPart → List Byte → List (Nat × PageAttr × List Byte)
  | [], _ => []
  | x :: r, bs => ((writePieces (x.len + 1) x.pa (bs.take x.len)).map fun p => (p.1, x.attr, p.2)) ++ hostPieces r (bs.drop x.len)

/-- Make the writes of a host write at their homes; one whose read-modify-write fails stops all of them (R399). Each is one
write for a watchpoint (DESIGN CHOICE, log 112: 05 R113 does not say whether a message that spans lines is reported once). -/
def State.hostWrite (s : State) (port ctx : Nat) (ls : List (Nat × PageAttr × List Byte)) : Bool × State :=
  let put := fun (s : State) (x : Nat × PageAttr × List Byte) => s.performPiece (hostWriter port ctx) x.1 x.2.1 (x.2.1.pol = 0) x.2.2
  match ls.find? fun x => !(put s x).1 with
  | some x => (false, (put s x).2)
  | none => (true, ls.foldl (fun s x => (put s x).2) s)

/-- MEMWR: performed at the home, never logged. -/
def State.msgMemwr (s : State) (port ctx : Nat) (va : Word) (data : List Byte) : Option State :=
  if data.length = 0 ∨ 4096 < data.length then some (s.answer port "FAULT" cOPERAND)
  else match s.hostParts port ctx va data.length .store with
    | .wait => none
    | .fault c s1 => some (s1.answer port "FAULT" c)
    | .ok l s1 =>
      let r := s1.hostWrite port ctx (hostPieces l data)
      some (if r.1 then r.2.answer port "OK" else r.2.answer port "UNCORR" cUNCORR_WRITE)

/-- MEMWR arrives at its port. -/
def execMemwr (port ctx : Nat) (va : Word) (data : List Byte) (s : State) : Out :=
  s.onPort port (.memwr port ctx va data) fun s => s.msgMemwr port ctx va data

/-- The new value of a host atomic, or none where it writes nothing (05 Table 31). -/
def hostAmo (op : HostAtomicOp) (n old operand compare : Nat) : Option Nat := match op with
  | .fetchAdd => some ((old + operand) % 2 ^ (8 * n))
  | .swap => some (operand % 2 ^ (8 * n))
  | .compareSwap => if old = compare % 2 ^ (8 * n) then some (operand % 2 ^ (8 * n)) else none

/-- ATOMIC (05 R103): only where the page has SA = 1. -/
def State.msgHostAtomic (s : State) (port ctx : Nat) (va : Word) (op : HostAtomicOp) (wide : Bool) (operand compare : Word) : Option State :=
  let n := if wide then 8 else 4
  if ctx = 0 then some (s.answer port "ATOMIC_REFUSED")
  else if va.toNat % n ≠ 0 then some (s.answer port "FAULT" cMISALIGNED)
  else match s.hostAtomicParts port ctx va n with
    | .wait => none
    | .fault c s1 => some (if c = 0 then s1.answer port "ATOMIC_REFUSED" else s1.answer port "FAULT" c)
    | .ok l s1 => match s1.hostRead l with
        | (none, s2) => some (s2.answer port "UNCORR" cUNCORR_READ)
        | (some bs, s2) => match hostAmo op n (natOf bs) operand.toNat compare.toNat with
          | none => some (s2.answer port "OK" 0 bs)
          | some v =>
            let r := s2.hostWrite port ctx (hostPieces l (bytesOf n v))
            some (if r.1 then r.2.answer port "OK" 0 bs else r.2.answer port "UNCORR" cUNCORR_READ)

/-- ATOMIC arrives at its port. -/
def execHostAtomic (port ctx : Nat) (va : Word) (op : HostAtomicOp) (wide : Bool) (operand compare : Word) (s : State) : Out :=
  s.onPort port (.hostAtomic port ctx va op wide operand compare) fun s => s.msgHostAtomic port ctx va op wide operand compare

/-! ## Queues (R400) -/

/-- QWRITE. -/
def State.msgQwrite (s : State) (port queue : Nat) (packet : List Byte) : State :=
  let ps := s.packetsOf queue
  if 1024 ≤ queue ∨ packet.length ≠ 64 then s.answer port "FAULT" cOPERAND
  else if (alGet queue s.host.queues).isNone then s.answer port "QUEUE_CTX"
  else if 256 ≤ ps.length then s.answer port "QUEUE_FULL"
  else
    let heads := if ps.isEmpty then alSet queue s.time s.host.heads else s.host.heads
    { s with host := { s.host with packets := alSet queue (ps ++ [packet]) s.host.packets, heads := heads } }.answer port "OK"

/-- QWRITE arrives at its port. -/
def execQwrite (port queue : Nat) (packet : List Byte) (s : State) : Out :=
  s.onPort port (.qwrite port queue packet) fun s => some (s.msgQwrite port queue packet)

/-- QBIND: refused while the queue holds packets. -/
def State.msgQbind (s : State) (port queue ctx : Nat) : State :=
  if 1024 ≤ queue ∨ (s.ctx? ctx).isNone then s.answer port "FAULT" cOPERAND
  else if !(s.packetsOf queue).isEmpty then s.answer port "BUSY"
  else { s with host := { s.host with queues := alSet queue ctx s.host.queues } }.answer port "OK"

/-- QBIND arrives at its port. -/
def execQbind (port queue ctx : Nat) (s : State) : Out :=
  s.onPort port (.qbind port queue ctx) fun s => some (s.msgQbind port queue ctx)

/-! ## Contexts (R401, R402) -/

/-- A context as its descriptor gives it (Table 135). -/
def ctxOf (b : List Byte) : Ctx :=
  { root := natAt b 0 8, dmask := BitVec.ofNat 64 (natAt b 8 8), pmask := BitVec.ofNat 192 (natAt b 16 24), pdmasks := natAt b 40 8,
    ovf := wordAt b 48, ovfsz := natAt b 56 8, pool := wordAt b 64, osize := natAt b 72 8, tq := wordAt b 80, tqn := natAt b 88 8,
    tqsig := wordAt b 96, tvec := wordAt b 104, spinl := natAt b 112 4, pdl := natAt b 116 4, undo := wordAt b 120, undosz := natAt b 128 8,
    msspill := wordAt b 136 }

/-- A power of two from 4 to 4096. -/
def slotCount (n : Nat) : Bool := (List.range 11).any fun i => n == 2 ^ (i + 2)

/-- A PA names a package of a domain (04 R78). -/
def paFits (pa : Nat) : Bool := decide (pkgOf pa < 192)

/-- A SYNC pointer that names its die explicitly (R402; 04 R71, R72). -/
def namesDie (p : Word) : Bool := spaceOf p == 3 && rankField p % 64 == 0 && isDie (dieOf (rankField p))

/-- The fields are within their limits (R402). -/
def Ctx.fits (c : Ctx) (b : List Byte) : Bool :=
  natAt b 144 112 == 0 && c.root % 256 == 0 && paFits c.root && paFits c.pdmasks && globalAt c.ovf 1 && globalAt c.pool 16 && c.tq != 0#64 && globalAt c.tq 64
    && slotCount c.tqn && (c.tqsig == 0#64 || namesDie c.tqsig) && targetOk c.tvec
    && decide (c.spinl ≤ 2 ^ 20) && decide (1 ≤ c.pdl) && decide (c.pdl ≤ 2 ^ 20) && globalAt c.undo 1 && globalAt c.msspill 1

/-- What the part keeps for a context number goes: its pools, channels' counters, translations and side records. -/
def State.freshCtx (s : State) (ctx : Nat) : State :=
  let s1 := (s.invalidate ctx 0 (2 ^ 57)).mapDies fun d => { d with slTime := d.slTime.filter fun t => t.ctx ≠ ctx, syncs := d.syncs.filter fun v => v.ctx ≠ ctx }
  let s1 := s1.orphan ctx
  { s1 with parked := s1.parked.filter fun p => p.ctx ≠ ctx,
            head := { s1.head with pools := s1.head.pools.filter fun p => p.1 / 64 ≠ ctx, pages := s1.head.pages.filter fun p => p.ctx ≠ ctx } }

/-- CTXSET. A number in use is refused; one whose context has been killed may be set up again (R400). -/
def State.msgCtxset (s : State) (port ctx pa : Nat) : State :=
  let alive := match s.ctx? ctx with
    | some c => !c.killed
    | none => false
  if ctx = 0 ∨ 65536 ≤ ctx ∨ alive = true then s.answer port "FAULT" cOPERAND
  else if pkgOf pa ≠ s.fab.pkg ∨ pkgOf (pa + 255) ≠ s.fab.pkg then s.answer port "FAULT" cADDR_RANGE
  else match s.readHome pa {} true 256 with
    | (.error _, s1) => s1.answer port "FAULT" cUNCORR_READ
    | (.ok b, s1) =>
      if (ctxOf b).fits b then ((s1.freshCtx ctx).setCtx ctx (ctxOf b)).answer port "OK"
      else s1.answer port "FAULT" cOPERAND

/-- CTXSET arrives at its port. -/
def execCtxset (port ctx pa : Nat) (s : State) : Out :=
  s.onPort port (.ctxset port ctx pa) fun s => some (s.msgCtxset port ctx pa)

/-- CTXDROP: a kill as HOST_KILL, then the number is free. -/
def State.msgCtxdrop (s : State) (port ctx : Nat) : State := match s.ctx? ctx with
  | none => s.answer port "FAULT" cOPERAND
  | some c =>
    if c.killed then { s with ctxs := alDel ctx s.ctxs }.answer port "OK"
    else (s.setCtx ctx { c with drop := some port }).fatalKill ctx none cHOST_KILL { packed := cHOST_KILL }

/-- CTXDROP arrives at its port. -/
def execCtxdrop (port ctx : Nat) (s : State) : Out :=
  s.onPort port (.ctxdrop port ctx) fun s => some (s.msgCtxdrop port ctx)

/-- POOLADD: the pages go to a near list in list order, or the whole message is refused. -/
def State.msgPooladd (s : State) (port ctx die : Nat) (list : Word) (count : Nat) : State :=
  if (s.ctx? ctx).isNone || !isDDie die || !s.dieAllowed ctx die then s.answer port "FAULT" cOPERAND
  else if spaceOf list ≠ 0 then s.answer port "FAULT" cADDR_SPACE
  else if 2 ^ 57 < list.toNat + 4 * count then s.answer port "FAULT" cADDR_RANGE
  else match s.ctxRead (portDie port) ctx list.toNat (4 * count) with
    | (.error c, s1) => s1.answer port "FAULT" c
    | (.ok b, s1) =>
      let es := (List.range count).map fun i => natAt b (4 * i) 4
      if es.eraseDups.length ≠ es.length ∨ es.any (fun e => (s1.pageRec ctx e).isSome) = true then s1.answer port "FAULT" cOPERAND
      else
        let p := s1.pool ctx die
        let s2 := s1.setPool ctx die { p with near := es.reverse ++ p.near }
        let s3 : State := { s2 with head := { s2.head with pages := s2.head.pages ++ es.map fun e => { ctx := ctx, page := e, home := die, place := .near } } }
        (s3.sendHome ctx die).answer port "OK"

/-- POOLADD arrives at its port. -/
def execPooladd (port ctx die : Nat) (list : Word) (count : Nat) (s : State) : Out :=
  s.onPort port (.pooladd port ctx die list count) fun s => some (s.msgPooladd port ctx die list count)

/-! ## SHARED grants (04 R75) -/

/-- Runs of granules that meet a run; a count of 0 names every run. -/
def grantsMet (l : List Grant) (first count : Nat) : List Grant :=
  if count = 0 then l else l.filter fun g => rangesMeet g.first g.count first count

/-- A grant on a P-die must wait or be refused: another run overlaps it, or the context holds one, a grant on its way
counted in. -/
def Die.grantBusy (d : Die) (ctx first count : Nat) : Bool :=
  d.grants.any (fun g => decide (g.ctx = ctx) || rangesMeet g.first g.count first count)
    || d.handovers.any fun h => match h.ctx with
      | some c => decide (c = ctx) || rangesMeet h.first h.count first count
      | none => false

/-- SPGRANT: the change joins the die's hand-overs; its completion is sent when it takes effect. -/
def State.msgSpgrant (s : State) (port die : Nat) (ctx : Option Nat) (first count : Nat) : State :=
  let go := fun (s : State) => s.modDie die fun d => { d with handovers := d.handovers ++ [{ port := port, ctx := ctx, first := first, count := count }] }
  if !isDie die then s.answer port "FAULT" cOPERAND
  else match ctx with
    | none => if isPDie die && decide (64 < first + count) then s.answer port "FAULT" cOPERAND else go s
    | some c =>
      if (s.ctx? c).isNone then s.answer port "FAULT" cOPERAND
      else if isPDie die then
        if count = 0 ∨ 64 < first + count then s.answer port "FAULT" cOPERAND
        else if (s.die die).grantBusy c first count then s.answer port "BUSY"
        else go s
      else if (s.die die).dgrant.any (fun x => x != c) || (s.die die).handovers.any (fun h => h.ctx.any fun x => x != c) then s.answer port "BUSY"
      else go s

/-- SPGRANT arrives at its port. -/
def execSpgrant (port die : Nat) (ctx : Option Nat) (first count : Nat) (s : State) : Out :=
  s.onPort port (.spgrant port die ctx first count) fun s => some (s.msgSpgrant port die ctx first count)

/-- Zero the granules of a run. -/
def State.zeroRun (s : State) (die : Nat) (g : Grant) : State :=
  { s with mem := Memory.clear s.mem (sharedKey die (3 * 2 ^ 20 * g.first)) (3 * 2 ^ 20 * g.count) }

/-- A D-die's scratchpad grant ends: its ways are zeroed and are cache again. -/
def State.endScratch (s : State) (die : Nat) : State :=
  let d := s.die die
  let z := wayBytes d.split 16
  let s1 : State := { s with mem := Memory.clear s.mem (sharedKey die z.1) z.2 }
  s1.modDie die fun d => { d with dgrant := none, split := 16 }

/-- The hand-over itself. -/
def State.handOver (s : State) (die : Nat) (h : Handover) : State :=
  if isPDie die then match h.ctx with
    | some c =>
      let g : Grant := { ctx := c, first := h.first, count := h.count }
      (s.zeroRun die g).modDie die fun d => { d with grants := d.grants ++ [g] }
    | none =>
      let out := grantsMet (s.die die).grants h.first h.count
      (out.foldl (fun s g => s.zeroRun die g) s).modDie die fun d => { d with grants := d.grants.filter fun g => !out.contains g }
  else match h.ctx with
    | some c =>
      let z := wayBytes (s.die die).split 16
      { s with mem := Memory.clear s.mem (sharedKey die z.1) z.2 }.modDie die fun d => { d with dgrant := some c }
    | none => s.endScratch die

/-! ## Keys (R403) -/

/-- Identity of the keys that 72 wrapped bytes hold: equal bytes are equal keys. -/
def wrapId (w : BitVec 576) : Nat := w.toNat + 1

/-- KEYLOAD. -/
def State.msgKeyload (s : State) (port slot : Nat) (wrapped : BitVec 576) : State :=
  if slot = 0 ∨ 4096 ≤ slot then s.answer port "FAULT" cOPERAND
  else if Config.wrapValid wrapped then { s with host := { s.host with keyWork := s.host.keyWork ++ [(slot, port, some (wrapId wrapped))] } }
  else s.answer port "KEY_DENIED"

/-- KEYLOAD arrives at its port. -/
def execKeyload (port slot : Nat) (wrapped : BitVec 576) (s : State) : Out :=
  s.onPort port (.keyload port slot wrapped) fun s => some (s.msgKeyload port slot wrapped)

/-- KEYZAP. -/
def State.msgKeyzap (s : State) (port slot : Nat) : State :=
  if slot = 0 ∨ 4096 ≤ slot then s.answer port "FAULT" cOPERAND
  else { s with host := { s.host with keyWork := s.host.keyWork ++ [(slot, port, none)] } }

/-- KEYZAP arrives at its port. -/
def execKeyzap (port slot : Nat) (s : State) : Out :=
  s.onPort port (.keyzap port slot) fun s => some (s.msgKeyzap port slot)

/-- Write back and drop every cached line under a slot, and the L1 and fetch lines read under its key. -/
def State.flushSlot (s : State) (slot : Nat) : State :=
  let s1 := (s.hbm.map (·.1)).foldl (fun s k =>
    (((s.stack k).sram.filter fun x => x.key = slot).map (·.line)).foldl (fun s line =>
      let r := s.evict k line
      r.2.lostLines r.1) s) s
  match s.keyId slot with
  | none => s1
  | some k => s1.mapUnits fun u => { u with l1 := u.l1.filter (fun x => x.key ≠ k), fetchBuf := u.fetchBuf.filter fun x => x.key ≠ slot }

/-! ## Management registers (R404, Table 136) -/

/-- A management register. -/
inductive MReg where
  | pbudget
  | thresholds
  | devsel (die : Nat) (k : Fin 16)
  | elog (stack : Nat)
  | elogData
  | energy
  | fille
  | sensclr
  | rampt (die : Nat)
  | slrto (die : Nat)
deriving DecidableEq, Repr

/-- The register at an address. -/
def mregOf (a : Nat) : Option MReg :=
  if a % 8 ≠ 0 then none
  else if a = 0 then some .pbudget
  else if a = 0x200 then some .thresholds
  else if 0x400 ≤ a ∧ a < 0x2400 then some (.devsel ((a - 0x400) / 128) ⟨(a - 0x400) / 8 % 16, by omega⟩)
  else if 0x2400 ≤ a ∧ a < 0x2500 then some (.elog ((a - 0x2400) / 8))
  else if a = 0x2500 then some .elogData
  else if a = 0x2600 then some .energy
  else if a = 0x2608 then some .fille
  else if a = 0x2610 then some .sensclr
  else if 0x2800 ≤ a ∧ a < 0x2A00 then some (.rampt ((a - 0x2800) / 8))
  else if 0x2A00 ≤ a ∧ a < 0x2C00 then some (.slrto ((a - 0x2A00) / 8))
  else none

/-- The die a register is indexed by. -/
def MReg.die : MReg → Option Nat
  | .devsel d _ => some d
  | .rampt d => some d
  | .slrto d => some d
  | _ => none

/-- An error-log record (12 Table 67). -/
def LogRec.image (r : LogRec) : List Byte :=
  bytesOf 4 r.seq ++ ([r.kind, r.pch, r.cw, r.sym, r.beat, r.grp, r.lane, r.spare, r.retry, r.inuse, r.flags, 0].map fun x => BitVec.ofNat 8 x)
    ++ bytesOf 8 r.pa ++ bytesOf 8 r.time

/-- The selected record; a ring entry that nothing has filled reads as zero. -/
def State.elogData (s : State) : List Byte :=
  let k := s.power.elogLast
  let i := (alGet k s.power.elogSel).getD 0
  match (s.stack k).log.find? fun r => r.seq % 4096 = i with
  | some r => r.image
  | none => zeros 32

/-- The value of a management register, or none where it cannot be read. -/
def State.readMreg (s : State) (r : MReg) : Option (List Byte) :=
  let n := fun (v : Nat) => some (bytesOf 8 v)
  if (r.die.map isDie) = some false then n 0
  else match r with
    | .pbudget => n s.power.pbudget
    | .thresholds => n (s.power.thot * 65536 + s.power.tcrit)
    | .devsel d k => n ((s.die d).devsel[k]).toNat
    | .elog k => n ((alGet k s.power.elogSel).getD 0)
    | .elogData => some s.elogData
    | .energy => n (match s.ctx? s.power.energySel with
      | some c => c.energy / 1000
      | none => 0)
    | .fille => n s.power.fille
    | .sensclr => n 0
    | .rampt d => some (bytesOf 8 (s.die d).rampt.toNat)
    | .slrto d => n (s.die d).slrto

/-- Change the power and log registers. -/
def State.modPower (s : State) (f : Power → Power) : State := { s with power := f s.power }

/-- PBUDGET: a budget below the package's fixed needs keeps the old value (16 R275). -/
def State.setPbudget (s : State) (v : Word) : Option State :=
  if v.toNat < 4648 ∨ 2 ^ 16 ≤ v.toNat then none else some (s.modPower fun p => { p with pbudget := v.toNat })

/-- RAMPT of a die: an entry of 0 is refused; it is in force from the next boundary of each limiter's steps (16 R281). -/
def State.setRampt (s : State) (die : Nat) (v : Word) : Option State :=
  if !isDie die || (List.range 16).any (fun i => bitsAt v.toNat (4 * i) 4 == 0) then none
  else some ((s.rampDie die).modDie die fun d => { d with rampt := v })

/-- ELOG of a stack: the record that ELOGDATA reads. -/
def State.setElog (s : State) (stack : Nat) (v : Word) : Option State :=
  if 32 ≤ stack then none
  else some (s.modPower fun p => { p with elogSel := alSet stack (v.toNat % 4096) p.elogSel, elogLast := stack })

/-- ENERGY: the context whose counter a read returns. -/
def State.setEnergy (s : State) (v : Word) : Option State :=
  if 65536 ≤ v.toNat then none else some (s.modPower fun p => { p with energySel := v.toNat })

/-- SENSCLR: die in bits 13:6, column in 5:3, height in 2:0; a declaration that no reset has followed stays (16 R283). -/
def State.setSensclr (s : State) (v : Word) : Option State :=
  let id := v.toNat
  if 2 ^ 14 ≤ id then none
  else some (s.modPower fun p => if id ∈ p.clearable then { p with failed := p.failed.filter (· ≠ id), clearable := p.clearable.filter (· ≠ id) } else p)

/-- A write of a management register, or none where it is refused. -/
def State.writeMreg (s : State) (r : MReg) (v : Word) : Option State :=
  let n := v.toNat
  if (r.die.map isDie) = some false then none
  else match r with
    | .pbudget => s.setPbudget v
    | .thresholds => if 2 ^ 32 ≤ n then none else some (s.modPower fun p => { p with thot := n / 65536, tcrit := n % 65536 })
    | .devsel d k => if 256 ≤ n then none else some (s.modDie d fun x => { x with devsel := x.devsel.set k (BitVec.ofNat 8 n) })
    | .elog k => s.setElog k v
    | .elogData => none
    | .energy => s.setEnergy v
    | .fille => if 2 ^ 16 ≤ n then none else some (s.modPower fun p => { p with fille := n })
    | .sensclr => s.setSensclr v
    | .rampt d => s.setRampt d v
    | .slrto d => if 2 ^ 32 ≤ n then none else some (s.modDie d fun x => { x with slrto := n })

/-- A management write completes with OK, or with FAULT and no effect. -/
def State.mgmtDone (s : State) (port : Nat) (f : State → Option State) : State :=
  match f s with
  | some s1 => s1.answer port "OK"
  | none => s.answer port "FAULT"

/-- MGMTRD. An address of no register completes with FAULT (DESIGN CHOICE, log 148). -/
def State.msgMgmtrd (s : State) (port address : Nat) : State := match (mregOf address).bind s.readMreg with
  | some bs => s.answer port "OK" 0 bs
  | none => s.answer port "FAULT"

/-- MGMTRD arrives at its port. -/
def execMgmtrd (port address : Nat) (s : State) : Out :=
  s.onPort port (.mgmtrd port address) fun s => some (s.msgMgmtrd port address)

/-- MGMTWR. -/
def State.msgMgmtwr (s : State) (port address : Nat) (value : Word) : State := s.mgmtDone port fun s => (mregOf address).bind fun r => s.writeMreg r value

/-- MGMTWR arrives at its port. -/
def execMgmtwr (port address : Nat) (value : Word) (s : State) : Out :=
  s.onPort port (.mgmtwr port address value) fun s => some (s.msgMgmtwr port address value)

/-- PBUDGET: a MGMTWR of it. -/
def State.msgPbudget (s : State) (port : Nat) (value : Word) : State := s.mgmtDone port fun s => s.setPbudget value

/-- PBUDGET arrives at its port. -/
def execPbudget (port : Nat) (value : Word) (s : State) : Out :=
  s.onPort port (.pbudget port value) fun s => some (s.msgPbudget port value)

/-- RAMPT: a MGMTWR of a die's table. -/
def State.msgRampt (s : State) (port die : Nat) (value : Word) : State := s.mgmtDone port fun s => s.setRampt die value

/-- RAMPT arrives at its port. -/
def execRampt (port die : Nat) (value : Word) (s : State) : Out :=
  s.onPort port (.rampt port die value) fun s => some (s.msgRampt port die value)

/-- ELOG: a MGMTWR of a stack's selector. -/
def State.msgElogSelect (s : State) (port stack : Nat) (value : Word) : State := s.mgmtDone port fun s => s.setElog stack value

/-- ELOGSELECT arrives at its port. -/
def execElogSelect (port stack : Nat) (value : Word) (s : State) : Out :=
  s.onPort port (.elogSelect port stack value) fun s => some (s.msgElogSelect port stack value)

/-- ENERGY: a MGMTWR of it. -/
def State.msgEnergySelect (s : State) (port : Nat) (value : Word) : State := s.mgmtDone port fun s => s.setEnergy value

/-- ENERGYSELECT arrives at its port. -/
def execEnergySelect (port : Nat) (value : Word) (s : State) : Out :=
  s.onPort port (.energySelect port value) fun s => some (s.msgEnergySelect port value)

/-- SENSCLR: a MGMTWR of it. -/
def State.msgSensclr (s : State) (port : Nat) (value : Word) : State := s.mgmtDone port fun s => s.setSensclr value

/-- SENSCLR arrives at its port. -/
def execSensclr (port : Nat) (value : Word) (s : State) : Out :=
  s.onPort port (.sensclr port value) fun s => some (s.msgSensclr port value)

/-! ## What completes later -/

/-- What a message of a port does once it may. -/
def State.hostMsg (s : State) (m : HostReq) : Option State :=
  match m with
  | .memrd port ctx va size => s.msgMemrd port ctx va size
  | .memwr port ctx va data => s.msgMemwr port ctx va data
  | .hostAtomic port ctx va op wide operand compare => s.msgHostAtomic port ctx va op wide operand compare
  | .qwrite port queue packet => some (s.msgQwrite port queue packet)
  | .qbind port queue ctx => some (s.msgQbind port queue ctx)
  | .ctxset port ctx pa => some (s.msgCtxset port ctx pa)
  | .ctxdrop port ctx => some (s.msgCtxdrop port ctx)
  | .pooladd port ctx die list count => some (s.msgPooladd port ctx die list count)
  | .spgrant port die ctx first count => some (s.msgSpgrant port die ctx first count)
  | .keyload port slot wrapped => some (s.msgKeyload port slot wrapped)
  | .keyzap port slot => some (s.msgKeyzap port slot)
  | .mgmtrd port address => some (s.msgMgmtrd port address)
  | .mgmtwr port address value => some (s.msgMgmtwr port address value)
  | .pbudget port value => some (s.msgPbudget port value)
  | .rampt port die value => some (s.msgRampt port die value)
  | .elogSelect port stack value => some (s.msgElogSelect port stack value)
  | .energySelect port value => some (s.msgEnergySelect port value)
  | .sensclr port value => some (s.msgSensclr port value)

/-- The messages that wait on a port take effect in order, up to one that must wait longer. -/
def State.runWaiting (port : Nat) : Nat → State → State
  | 0, s => s
  | n + 1, s =>
    if s.portStuck port then s
    else match s.host.waiting.find? fun x => x.1 = port with
      | none => s
      | some x =>
        let r := s.tryMsg fun s => s.hostMsg x.2
        if r.1 then State.runWaiting port n { r.2 with host := { r.2.host with waiting := r.2.host.waiting.erase x } } else r.2

/-- The messages that wait on the ports go on. -/
def State.portsGo (s : State) : State :=
  let n := s.host.waiting.length
  State.runWaiting 1 n (State.runWaiting 0 n s)

/-- A place in the SHARED memory of a die. -/
def Loc.onBank (die : Nat) : Loc → Bool
  | .shared d _ => d == die
  | _ => false

/-- The word at which a unit stands is an access to the SHARED memory of a die. -/
def State.wordOnBank (s : State) (rank die : Nat) (u : Core) : Bool := match u.stall, decode u.ir.word with
  | .pushing _ locs, _ => locs.any fun x => x.2.2.onBank die
  | .resource, .ok i => match (s.focus rank).access i with
    | some a => a.places.any fun x => spaceOf x.1 == 1 && dieOf (resolveRank rank 1 (rankField x.1)) == die
    | none => false
  | _, _ => false

/-- Accesses are outstanding at the SHARED banks of a D-die: those that a change of its split has held and that have not yet
performed (12 R231; log 94). -/
def State.banksBusy (s : State) (die : Nat) : Bool :=
  isDDie die && s.units.any fun x =>
    x.2.loads.any (fun l => l.loc.onBank die || l.more.any fun y => y.1.onBank die) || x.2.cpe.queue.any (fun c => c.atBank == some die)
      || x.2.outgoing.any (fun o => o.writes.any fun w => w.1.onBank die) || s.wordOnBank x.1 die x.2

/-- SPGRANT_TAKES_EFFECT: the oldest hand-over of a die; its SPGRANT completes, and its port's later messages go on. It waits
while accesses are outstanding at the banks (04 R75, 12 R231). -/
def execSpgrantTakesEffect (die : Nat) (s : State) : Out :=
  match (s.die die).handovers with
  | [] => .next s
  | h :: rest =>
    if !(s.die die).splitTo.isEmpty || s.banksBusy die then .next s
    else .next (((s.handOver die h).modDie die fun d => { d with handovers := rest }).answer h.port "OK").portsGo

/-- KEY_SLOT_FLUSH_DONE: every slice has flushed the slot; its oldest load or zap takes effect and completes, and the
messages behind it go on. -/
def execKeySlotFlushDone (slot : Nat) (s : State) : Out :=
  match s.host.keyWork.find? fun x => x.1 = slot with
  | none => .next s
  | some (_, port, new) =>
    let s1 := s.flushSlot slot
    let slots := match new with
      | some k => alSet slot k s1.host.keySlots
      | none => alDel slot s1.host.keySlots
    .next ({ s1 with host := { s1.host with keySlots := slots, keyWork := s1.host.keyWork.erase (slot, port, new) } }.answer port "OK").portsGo

/-- PORT_LOSES_LINK: reported on the other port; messages that wait on the lost port go (log 91), and what it has under way
completes on no port. -/
def execPortLosesLink (port : Nat) (s : State) : Out :=
  .next (if s.portUp port then
    { s with host := { s.host with portsDown := port :: s.host.portsDown, waiting := s.host.waiting.filter fun x => x.1 ≠ port } }.send (.event "LINK_DOWN" 0 "OK" [port])
  else s)

/-! ## Reset and boot (R406) -/

/-- What a boot leaves of a stack: lane faults, the swaps that persist, and permanent symbol faults. -/
def Stack.booted (st : Stack) : Stack := { bad := st.bad.filter fun b => !b.soft, badLanes := st.badLanes, swaps := st.swaps }

/-- A boot begins: nothing runs, no context is set up and every queue is empty. What the outside world is, its position in the
domain, the messages sent and the free values' counter, goes on; what memory and the links are, until their stages. -/
def State.startBoot (s : State) (b : Boot) : State :=
  { agenda := s.agenda, tick := s.tick, mem := s.mem, tags := s.tags, hbm := s.hbm
    fab := { pkg := s.fab.pkg, domain := s.fab.domain, failed := s.fab.failed, linksDown := s.fab.linksDown }
    power := { failed := s.power.failed, clearable := s.power.failed }
    host := { out := s.host.out, chosen := s.host.chosen, boot := some b } }

/-- A core that the register test leaves, in service or retired (02 R30). -/
def testedCore (retired : List Nat) (r : Nat) : Core := { outOfService := decide (r ∈ retired) }

/-- A stage of a boot, and on to the next; the last one sends READY with the counts of retired cores and swapped lanes. -/
def State.bootStage (s : State) (b : Boot) : State :=
  let on := fun (s : State) => { s with host := { s.host with boot := some { b with stage := b.stage + 1 } } }
  match b.stage with
  | 1 => if b.signatureOk then on s else { s with halted := true }
  | 2 => on { s with core := testedCore b.retired s.cur, others := (b.retired.filter fun r => r ≠ s.cur).foldl (fun l r => alSet r (testedCore b.retired r) l) [] }
  | 3 => on { s with mem := Memory.clear s.mem 0 (2 ^ 56), tags := [], hbm := s.hbm.map fun k => (k.1, k.2.booted) }
  | 4 => on { s with fab := { s.fab with failed := [], linksDown := [] } }
  | 5 => on { s with mem := Memory.clear s.mem (2 ^ 56) (2 ^ 59), host := { s.host with keySlots := [(0, 0)] } }
  | _ =>
    let lanes := s.hbm.foldl (fun n k => n + k.2.swaps.length) 0
    { s with host := { s.host with boot := none } }.send (.event "READY" 0 "OK" [b.retired.length, lanes])

/-- POWER_ON: the boot finds cores that cannot present every register, or a signature that fails, which halts the part. -/
def execPowerOn (signatureOk : Bool) (retired : List Nat) (s : State) : Out :=
  .next (s.startBoot { signatureOk := signatureOk, retired := (retired.filter isCoreRank).eraseDups })

/-- RESET_PIN: every context ends with no fatal record and every queue is empty; the same stages run. Cores out of service stay
so, the register test may find more, and the signature is checked (both free, log 147). -/
def execResetPin (s : State) : Out :=
  .next (s.startBoot { signatureOk := Config.signatureGood s.tick,
                       retired := (((s.units.filter fun u => u.2.outOfService).map (·.1)) ++ (Config.failedCores s.tick).filter isCoreRank).eraseDups })

end Sys2Proof.Machine
end

