-- ==== Sys2Proof/Machine/Dispatch.lean ====
section
/-!
DEFINITION. What each instruction and event does: one arm per constructor of Instr.
-/
namespace Sys2Proof.Machine

def exec (i : Instr) (s : State) : Host.Outcome State Fault Refusal :=
  match i with
  | .add d a b => Sys2Proof.Machine.execAdd d a b s
  | .sub d a b => Sys2Proof.Machine.execSub d a b s
  | .andR d a b => Sys2Proof.Machine.execAndR d a b s
  | .orR d a b => Sys2Proof.Machine.execOrR d a b s
  | .xorR d a b => Sys2Proof.Machine.execXorR d a b s
  | .andn d a b => Sys2Proof.Machine.execAndn d a b s
  | .sll d a b => Sys2Proof.Machine.execSll d a b s
  | .srl d a b => Sys2Proof.Machine.execSrl d a b s
  | .sra d a b => Sys2Proof.Machine.execSra d a b s
  | .ror d a b => Sys2Proof.Machine.execRor d a b s
  | .slt d a b => Sys2Proof.Machine.execSlt d a b s
  | .sltu d a b => Sys2Proof.Machine.execSltu d a b s
  | .minS d a b => Sys2Proof.Machine.execMinS d a b s
  | .maxS d a b => Sys2Proof.Machine.execMaxS d a b s
  | .minu d a b => Sys2Proof.Machine.execMinu d a b s
  | .maxu d a b => Sys2Proof.Machine.execMaxu d a b s
  | .addw d a b => Sys2Proof.Machine.execAddw d a b s
  | .subw d a b => Sys2Proof.Machine.execSubw d a b s
  | .sllw d a b => Sys2Proof.Machine.execSllw d a b s
  | .srlw d a b => Sys2Proof.Machine.execSrlw d a b s
  | .sraw d a b => Sys2Proof.Machine.execSraw d a b s
  | .clz d a => Sys2Proof.Machine.execClz d a s
  | .ctz d a => Sys2Proof.Machine.execCtz d a s
  | .popc d a => Sys2Proof.Machine.execPopc d a s
  | .sextb d a => Sys2Proof.Machine.execSextb d a s
  | .sexth d a => Sys2Proof.Machine.execSexth d a s
  | .sextw d a => Sys2Proof.Machine.execSextw d a s
  | .zextw d a => Sys2Proof.Machine.execZextw d a s
  | .mul d a b => Sys2Proof.Machine.execMul d a b s
  | .mulh d a b => Sys2Proof.Machine.execMulh d a b s
  | .mulhu d a b => Sys2Proof.Machine.execMulhu d a b s
  | .mulw d a b => Sys2Proof.Machine.execMulw d a b s
  | .div d a b => Sys2Proof.Machine.execDiv d a b s
  | .divu d a b => Sys2Proof.Machine.execDivu d a b s
  | .rem d a b => Sys2Proof.Machine.execRem d a b s
  | .remu d a b => Sys2Proof.Machine.execRemu d a b s
  | .divw d a b => Sys2Proof.Machine.execDivw d a b s
  | .divuw d a b => Sys2Proof.Machine.execDivuw d a b s
  | .remw d a b => Sys2Proof.Machine.execRemw d a b s
  | .remuw d a b => Sys2Proof.Machine.execRemuw d a b s
  | .addi d a k => Sys2Proof.Machine.execAddi d a k s
  | .andi d a k => Sys2Proof.Machine.execAndi d a k s
  | .ori d a k => Sys2Proof.Machine.execOri d a k s
  | .xori d a k => Sys2Proof.Machine.execXori d a k s
  | .slti d a k => Sys2Proof.Machine.execSlti d a k s
  | .sltiu d a k => Sys2Proof.Machine.execSltiu d a k s
  | .slli d a x => Sys2Proof.Machine.execSlli d a x s
  | .srli d a x => Sys2Proof.Machine.execSrli d a x s
  | .srai d a x => Sys2Proof.Machine.execSrai d a x s
  | .rori d a x => Sys2Proof.Machine.execRori d a x s
  | .lui d k => Sys2Proof.Machine.execLui d k s
  | .lim d k => Sys2Proof.Machine.execLim d k s
  | .lih d k => Sys2Proof.Machine.execLih d k s
  | .addpc d k => Sys2Proof.Machine.execAddpc d k s
  | .ptag d a b => Sys2Proof.Machine.execPtag d a b s
  | .prank d a b => Sys2Proof.Machine.execPrank d a b s
  | .pspace d a => Sys2Proof.Machine.execPspace d a s
  | .poff d a => Sys2Proof.Machine.execPoff d a s
  | .padd d a b => Sys2Proof.Machine.execPadd d a b s
  | .beq a b o => Sys2Proof.Machine.execBeq a b o s
  | .bne a b o => Sys2Proof.Machine.execBne a b o s
  | .blt a b o => Sys2Proof.Machine.execBlt a b o s
  | .bge a b o => Sys2Proof.Machine.execBge a b o s
  | .bltu a b o => Sys2Proof.Machine.execBltu a b o s
  | .bgeu a b o => Sys2Proof.Machine.execBgeu a b o s
  | .jal d o => Sys2Proof.Machine.execJal d o s
  | .jalr d a k => Sys2Proof.Machine.execJalr d a k s
  | .hwLoop a l o => Sys2Proof.Machine.execHwLoop a l o s
  | .ldb d b c p r o => Sys2Proof.Machine.execLdb d b c p r o s
  | .ldh d b c p r o => Sys2Proof.Machine.execLdh d b c p r o s
  | .ldw d b c p r o => Sys2Proof.Machine.execLdw d b c p r o s
  | .ldd d b c p r o => Sys2Proof.Machine.execLdd d b c p r o s
  | .ldsb d b c p r o => Sys2Proof.Machine.execLdsb d b c p r o s
  | .ldsh d b c p r o => Sys2Proof.Machine.execLdsh d b c p r o s
  | .ldsw d b c p r o => Sys2Proof.Machine.execLdsw d b c p r o s
  | .stb d b c p r o => Sys2Proof.Machine.execStb d b c p r o s
  | .sth d b c p r o => Sys2Proof.Machine.execSth d b c p r o s
  | .stw d b c p r o => Sys2Proof.Machine.execStw d b c p r o s
  | .std d b c p r o => Sys2Proof.Machine.execStd d b c p r o s
  | .pushm f l => Sys2Proof.Machine.execPushm f l s
  | .popm f l => Sys2Proof.Machine.execPopm f l s
  | .fence k x m => Sys2Proof.Machine.execFence k x m s
  | .tdld t b c o => Sys2Proof.Machine.execTdld t b c o s
  | .tdst t b c o => Sys2Proof.Machine.execTdst t b c o s
  | .amoswapW r d a b c => Sys2Proof.Machine.execAmoswapW r d a b c s
  | .amoswapD r d a b c => Sys2Proof.Machine.execAmoswapD r d a b c s
  | .amoaddW r d a b c => Sys2Proof.Machine.execAmoaddW r d a b c s
  | .amoaddD r d a b c => Sys2Proof.Machine.execAmoaddD r d a b c s
  | .amoandW r d a b c => Sys2Proof.Machine.execAmoandW r d a b c s
  | .amoandD r d a b c => Sys2Proof.Machine.execAmoandD r d a b c s
  | .amoorW r d a b c => Sys2Proof.Machine.execAmoorW r d a b c s
  | .amoorD r d a b c => Sys2Proof.Machine.execAmoorD r d a b c s
  | .amoxorW r d a b c => Sys2Proof.Machine.execAmoxorW r d a b c s
  | .amoxorD r d a b c => Sys2Proof.Machine.execAmoxorD r d a b c s
  | .amominW r d a b c => Sys2Proof.Machine.execAmominW r d a b c s
  | .amominD r d a b c => Sys2Proof.Machine.execAmominD r d a b c s
  | .amomaxW r d a b c => Sys2Proof.Machine.execAmomaxW r d a b c s
  | .amomaxD r d a b c => Sys2Proof.Machine.execAmomaxD r d a b c s
  | .amominuW r d a b c => Sys2Proof.Machine.execAmominuW r d a b c s
  | .amominuD r d a b c => Sys2Proof.Machine.execAmominuD r d a b c s
  | .amomaxuW r d a b c => Sys2Proof.Machine.execAmomaxuW r d a b c s
  | .amomaxuD r d a b c => Sys2Proof.Machine.execAmomaxuD r d a b c s
  | .casW r d a b c => Sys2Proof.Machine.execCasW r d a b c s
  | .casD r d a b c => Sys2Proof.Machine.execCasD r d a b c s
  | .cas2 r d a b c => Sys2Proof.Machine.execCas2 r d a b c s
  | .amofadd r d a b c => Sys2Proof.Machine.execAmofadd r d a b c s
  | .ctrinit a b => Sys2Proof.Machine.execCtrinit a b s
  | .ctrsig d a b => Sys2Proof.Machine.execCtrsig d a b s
  | .ctrrd d a => Sys2Proof.Machine.execCtrrd d a s
  | .ctrwait a => Sys2Proof.Machine.execCtrwait a s
  | .barinit a b => Sys2Proof.Machine.execBarinit a b s
  | .bararv d a w => Sys2Proof.Machine.execBararv d a w s
  | .barwait a b => Sys2Proof.Machine.execBarwait a b s
  | .tlwait x a b e => Sys2Proof.Machine.execTlwait x a b e s
  | .tlrd d b e => Sys2Proof.Machine.execTlrd d b e s
  | .arinit a b => Sys2Proof.Machine.execArinit a b s
  | .arwait a b => Sys2Proof.Machine.execArwait a b s
  | .spawn d a b e => Sys2Proof.Machine.execSpawn d a b e s
  | .spawnd d a b e => Sys2Proof.Machine.execSpawnd d a b e s
  | .yield => Sys2Proof.Machine.execYield s
  | .stepend => Sys2Proof.Machine.execStepend s
  | .chkopen a => Sys2Proof.Machine.execChkopen a s
  | .chkclose => Sys2Proof.Machine.execChkclose s
  | .suspend d a b => Sys2Proof.Machine.execSuspend d a b s
  | .resume a b n => Sys2Proof.Machine.execResume a b n s
  | .ccopy d a b => Sys2Proof.Machine.execCcopy d a b s
  | .cdiscard a b => Sys2Proof.Machine.execCdiscard a b s
  | .cquery d a b => Sys2Proof.Machine.execCquery d a b s
  | .crights a b => Sys2Proof.Machine.execCrights a b s
  | .cpin d b f => Sys2Proof.Machine.execCpin d b f s
  | .cpout a b => Sys2Proof.Machine.execCpout a b s
  | .cptin d b f => Sys2Proof.Machine.execCptin d b f s
  | .cptout a b => Sys2Proof.Machine.execCptout a b s
  | .cpll d a f => Sys2Proof.Machine.execCpll d a f s
  | .gather d x b f k => Sys2Proof.Machine.execGather d x b f k s
  | .scatter x a b k => Sys2Proof.Machine.execScatter x a b k s
  | .idxld x b => Sys2Proof.Machine.execIdxld x b s
  | .fill d b => Sys2Proof.Machine.execFill d b s
  | .promote b => Sys2Proof.Machine.execPromote b s
  | .subscr d b x => Sys2Proof.Machine.execSubscr d b x s
  | .slotret b x => Sys2Proof.Machine.execSlotret b x s
  | .mma d a b x w => Sys2Proof.Machine.execMma d a b x w s
  | .mmapLead d a b x => Sys2Proof.Machine.execMmapLead d a b x s
  | .mmapFol d b x => Sys2Proof.Machine.execMmapFol d b x s
  | .wbld d a => Sys2Proof.Machine.execWbld d a s
  | .cbld a => Sys2Proof.Machine.execCbld a s
  | .mvm d a b x w => Sys2Proof.Machine.execMvm d a b x w s
  | .mzero d => Sys2Proof.Machine.execMzero d s
  | .vadd d a b m => Sys2Proof.Machine.execVadd d a b m s
  | .vsub d a b m => Sys2Proof.Machine.execVsub d a b m s
  | .vmul d a b m => Sys2Proof.Machine.execVmul d a b m s
  | .vfma d a b m => Sys2Proof.Machine.execVfma d a b m s
  | .vmin d a b m => Sys2Proof.Machine.execVmin d a b m s
  | .vmax d a b m => Sys2Proof.Machine.execVmax d a b m s
  | .vabs d a => Sys2Proof.Machine.execVabs d a s
  | .vneg d a => Sys2Proof.Machine.execVneg d a s
  | .vscl d a b => Sys2Proof.Machine.execVscl d a b s
  | .vadds d a b m => Sys2Proof.Machine.execVadds d a b m s
  | .vand d a b m => Sys2Proof.Machine.execVand d a b m s
  | .vor d a b m => Sys2Proof.Machine.execVor d a b m s
  | .vxor d a b m => Sys2Proof.Machine.execVxor d a b m s
  | .vshl d a b m => Sys2Proof.Machine.execVshl d a b m s
  | .vshr d a b m => Sys2Proof.Machine.execVshr d a b m s
  | .vcmpeq d a b m => Sys2Proof.Machine.execVcmpeq d a b m s
  | .vcmplt d a b m => Sys2Proof.Machine.execVcmplt d a b m s
  | .vcmple d a b m => Sys2Proof.Machine.execVcmple d a b m s
  | .vsel d a b m => Sys2Proof.Machine.execVsel d a b m s
  | .vmov d a => Sys2Proof.Machine.execVmov d a s
  | .vbcast d a k => Sys2Proof.Machine.execVbcast d a k s
  | .vbcastScalar d b => Sys2Proof.Machine.execVbcastScalar d b s
  | .vtrans d a => Sys2Proof.Machine.execVtrans d a s
  | .vexp d a => Sys2Proof.Machine.execVexp d a s
  | .vexp2 d a => Sys2Proof.Machine.execVexp2 d a s
  | .vlog2 d a => Sys2Proof.Machine.execVlog2 d a s
  | .vrcp d a => Sys2Proof.Machine.execVrcp d a s
  | .vrsqrt d a => Sys2Proof.Machine.execVrsqrt d a s
  | .vsqrt d a => Sys2Proof.Machine.execVsqrt d a s
  | .vtanh d a => Sys2Proof.Machine.execVtanh d a s
  | .vsigm d a => Sys2Proof.Machine.execVsigm d a s
  | .vsilu d a => Sys2Proof.Machine.execVsilu d a s
  | .vgelu d a => Sys2Proof.Machine.execVgelu d a s
  | .vcvt d a o => Sys2Proof.Machine.execVcvt d a o s
  | .vquant d a => Sys2Proof.Machine.execVquant d a s
  | .vdquant d a => Sys2Proof.Machine.execVdquant d a s
  | .vrsum d a c => Sys2Proof.Machine.execVrsum d a c s
  | .vrmax d a => Sys2Proof.Machine.execVrmax d a s
  | .vrmin d a => Sys2Proof.Machine.execVrmin d a s
  | .vsmaxo d a b => Sys2Proof.Machine.execVsmaxo d a b s
  | .vsmaxf d a b => Sys2Proof.Machine.execVsmaxf d a b s
  | .vrot d a b h => Sys2Proof.Machine.execVrot d a b h s
  | .vrng d b => Sys2Proof.Machine.execVrng d b s
  | .vsample d a b => Sys2Proof.Machine.execVsample d a b s
  | .vargmax d a => Sys2Proof.Machine.execVargmax d a s
  | .curadvG d a b => Sys2Proof.Machine.execCuradvG d a b s
  | .curadvP d a b => Sys2Proof.Machine.execCuradvP d a b s
  | .fracc d a b => Sys2Proof.Machine.execFracc d a b s
  | .strunc d a b => Sys2Proof.Machine.execStrunc d a b s
  | .scommit d a b => Sys2Proof.Machine.execScommit d a b s
  | .ssnap d a b => Sys2Proof.Machine.execSsnap d a b s
  | .kvalloc d a b => Sys2Proof.Machine.execKvalloc d a b s
  | .kvfree d a b => Sys2Proof.Machine.execKvfree d a b s
  | .kvborrow d a b => Sys2Proof.Machine.execKvborrow d a b s
  | .slsend d a b => Sys2Proof.Machine.execSlsend d a b s
  | .slcancel d a b => Sys2Proof.Machine.execSlcancel d a b s
  | .nop => Sys2Proof.Machine.execNop s
  | .trapCode n => Sys2Proof.Machine.execTrapCode n s
  | .trapRestartStep => Sys2Proof.Machine.execTrapRestartStep s
  | .trapRollBack => Sys2Proof.Machine.execTrapRollBack s
  | .trapKillContext => Sys2Proof.Machine.execTrapKillContext s
  | .trapEndUnit => Sys2Proof.Machine.execTrapEndUnit s
  | .tret => Sys2Proof.Machine.execTret s
  | .crr d n => Sys2Proof.Machine.execCrr d n s
  | .crw d n => Sys2Proof.Machine.execCrw d n s
  | .crx d n => Sys2Proof.Machine.execCrx d n s
  | .brk => Sys2Proof.Machine.execBrk s
  | .dictld a b => Sys2Proof.Machine.execDictld a b s
  | .ifence => Sys2Proof.Machine.execIfence s
  | .dictionaryPair j k => Sys2Proof.Machine.execDictionaryPair j k s
  | .splitWrite value => Sys2Proof.Machine.execSplitWrite value s
  | .splitTakesEffect die => Sys2Proof.Machine.execSplitTakesEffect die s
  | .tinv value => Sys2Proof.Machine.execTinv value s
  | .watchpointArm n value => Sys2Proof.Machine.execWatchpointArm n value s
  | .watchpointDisarm n value => Sys2Proof.Machine.execWatchpointDisarm n value s
  | .fetchLine va => Sys2Proof.Machine.execFetchLine va s
  | .scalarAccessPerform rank index => Sys2Proof.Machine.execScalarAccessPerform rank index s
  | .scalarAccessReply rank index => Sys2Proof.Machine.execScalarAccessReply rank index s
  | .translationWalk die => Sys2Proof.Machine.execTranslationWalk die s
  | .walkReadReturn die index => Sys2Proof.Machine.execWalkReadReturn die index s
  | .engineCommandStart rank eng num => Sys2Proof.Machine.execEngineCommandStart rank eng num s
  | .cpeBeat rank num => Sys2Proof.Machine.execCpeBeat rank num s
  | .engineCommandComplete rank eng num => Sys2Proof.Machine.execEngineCommandComplete rank eng num s
  | .engineFaultTrap rank => Sys2Proof.Machine.execEngineFaultTrap rank s
  | .pairMeet rank => Sys2Proof.Machine.execPairMeet rank s
  | .pairCommit rank => Sys2Proof.Machine.execPairCommit rank s
  | .pairAbandon rank => Sys2Proof.Machine.execPairAbandon rank s
  | .pushLand index => Sys2Proof.Machine.execPushLand index s
  | .promoteHeadgateStep rank num => Sys2Proof.Machine.execPromoteHeadgateStep rank num s
  | .rampStep die high => Sys2Proof.Machine.execRampStep die high s
  | .syncEngineOperation die => Sys2Proof.Machine.execSyncEngineOperation die s
  | .waitSatisfied rank => Sys2Proof.Machine.execWaitSatisfied rank s
  | .spinLimitExpiry rank => Sys2Proof.Machine.execSpinLimitExpiry rank s
  | .spawnPacketAccept index => Sys2Proof.Machine.execSpawnPacketAccept index s
  | .workDispatch rank => Sys2Proof.Machine.execWorkDispatch rank s
  | .continuationStart rank => Sys2Proof.Machine.execContinuationStart rank s
  | .sweepAdmission sweep => Sys2Proof.Machine.execSweepAdmission sweep s
  | .walkerExpand die sweep => Sys2Proof.Machine.execWalkerExpand die sweep s
  | .sweepDieReport die sweep => Sys2Proof.Machine.execSweepDieReport die sweep s
  | .stepRestart rank cause => Sys2Proof.Machine.execStepRestart rank cause s
  | .coreOutOfService rank => Sys2Proof.Machine.execCoreOutOfService rank s
  | .groupStart die sweep => Sys2Proof.Machine.execGroupStart die sweep s
  | .groupRestore die index => Sys2Proof.Machine.execGroupRestore die index s
  | .groupReserve die index => Sys2Proof.Machine.execGroupReserve die index s
  | .preemptionRequest die => Sys2Proof.Machine.execPreemptionRequest die s
  | .forcedSave rank => Sys2Proof.Machine.execForcedSave rank s
  | .lineTransfer stack line => Sys2Proof.Machine.execLineTransfer stack line s
  | .laneTest stack pch => Sys2Proof.Machine.execLaneTest stack pch s
  | .evacuationLineMove stack line => Sys2Proof.Machine.execEvacuationLineMove stack line s
  | .cacheLineReplacement stack line => Sys2Proof.Machine.execCacheLineReplacement stack line s
  | .sensorSample readings => Sys2Proof.Machine.execSensorSample readings s
  | .epochEnd => Sys2Proof.Machine.execEpochEnd s
  | .marketResultsArrive => Sys2Proof.Machine.execMarketResultsArrive s
  | .railSwitch die cluster => Sys2Proof.Machine.execRailSwitch die cluster s
  | .energyMeterExhausted die cluster => Sys2Proof.Machine.execEnergyMeterExhausted die cluster s
  | .launch queue => Sys2Proof.Machine.execLaunch queue s
  | .streamOpen queue => Sys2Proof.Machine.execStreamOpen queue s
  | .frame queue => Sys2Proof.Machine.execFrame queue s
  | .playbackReport queue => Sys2Proof.Machine.execPlaybackReport queue s
  | .streamClose queue => Sys2Proof.Machine.execStreamClose queue s
  | .batchOpen queue => Sys2Proof.Machine.execBatchOpen queue s
  | .batchClose queue => Sys2Proof.Machine.execBatchClose queue s
  | .batchTick index => Sys2Proof.Machine.execBatchTick index s
  | .killContext queue => Sys2Proof.Machine.execKillContext queue s
  | .saveContext queue => Sys2Proof.Machine.execSaveContext queue s
  | .restoreContext queue => Sys2Proof.Machine.execRestoreContext queue s
  | .snapshotCopyDone index => Sys2Proof.Machine.execSnapshotCopyDone index s
  | .blockSend die channel => Sys2Proof.Machine.execBlockSend die channel s
  | .blockArrival index => Sys2Proof.Machine.execBlockArrival index s
  | .blockLandingCheck die channel => Sys2Proof.Machine.execBlockLandingCheck die channel s
  | .blockCommit die channel => Sys2Proof.Machine.execBlockCommit die channel s
  | .committedAckArrival index => Sys2Proof.Machine.execCommittedAckArrival index s
  | .cancelProcess die channel => Sys2Proof.Machine.execCancelProcess die channel s
  | .cancelAckArrival index => Sys2Proof.Machine.execCancelAckArrival index s
  | .retransmitTimeout die channel seq => Sys2Proof.Machine.execRetransmitTimeout die channel seq s
  | .sluiceStop die channel => Sys2Proof.Machine.execSluiceStop die channel s
  | .sluiceGo die channel => Sys2Proof.Machine.execSluiceGo die channel s
  | .packageLost package => Sys2Proof.Machine.execPackageLost package s
  | .fabricRequestArrival port source seq op => Sys2Proof.Machine.execFabricRequestArrival port source seq op s
  | .fabricReplayTimeout port seq => Sys2Proof.Machine.execFabricReplayTimeout port seq s
  | .fabricRequestExpiry port seq => Sys2Proof.Machine.execFabricRequestExpiry port seq s
  | .planeFailure plane => Sys2Proof.Machine.execPlaneFailure plane s
  | .retrainFailure dieA dieB => Sys2Proof.Machine.execRetrainFailure dieA dieB s
  | .trapRecordLand ctx => Sys2Proof.Machine.execTrapRecordLand ctx s
  | .contextKill ctx cause => Sys2Proof.Machine.execContextKill ctx cause s
  | .rollback ctx cause => Sys2Proof.Machine.execRollback ctx cause s
  | .memrd port ctx va size => Sys2Proof.Machine.execMemrd port ctx va size s
  | .memwr port ctx va data => Sys2Proof.Machine.execMemwr port ctx va data s
  | .hostAtomic port ctx va op wide operand compare => Sys2Proof.Machine.execHostAtomic port ctx va op wide operand compare s
  | .qwrite port queue packet => Sys2Proof.Machine.execQwrite port queue packet s
  | .qbind port queue ctx => Sys2Proof.Machine.execQbind port queue ctx s
  | .ctxset port ctx pa => Sys2Proof.Machine.execCtxset port ctx pa s
  | .ctxdrop port ctx => Sys2Proof.Machine.execCtxdrop port ctx s
  | .pooladd port ctx die list count => Sys2Proof.Machine.execPooladd port ctx die list count s
  | .spgrant port die ctx first count => Sys2Proof.Machine.execSpgrant port die ctx first count s
  | .keyload port slot wrapped => Sys2Proof.Machine.execKeyload port slot wrapped s
  | .keyzap port slot => Sys2Proof.Machine.execKeyzap port slot s
  | .keySlotFlushDone slot => Sys2Proof.Machine.execKeySlotFlushDone slot s
  | .mgmtrd port address => Sys2Proof.Machine.execMgmtrd port address s
  | .mgmtwr port address value => Sys2Proof.Machine.execMgmtwr port address value s
  | .pbudget port value => Sys2Proof.Machine.execPbudget port value s
  | .rampt port die value => Sys2Proof.Machine.execRampt port die value s
  | .elogSelect port stack value => Sys2Proof.Machine.execElogSelect port stack value s
  | .energySelect port value => Sys2Proof.Machine.execEnergySelect port value s
  | .sensclr port value => Sys2Proof.Machine.execSensclr port value s
  | .portLosesLink port => Sys2Proof.Machine.execPortLosesLink port s
  | .powerOn signatureOk retired => Sys2Proof.Machine.execPowerOn signatureOk retired s
  | .resetPin => Sys2Proof.Machine.execResetPin s
  | .spgrantTakesEffect die => Sys2Proof.Machine.execSpgrantTakesEffect die s

end Sys2Proof.Machine
end

