-- ==== Sys2Proof/Machine/Internal.lean ====
section
/-!
DEFINITION. Which event the package does of itself when the agenda names none and the unit in focus cannot go on (log 1): the
first of a fixed order of candidates that would change the state.
-/
namespace Sys2Proof.Machine

/-- What an event does. -/
abbrev Act := State → Out

/-- Events of a unit's engines. -/
def engineEvents (rank : Nat) (u : Core) : List Act :=
  let one := fun (e : EngId) (q : List Cmd) => (q.map fun c => match c.st with
    | .queued => [execEngineCommandStart rank e c.num]
    | .running => [execCpeBeat rank c.num, execPromoteHeadgateStep rank c.num, execEngineCommandComplete rank e c.num]
    | _ => []).flatten
  one .cpe u.cpe.queue ++ one .mat u.mat.queue ++ one .vec u.vec.queue
    ++ u.outgoing.map (fun o => execEngineCommandComplete rank .cpe o.cmd.num)
    ++ (if u.half.isSome then [execPairMeet rank, execPairCommit rank] else [])

/-- Events of a unit's accesses, waits and restores. -/
def unitEvents (cur rank : Nat) (u : Core) : List Act :=
  ((List.range (u.stores.length + u.loads.length + if u.pend.isSome then 1 else 0)).map fun i => [execScalarAccessPerform rank i, execScalarAccessReply rank i]).flatten
    ++ (if u.starting.isSome then [execContinuationStart rank] else [])
    ++ (if rank = cur then [] else [execWaitSatisfied rank, execSpinLimitExpiry rank])
    ++ (if u.ctl.prq then [execForcedSave rank] else [])

/-- Events of a die's walker, engine and memories. -/
def dieEvents (die : Nat) (d : Die) : List Act :=
  (if d.missq.isEmpty then [] else [execTranslationWalk die])
    ++ (List.range d.walks.length).map (execWalkReadReturn die)
    ++ (if d.syncOps.isEmpty then [] else [execSyncEngineOperation die])
    ++ (if d.splitTo.isEmpty then [] else [execSplitTakesEffect die])
    ++ (if d.handovers.isEmpty then [] else [execSpgrantTakesEffect die])

/-- Events of a die's scheduler. -/
def schedEvents (die : Nat) (d : Die) : List Act :=
  (d.sweeps.map fun x => [execWalkerExpand die x.id, execSweepDieReport die x.id, execGroupStart die x.id]).flatten
    ++ (if d.ready.isEmpty && d.memReady.isEmpty && d.priv.isEmpty && d.sweeps.isEmpty then []
        else (List.range d.ready.length).map (execGroupRestore die) ++ (ranksOfDie die).map execWorkDispatch
          ++ (List.range (d.ready.length + d.sweeps.length + 8)).map (execGroupReserve die) ++ [execPreemptionRequest die])

/-- Events of a die's sluice in a package. -/
def sluiceEvents (pkg die : Nat) (d : Die) : List Act :=
  (d.chans.map fun c => ((c.2.sentTo.filter fun r => r.1 / 64 = pkg).map fun r =>
      [execSluiceStop die (r.1 * 16 + c.1), execSluiceGo die (r.1 * 16 + c.1)]).flatten ++ [execBlockSend die c.1]).flatten
    ++ (d.slRecv.map fun r => let k := r.src * 16 + r.chan; [execBlockLandingCheck die k, execBlockCommit die k, execCancelProcess die k]).flatten

/-- The event that admits the head of a queue. -/
def packetEvent (q : Nat) (p : List Byte) : Act := match natAt p 0 1 with
  | 2 => execStreamOpen q
  | 3 => execFrame q
  | 4 => execPlaybackReport q
  | 5 => execStreamClose q
  | 6 => execBatchOpen q
  | 7 => execBatchClose q
  | 8 => execKillContext q
  | 9 => execSaveContext q
  | 10 => execRestoreContext q
  | _ => execLaunch q

/-- A limiter of a die has something to do: commands, levels or arrays of its rail, or a cluster that is to leave it. -/
def State.rampBusy (s : State) (die : Nat) (high : Bool) : Bool :=
  !s.rampRests die high
    || (s.die die).clusters.any fun c => c.2.railHigh == high && (c.2.pendingRail.isSome || c.2.joining)

/-- Candidates, in order. -/
def State.internalEvents (s : State) : List Act :=
  let us := s.units
  let ds := s.dies
  let perUnit := fun (f : Nat → Core → List Act) => (us.map fun u => f u.1 u.2).flatten
  let perDie := fun (f : Nat → Die → List Act) => (ds.map fun d => f d.1 d.2).flatten
  perUnit (unitEvents s.cur) ++ perDie dieEvents ++ perUnit engineEvents
    ++ ((us.map fun u => dieOf u.1).eraseDups.map fun d => ([false, true].filter (s.rampBusy d)).map (execRampStep d)).flatten
    ++ s.ctxs.map (fun c => execTrapRecordLand c.1)
    ++ (List.range s.spawns.length).map execSpawnPacketAccept ++ (List.range s.pushes.length).map execPushLand
    ++ (s.nextQueue.toList ++ s.host.admitting).map (fun q => packetEvent q ((s.packetsOf q).headD []))
    ++ (if s.host.waiting.isEmpty then [] else [fun s => .next s.portsGo])
    ++ s.head.sweeps.map (fun w => execSweepAdmission w.id)
    ++ perDie schedEvents
    ++ (List.range s.head.snaps.length).map execSnapshotCopyDone ++ (List.range s.head.batches.length).map execBatchTick
    ++ s.host.keyWork.map (fun k => execKeySlotFlushDone k.1)
    ++ perDie (sluiceEvents s.fab.pkg)
    ++ ((List.range s.fab.msgs.length).map fun i => [execBlockArrival i, execCommittedAckArrival i, execCancelAckArrival i]).flatten
    ++ (s.hbm.map fun k => (k.2.episodes.map fun e => [execLineTransfer k.1 e.line, execLaneTest k.1 e.pch]).flatten).flatten
    ++ (ds.map fun d => (d.2.clusters.filter fun c => c.2.pendingRail.isSome || c.2.joining).map fun c => execRailSwitch d.1 c.1).flatten
    ++ perUnit fun r u => if u.half.isSome then [execPairAbandon r] else []

/-- An event would change the state, if only by a request that it sends. -/
def State.hasEffect (s : State) (i : Act) : Bool := match i s with
  | .next t => decide ((if t.held then s.takeBack t else t) ≠ s)
  | _ => true

/-- The next event of the package itself, if one would have an effect. -/
def State.internalEvent (s : State) : Option Act := s.internalEvents.find? s.hasEffect

/-- The running unit after the one in focus, in the order of ranks and round again. -/
def State.nextUnit (s : State) : Option Nat :=
  let rs := (s.others.filter fun u => u.2.unit.running).map (·.1)
  match rs.find? fun r => decide (s.cur < r) with
  | some r => some r
  | none => rs.head?

end Sys2Proof.Machine
end

