-- ==== Sys2Proof/Machine/Step.lean ====
section
/-!
DEFINITION. One step of the package: the agenda says whose turn it is; a turn of a unit fetches a word, decodes it and runs
it. Fetching, time and the operations a step uses stand in Ops.lean.
-/
namespace Sys2Proof.Machine

/-- The outcome of a turn: it is taken back where an access of it is held (log 132); else every context and group settles (24
R390, R393; 14 R261). -/
def settled (before : State) : Host.Outcome State Fault Refusal → Host.Outcome State Fault Refusal
  | .next t => .next (if t.held then before.takeBack t else t.partDone.settleAll)
  | r => r

/-- Decode a word in its place and run it; a word that is no instruction raises ILLEGAL_INSTR (01 R17). A load or atomic
issues and performs later where that is asked for, or where an earlier one has not returned; a word that may not issue
behind those waits (02 R34, R407). -/
def runWord (late : Bool) (s : State) (w : WordHere) : Host.Outcome State Fault Refusal :=
  if !s.core.mayIssue w.word then .next s.stalled
  else match decode w.word with
    | .ok i => match if late || !s.core.loads.isEmpty then s.issueLate w i else none with
      | some t => .next t
      | none => if s.core.loads.isEmpty || (s.access i).isNone then exec i (s.begin w) else .next s.stalled
    | .error _ => (s.begin w).illegal

/-- Fetch the word at the pc and run it. -/
def runFetched (late : Bool) (s : State) : Host.Outcome State Fault Refusal :=
  match s.fetchWord s.core.wordAddr with
  | .wait s1 => .next s1.stalled
  | .fault c t s1 => s1.raise c t
  | .ok w s1 => if s1.core.pairMissing w then (s1.begin { word := w }).illegal else runWord late s1 { word := w }

/-- The unit in focus cannot go on: it stands, but for a word that it is inside of, where it waits for its next turn. -/
def State.blocked (s : State) : State := if s.core.unit.running && s.core.stall == .none then s.stalled else s

/-- The turn of the unit in focus: one that is to stop goes no further than its command boundary (24 R384, R391); it waits for
the fence of its packet (10 R204); a pending engine fault at the boundary before its word (24 R376), once every earlier access
has returned; a selected dictionary half (01 R19), or the word at its pc. -/
def unitTurn (late : Bool) (s : State) : Host.Outcome State Fault Refusal :=
  if !s.core.unit.running then .next s
  else if s.stopping s.ctx && !s.core.inWord then .next s.blocked
  else match s.passFence with
    | none => .next s.stalled
    | some s =>
      if s.core.faultDue then if s.core.loads.isEmpty then execEngineFaultTrap s.cur s else .next s.stalled
      else s.accept (match s.core.sel with
        | some w => runWord late s w
        | none => runFetched late s)

/-- A unit's turn. -/
def takeTurn (late : Bool) (s : State) : Host.Outcome State Fault Refusal := settled s.blocked (unitTurn late s)

/-- An event. -/
def takeEvent (e : Act) (s : State) : Host.Outcome State Fault Refusal := settled s (e s)

/-- What the package does of itself: an event, or a turn of the next running unit, or of the unit in focus. -/
def ownTurn (s : State) : Host.Outcome State Fault Refusal :=
  match s.internalEvent with
  | some e => takeEvent e s.elapse
  | none => match s.nextUnit with
    | some r => takeTurn false (s.elapse.focus r)
    | none => takeTurn false s.elapse

/-- A turn of a part that is still booting: an event that arrives, or the next stage (25 R406). -/
def bootTurn (s : State) (b : Boot) : Host.Outcome State Fault Refusal :=
  match s.agenda with
  | .event i :: r => takeEvent (exec i) { s.elapse with agenda := r }
  | _ :: r => .next ({ s.elapse with agenda := r }.bootStage b)
  | [] => .next (s.elapse.bootStage b)

/-- What the agenda gives, or what the package does of itself: a turn of the unit in focus while it can go on, at most 256
in a row (03 R69), else an event, else a turn of the next running unit. -/
def turn (s : State) : Host.Outcome State Fault Refusal :=
  match s.agenda with
  | .event i :: r => takeEvent (exec i) { s.elapse with agenda := r }
  | .unit k :: r => takeTurn false (({ s.elapse with agenda := r }).focus k)
  | .late k :: r => takeTurn true (({ s.elapse with agenda := r }).focus k)
  | [] =>
    if s.core.idle || decide (256 ≤ s.turns) then ownTurn { s with turns := 0 }
    else takeTurn false { s.elapse with turns := s.turns + 1 }

/-- A halted part starts again only by its power or its reset pin. -/
def State.restarts (s : State) : Bool := match s.agenda with
  | .event (.powerOn _ _) :: _ => true
  | .event .resetPin :: _ => true
  | _ => false

/-- One step. -/
def step (s : State) : Host.Outcome State Fault Refusal :=
  if s.halted && !s.restarts then .fault .halted
  else match s.host.boot with
    | some b => bootTurn s b
    | none => turn s

/-- The state with a word placed where the next step fetches: in the fetch buffer of the unit in focus, which runs. -/
def State.withFetchWord (s : State) (_nbits w : Nat) : State :=
  let pc := BitVec.ofNat 64 (s.core.pc.toNat % 2 ^ 57 / 4 * 4)
  let off := pc.toNat % 128
  let line : FetchLine := { line := pc.toNat / 128, bytes := zeros off ++ bytesOf 4 w ++ zeros (124 - off) }
  { s with agenda := [], halted := false, turns := 0, held := false, host := { s.host with boot := none },
           core := { s.core with pc := pc, fetchBuf := [line], sel := none, stall := .none, faults := [], loads := [],
                                 unit := { s.core.unit with running := true, fence := none } } }

end Sys2Proof.Machine
end

