-- ==== Sys2Proof/Safety.lean ====
section
/-!
DEFINITION. What counts as a safe run, and the terms statements use: what a word of the front end may change, and how a
word that writes a register completes.
-/
namespace Sys2Proof.Machine

/-- The state after n steps, or none when a step stops. -/
def run : Nat → State → Option State
  | 0, s => some s
  | n + 1, s => match step s with
    | .next t => run n t
    | _ => none

/-- A run of n steps from a state is safe: no step faults and none is refused. -/
def SafeFor (n : Nat) (s : State) : Prop := (run n s).isSome = true

/-- Every byte of every memory of the package reads as before. -/
def SameMemory (s t : State) : Prop := ∀ k, Memory.read t.mem k = Memory.read s.mem k

/-- A state differs from another only in the unit in focus, and there only in its general registers, its position, its loop
levels, its event counters, and the notes that end with a word. Every special register, descriptor, queue and every other
part of the package is as before. -/
def FrontFrame (s t : State) : Prop :=
  SameMemory s t ∧
  t = { s with core := { s.core with
    regs := t.core.regs, pc := t.core.pc, loops := t.core.loops, ctl := { s.core.ctl with evcnt := t.core.ctl.evcnt },
    sel := none, stall := .none, pend := none } }

/-- Address of the word in execution for the end of a loop (02 R47): that of its pair for a dictionary half. -/
def Core.loopAddr (u : Core) : Word := if u.ir.index.isSome then u.pc - 2#64 else u.pc

/-- No active level of the loop bank in force ends at the word in execution. -/
def NoLoopEnd (s : State) : Prop :=
  ∀ l ∈ (bankOf s.core s.core.ctl.tlevel).toList, l.active = true → l.stop ≠ s.core.loopAddr

/-- Control passes to the position after the word in execution, and every loop level stays, unless an active loop ends
there. -/
def GoesOn (s t : State) : Prop := NoLoopEnd s → t.core.pc = s.core.nextPos ∧ t.core.loops = s.core.loops

/-- A word completes with one register result (02 R31): g0 discards it; every other register keeps its value. -/
def WritesReg (s t : State) (d : RegNo) (v : Word) : Prop :=
  FrontFrame s t ∧ GoesOn s t ∧ t.reg d = (if d = 0#6 then 0#64 else v) ∧ ∀ r, r ≠ d → t.reg r = s.reg r

end Sys2Proof.Machine
end

