-- ==== Sys2Proof/Certificates/Slice0/Obligations.lean ====
section
/-!
DEFINITION. The statements for the provers.
-/
namespace Sys2Proof.Claims
open Sys2Proof Sys2Proof.Machine

/-- The word completes in the state, writing one register: a value with the property, nothing else changed. -/
def Results (s : State) (i : Instr) (d : RegNo) (P : Word → Prop) : Prop :=
  ∃ v t, P v ∧ exec i s = .next t ∧ WritesReg s t d v

/-- The word raises a precise fault: the cause and TVAL named, at its own position. -/
def Raises (s : State) (i : Instr) (cause : Nat) (tval : Word) : Prop :=
  exec i s = .next (s.raiseWith cause tval 0#32 s.core.pc)

/-- A number as a signed 32-bit value. -/
def s32 (n : Int) : Int := n.bmod (2 ^ 32)

end Sys2Proof.Claims

section
open Sys2Proof Sys2Proof.Machine Sys2Proof.Claims

/-- 02 R37, Table 13: the result of every ALU word, for all operand values; none traps. -/
def Obligations.AluResults : Prop := ∀ (s : State) (d a b : RegNo),
  let x := s.reg a
  let y := s.reg b
  let n := y.toNat % 64
  let m := y.toNat % 32
  Results s (.add d a b) d (fun v => v.toNat = (x.toNat + y.toNat) % 2 ^ 64) ∧
  Results s (.sub d a b) d (fun v => (v.toNat : Int) = ((x.toNat : Int) - y.toNat) % 2 ^ 64) ∧
  Results s (.andR d a b) d (fun v => ∀ k < 64, v.getLsbD k = (x.getLsbD k && y.getLsbD k)) ∧
  Results s (.orR d a b) d (fun v => ∀ k < 64, v.getLsbD k = (x.getLsbD k || y.getLsbD k)) ∧
  Results s (.xorR d a b) d (fun v => ∀ k < 64, v.getLsbD k = (x.getLsbD k != y.getLsbD k)) ∧
  Results s (.andn d a b) d (fun v => ∀ k < 64, v.getLsbD k = (x.getLsbD k && !y.getLsbD k)) ∧
  Results s (.sll d a b) d (fun v => v.toNat = x.toNat * 2 ^ n % 2 ^ 64) ∧
  Results s (.srl d a b) d (fun v => v.toNat = x.toNat / 2 ^ n) ∧
  Results s (.sra d a b) d (fun v => v.toInt = x.toInt / 2 ^ n) ∧
  Results s (.ror d a b) d (fun v => v.toNat = x.toNat / 2 ^ n + x.toNat % 2 ^ n * 2 ^ (64 - n)) ∧
  Results s (.slt d a b) d (fun v => v.toNat = if x.toInt < y.toInt then 1 else 0) ∧
  Results s (.sltu d a b) d (fun v => v.toNat = if x.toNat < y.toNat then 1 else 0) ∧
  Results s (.minS d a b) d (fun v => v.toInt = min x.toInt y.toInt) ∧
  Results s (.maxS d a b) d (fun v => v.toInt = max x.toInt y.toInt) ∧
  Results s (.minu d a b) d (fun v => v.toNat = min x.toNat y.toNat) ∧
  Results s (.maxu d a b) d (fun v => v.toNat = max x.toNat y.toNat) ∧
  Results s (.addw d a b) d (fun v => v.toInt = s32 (x.toInt + y.toInt)) ∧
  Results s (.subw d a b) d (fun v => v.toInt = s32 (x.toInt - y.toInt)) ∧
  Results s (.sllw d a b) d (fun v => v.toInt = s32 (x.toInt * 2 ^ m)) ∧
  Results s (.srlw d a b) d (fun v => v.toInt = s32 (x.toNat % 2 ^ 32 / 2 ^ m : Nat)) ∧
  Results s (.sraw d a b) d (fun v => v.toInt = s32 x.toInt / 2 ^ m) ∧
  Results s (.clz d a) d (fun v => v.toNat = if x.toNat = 0 then 64 else 63 - x.toNat.log2) ∧
  Results s (.ctz d a) d (fun v => (x.toNat = 0 → v.toNat = 64) ∧
    (x.toNat ≠ 0 → v.toNat < 64 ∧ x.toNat % 2 ^ v.toNat = 0 ∧ x.toNat / 2 ^ v.toNat % 2 = 1)) ∧
  Results s (.popc d a) d (fun v => v.toNat = (List.range 64).countP fun k => x.getLsbD k) ∧
  Results s (.sextb d a) d (fun v => v.toInt = x.toInt.bmod (2 ^ 8)) ∧
  Results s (.sexth d a) d (fun v => v.toInt = x.toInt.bmod (2 ^ 16)) ∧
  Results s (.sextw d a) d (fun v => v.toInt = s32 x.toInt) ∧
  Results s (.zextw d a) d (fun v => v.toNat = x.toNat % 2 ^ 32)

/-- 02 R38: the result of every immediate word; a shift word takes its count from the word. -/
def Sys2Proof.Claims.ImmediateResults : Prop := ∀ (s : State) (d a : RegNo) (k : BitVec 14) (e : BitVec 6),
  let x := s.reg a
  Results s (.addi d a k) d (fun v => v.toInt = (x.toInt + k.toInt).bmod (2 ^ 64)) ∧
  Results s (.andi d a k) d (fun v => ∀ n < 64, v.getLsbD n = (x.getLsbD n && k.getLsbD n)) ∧
  Results s (.ori d a k) d (fun v => ∀ n < 64, v.getLsbD n = (x.getLsbD n || k.getLsbD n)) ∧
  Results s (.xori d a k) d (fun v => ∀ n < 64, v.getLsbD n = (x.getLsbD n != k.getLsbD n)) ∧
  Results s (.slti d a k) d (fun v => v.toNat = if x.toInt < k.toInt then 1 else 0) ∧
  Results s (.sltiu d a k) d (fun v => v.toNat = if (x.toNat : Int) < k.toInt % 2 ^ 64 then 1 else 0) ∧
  Results s (.slli d a e) d (fun v => v.toNat = x.toNat * 2 ^ e.toNat % 2 ^ 64) ∧
  Results s (.srli d a e) d (fun v => v.toNat = x.toNat / 2 ^ e.toNat) ∧
  Results s (.srai d a e) d (fun v => v.toInt = x.toInt / 2 ^ e.toNat) ∧
  Results s (.rori d a e) d (fun v => v.toNat = x.toNat / 2 ^ e.toNat + x.toNat % 2 ^ e.toNat * 2 ^ (64 - e.toNat))

/-- 02 R39: the constant words; LIM and LIH replace 16 bits of gD and keep the others. -/
def Sys2Proof.Claims.ConstantResults : Prop := ∀ (s : State) (d : RegNo) (k : BitVec 20) (h : BitVec 16),
  let x := s.reg d
  Results s (.lui d k) d (fun v => v.toInt = k.toInt * 4096) ∧
  Results s (.lim d h) d (fun v => ∀ n < 64, v.getLsbD n = if 32 ≤ n ∧ n < 48 then h.getLsbD (n - 32) else x.getLsbD n) ∧
  Results s (.lih d h) d (fun v => ∀ n < 64, v.getLsbD n = if 48 ≤ n then h.getLsbD (n - 48) else x.getLsbD n) ∧
  Results s (.addpc d k) d (fun v => v.toInt = (s.core.pc.toInt + k.toInt * 4096).bmod (2 ^ 64))

/-- 02 R40: the multiply words; none traps or saturates. -/
def Obligations.MultiplyResults : Prop := ∀ (s : State) (d a b : RegNo),
  let x := s.reg a
  let y := s.reg b
  Results s (.mul d a b) d (fun v => v.toNat = x.toNat * y.toNat % 2 ^ 64) ∧
  Results s (.mulh d a b) d (fun v => v.toInt = x.toInt * y.toInt / 2 ^ 64) ∧
  Results s (.mulhu d a b) d (fun v => v.toNat = x.toNat * y.toNat / 2 ^ 64) ∧
  Results s (.mulw d a b) d (fun v => v.toInt = s32 (x.toInt * y.toInt))

/-- 02 R41: the divide words with a divisor of zero and FECTL.DZT = 0, or any other divisor: the quotient rounds toward zero,
the remainder takes the sign of the dividend, and −2^(n−1) / −1 wraps. -/
def Sys2Proof.Claims.DivideResults : Prop := ∀ (s : State) (d a b : RegNo),
  let x := s.reg a
  let y := s.reg b
  (s.core.ctl.dzt = false ∨ y.toNat ≠ 0 →
    Results s (.div d a b) d (fun v => v.toInt = if y.toInt = 0 then -1 else (x.toInt.tdiv y.toInt).bmod (2 ^ 64)) ∧
    Results s (.divu d a b) d (fun v => v.toNat = if y.toNat = 0 then 2 ^ 64 - 1 else x.toNat / y.toNat) ∧
    Results s (.rem d a b) d (fun v => v.toInt = if y.toInt = 0 then x.toInt else x.toInt.tmod y.toInt) ∧
    Results s (.remu d a b) d (fun v => v.toNat = if y.toNat = 0 then x.toNat else x.toNat % y.toNat)) ∧
  (s.core.ctl.dzt = false ∨ y.toNat % 2 ^ 32 ≠ 0 →
    Results s (.divw d a b) d (fun v => v.toInt = if s32 y.toInt = 0 then -1 else s32 ((s32 x.toInt).tdiv (s32 y.toInt))) ∧
    Results s (.divuw d a b) d (fun v => v.toInt =
      if y.toNat % 2 ^ 32 = 0 then -1 else s32 (x.toNat % 2 ^ 32 / (y.toNat % 2 ^ 32) : Nat)) ∧
    Results s (.remw d a b) d (fun v => v.toInt = if s32 y.toInt = 0 then s32 x.toInt else s32 ((s32 x.toInt).tmod (s32 y.toInt))) ∧
    Results s (.remuw d a b) d (fun v => v.toInt =
      if y.toNat % 2 ^ 32 = 0 then s32 x.toInt else s32 (x.toNat % 2 ^ 32 % (y.toNat % 2 ^ 32) : Nat)))

/-- 02 R41: with FECTL.DZT = 1 every divide word whose divisor is zero raises DIV_ZERO, and gD is not written. -/
def Sys2Proof.Claims.DivideByZeroTraps : Prop := ∀ (s : State) (d a b : RegNo), s.core.ctl.dzt = true →
  ((s.reg b).toNat = 0 → ∀ i ∈ ([.div d a b, .divu d a b, .rem d a b, .remu d a b] : List Instr), Raises s i 0x003 s.core.wordTval) ∧
  ((s.reg b).toNat % 2 ^ 32 = 0 → ∀ i ∈ ([.divw d a b, .divuw d a b, .remw d a b, .remuw d a b] : List Instr),
    Raises s i 0x003 s.core.wordTval)

/-- 02 R43: the words that build and take apart tagged pointers; none checks that its result names anything. -/
def Sys2Proof.Claims.PointerWords : Prop := ∀ (s : State) (d a b : RegNo),
  let x := (s.reg a).toNat
  let y := (s.reg b).toNat
  Results s (.ptag d a b) d (fun v => v.toNat =
    if x / 2 ^ 12 % 16 = 0 then y % 2 ^ 57 else x % 2 ^ 16 * 2 ^ 48 + y % 2 ^ 48) ∧
  Results s (.prank d a b) d (fun v => v.toNat =
    if x / 2 ^ 60 = 0 then x else x / 2 ^ 60 * 2 ^ 60 + y % 2 ^ 12 * 2 ^ 48 + x % 2 ^ 48) ∧
  Results s (.pspace d a) d (fun v => v.toNat = x / 2 ^ 60) ∧
  Results s (.poff d a) d (fun v => v.toNat = if x / 2 ^ 60 = 0 then x % 2 ^ 60 else x % 2 ^ 48)

/-- 02 R44: PADD adds to the offset field alone; an offset that leaves its field raises ADDR_RANGE with the pointer before
the addition. -/
def Sys2Proof.Claims.PointerAddition : Prop := ∀ (s : State) (d a b : RegNo),
  let p := (s.reg a).toNat
  let width := if p / 2 ^ 60 = 0 then 57 else 48
  let field := if p / 2 ^ 60 = 0 then 60 else 48
  let o : Int := (p % 2 ^ field : Nat) + (s.reg b).toInt
  (0 ≤ o ∧ o < 2 ^ width → Results s (.padd d a b) d (fun v => (v.toNat : Int) = (p / 2 ^ field * 2 ^ field : Nat) + o)) ∧
  (o < 0 ∨ 2 ^ width ≤ o → Raises s (.padd d a b) 0x004 (s.reg a))

end

namespace Sys2Proof.Claims
open Sys2Proof Sys2Proof.Machine

/-- Level n of the loop bank in force. -/
def level (s : State) (n : Fin 4) : LoopLevel := (bankOf s.core s.core.ctl.tlevel)[n]

/-- The loop banks that are not in force are as before. -/
def OtherBanks (s t : State) : Prop := ∀ l : BitVec 2, l ≠ s.core.ctl.tlevel → bankOf t.core l = bankOf s.core l

/-- 01 R10: a control transfer may go to a position. -/
def Target (p : Word) : Prop := p.toNat % 4 = 0 ∧ p.toNat / 2 ^ 60 = 0

/-- A taken transfer: each active level whose body holds the target stays as it is, every other becomes inactive. -/
def LeavesLoops (s t : State) (p : Word) : Prop :=
  OtherBanks s t ∧ ∀ n, if (level s n).active = true ∧ (level s n).start.toNat ≤ p.toNat ∧ p.toNat ≤ (level s n).stop.toNat
    then level t n = level s n else (level t n).active = false

/-- The word at off words from pc. -/
def wordsOn {n : Nat} (pc : Word) (off : BitVec n) : Word := BitVec.ofInt 64 (pc.toNat + off.toInt * 4)

/-- A branch that does what its condition says: taken, it goes to its target, or raises FETCH_ADDR where R10 refuses it; not
taken, it goes on and checks no target. -/
def Branches (s : State) (i : Instr) (off : BitVec 14) (cond : Prop) : Prop :=
  (¬cond → ∃ t, exec i s = .next t ∧ FrontFrame s t ∧ GoesOn s t ∧ ∀ r, t.reg r = s.reg r) ∧
  (cond → Target (wordsOn s.core.pc off) → ∃ t, exec i s = .next t ∧ FrontFrame s t ∧ t.core.pc = wordsOn s.core.pc off ∧
    LeavesLoops s t (wordsOn s.core.pc off) ∧ ∀ r, t.reg r = s.reg r) ∧
  (cond → ¬Target (wordsOn s.core.pc off) → Raises s i 0x001 (wordsOn s.core.pc off))

/-- A word that goes to a position and leaves the position after it in a register; a link other than g0 keeps every loop. -/
def Links (s : State) (i : Instr) (d : RegNo) (p : Word) : Prop :=
  (Target p → ∃ t, exec i s = .next t ∧ FrontFrame s t ∧ t.core.pc = p ∧
    t.reg d = (if d = 0#6 then 0#64 else s.core.pc + 4#64) ∧ (∀ r, r ≠ d → t.reg r = s.reg r) ∧
    (d ≠ 0#6 → ∀ n, level t n = level s n) ∧ (d = 0#6 → LeavesLoops s t p) ∧ OtherBanks s t) ∧
  (¬Target p → Raises s i 0x001 p)

end Sys2Proof.Claims

section
open Sys2Proof Sys2Proof.Machine Sys2Proof.Claims

/-- 02 R45, R48: the six branches. -/
def Sys2Proof.Claims.BranchWords : Prop := ∀ (s : State) (a b : RegNo) (off : BitVec 14),
  let x := s.reg a
  let y := s.reg b
  Branches s (.beq a b off) off (x.toNat = y.toNat) ∧ Branches s (.bne a b off) off (x.toNat ≠ y.toNat) ∧
  Branches s (.blt a b off) off (x.toInt < y.toInt) ∧ Branches s (.bge a b off) off (y.toInt ≤ x.toInt) ∧
  Branches s (.bltu a b off) off (x.toNat < y.toNat) ∧ Branches s (.bgeu a b off) off (y.toNat ≤ x.toNat)

/-- 02 R46, R48: JAL and JALR; JALR reads gA before gD is written. -/
def Sys2Proof.Claims.JumpWords : Prop := ∀ (s : State) (d a : RegNo) (off : BitVec 20) (k : BitVec 14),
  Links s (.jal d off) d (wordsOn s.core.pc off) ∧
  Links s (.jalr d a k) d (BitVec.ofInt 64 ((s.reg a).toNat + k.toInt))

/-- 02 R47, the first half: LOOP with a count sets its level, whatever the level held, and goes on into the body; with count
0 it skips the body, as a taken transfer (DESIGN CHOICE, log 111). Offset 0 is no encoding of LOOP (01 R12). -/
def Sys2Proof.Claims.LoopWord : Prop := ∀ (s : State) (a : RegNo) (n : BitVec 2) (off : BitVec 14),
  let pc := s.core.pc
  let skip : Word := BitVec.ofNat 64 (pc.toNat + 4 * (off.toNat + 1))
  (s.reg a ≠ 0#64 → off ≠ 0#14 → s.core.ctl.tlevel ≠ 3#2 → s.core.ir.index = none →
    (∀ k : Fin 4, k.val ≠ n.toNat → (level s k).active = true → (level s k).stop ≠ pc) →
    ∃ t, exec (.hwLoop a n off) s = .next t ∧ FrontFrame s t ∧ (∀ r, t.reg r = s.reg r) ∧ t.core.pc = pc + 4#64 ∧
      OtherBanks s t ∧ ∀ k : Fin 4, level t k =
        if k.val = n.toNat then { active := true, start := pc + 4#64, stop := BitVec.ofNat 64 (pc.toNat + 4 * off.toNat), remaining := s.reg a }
        else level s k) ∧
  (s.reg a = 0#64 → Target skip →
    ∃ t, exec (.hwLoop a n off) s = .next t ∧ FrontFrame s t ∧ (∀ r, t.reg r = s.reg r) ∧ t.core.pc = skip ∧ LeavesLoops s t skip) ∧
  (s.reg a = 0#64 → ¬Target skip → Raises s (.hwLoop a n off) 0x001 skip)

/-- 02 R47, the second half: one step of the loops that end at a word which completes, NOP here: levels that end there with
their last pass become inactive from the highest down, and the first with passes left goes back to its start. -/
def Sys2Proof.Claims.LoopStep : Prop := ∀ (s : State), s.core.ctl.tlevel ≠ 3#2 → s.core.ir.index = none →
  let here := fun (k : Fin 4) => (level s k).active = true ∧ (level s k).stop = s.core.pc
  (∀ n : Fin 4, here n → 1 < (level s n).remaining.toNat → (∀ k, n < k → here k → (level s k).remaining = 1#64) →
    ∃ t, exec .nop s = .next t ∧ FrontFrame s t ∧ (∀ r, t.reg r = s.reg r) ∧ t.core.pc = (level s n).start ∧ OtherBanks s t ∧
      level t n = { level s n with remaining := (level s n).remaining - 1#64 } ∧
      ∀ k, k ≠ n → if n < k ∧ here k then (level t k).active = false else level t k = level s k) ∧
  ((∀ k, here k → (level s k).remaining = 1#64) →
    ∃ t, exec .nop s = .next t ∧ FrontFrame s t ∧ (∀ r, t.reg r = s.reg r) ∧ t.core.pc = s.core.pc + 4#64 ∧ OtherBanks s t ∧
      ∀ k, if here k then (level t k).active = false else level t k = level s k)

end

namespace Sys2Proof.Claims
open Sys2Proof Sys2Proof.Machine

/-- The little-endian value of bytes (00 R8). -/
def valueOf (bs : List Byte) : Nat := bs.foldr (fun b n => b.toNat + 256 * n) 0

/-- Byte k of a value. -/
def byteOf (v k : Nat) : Byte := BitVec.ofNat 8 (v / 256 ^ k)

/-- A pointer to n bytes of the unit's own LOCAL memory that its context may reach, naturally aligned. -/
def OwnLocal (s : State) (p : Word) (n : Nat) : Prop :=
  spaceOf p = 2 ∧ resolveRank s.cur 2 (rankField p) = s.cur ∧ isCoreRank s.cur = true ∧ s.dieAllowed s.ctx (dieOf s.cur) = true ∧
  offOf p + n ≤ localSize s.cur ∧ p.toNat % n = 0

/-- Nothing of the core is on its way: its store buffer and its engine queues are empty, and no unit of its LOCAL memory is
unreadable. -/
def Quiet (s : State) : Prop := s.core.stores = [] ∧ s.core.cmdsAll = [] ∧ s.core.badLocal = []

/-- Memory holds the n bytes of a value from a key on. -/
def Holds (m : List Host.Cell) (key n v : Nat) : Prop := ∀ k < n, Memory.read m (key + k) = some (byteOf v k)

/-- Memory differs from another in n bytes from a key on, which hold a value. -/
def Stored (m m' : List Host.Cell) (key n v : Nat) : Prop :=
  Holds m' key n v ∧ ∀ k, k < key ∨ key + n ≤ k → Memory.read m' k = Memory.read m k

/-- What a memory word that accesses LOCAL memory at once may change of a state: as FrontFrame, and the count of its
accesses, its L1 and the memory itself. -/
def AccessFrame (s t : State) : Prop :=
  t = { s with mem := t.mem, core := { s.core with
    regs := t.core.regs, pc := t.core.pc, loops := t.core.loops, ctl := { s.core.ctl with evcnt := t.core.ctl.evcnt },
    sel := none, stall := .none, pend := none, seq := s.core.seq + 1, l1 := t.core.l1 } }

/-- The seven load words: size, whether the value is sign-extended, and the word of the fields. -/
def loads : List (Nat × Bool × (RegNo → RegNo → BitVec 4 → BitVec 2 → BitVec 2 → BitVec 6 → Instr)) :=
  [(1, false, .ldb), (2, false, .ldh), (4, false, .ldw), (8, false, .ldd), (1, true, .ldsb), (2, true, .ldsh), (4, true, .ldsw)]

/-- The four store words: size, and the word of the fields. -/
def stores : List (Nat × (RegNo → RegNo → BitVec 4 → BitVec 2 → BitVec 2 → BitVec 6 → Instr)) :=
  [(1, .stb), (2, .sth), (4, .stw), (8, .std)]

/-- The new value of a location of n bytes under an atomic word of Table 15 with operand y (gB) and, for the compare-and-swap
words, expected value e (gD); the old value where the word does not write. -/
def atomicNew (n old y e : Nat) : Nat → Nat
  | 0 => y % 256 ^ n
  | 1 => (old + y) % 256 ^ n
  | 2 => old &&& y % 256 ^ n
  | 3 => old ||| y % 256 ^ n
  | 4 => old ^^^ y % 256 ^ n
  | 5 => ((min ((old : Int).bmod (256 ^ n)) ((y : Int).bmod (256 ^ n))) % 256 ^ n).toNat
  | 6 => ((max ((old : Int).bmod (256 ^ n)) ((y : Int).bmod (256 ^ n))) % 256 ^ n).toNat
  | 7 => min old (y % 256 ^ n)
  | 8 => max old (y % 256 ^ n)
  | 9 => if old = e % 256 ^ n then y % 256 ^ n else old
  | _ => fadd32 old (y % 256 ^ n) % 256 ^ n

/-- The atomic words on 4 and 8 bytes: function code of Table 15, size, and the word of the fields. -/
def atomics : List (Nat × Nat × (BitVec 2 → RegNo → RegNo → RegNo → BitVec 4 → Instr)) :=
  [(0, 4, .amoswapW), (0, 8, .amoswapD), (1, 4, .amoaddW), (1, 8, .amoaddD), (2, 4, .amoandW), (2, 8, .amoandD), (3, 4, .amoorW),
   (3, 8, .amoorD), (4, 4, .amoxorW), (4, 8, .amoxorD), (5, 4, .amominW), (5, 8, .amominD), (6, 4, .amomaxW), (6, 8, .amomaxD),
   (7, 4, .amominuW), (7, 8, .amominuD), (8, 4, .amomaxuW), (8, 8, .amomaxuD), (9, 4, .casW), (9, 8, .casD), (11, 4, .amofadd)]

end Sys2Proof.Claims

section
open Sys2Proof Sys2Proof.Machine Sys2Proof.Claims

/-- 02 R50: every load word, in every space: the access answers its bytes, and gD takes their value, zero- or sign-extended;
an ar field empties the L1 (02 R52). A base whose offset leaves its field, and a fault of the access, are raised. -/
def Sys2Proof.Claims.LoadWords : Prop := ∀ (s : State) (d b : RegNo) (c : BitVec 4) (p r : BitVec 2) (o : BitVec 6),
  ∀ x ∈ loads,
  (∀ ptr bs s1, ptrAdd (s.reg b) (o.toInt * x.1) = some ptr → s.loadBytes ptr x.1 c.toNat p.toNat = .ok bs s1 →
    ∃ v t, exec (x.2.2 d b c p r o) s = .next t ∧ WritesReg (s1.acquire (arScope r)) t d v ∧
      (r ≠ 0#2 → t.core.l1 = []) ∧
      (x.2.1 = false → v.toNat = valueOf (bs.take x.1)) ∧ (x.2.1 = true → v.toInt = (valueOf (bs.take x.1) : Int).bmod (256 ^ x.1))) ∧
  (∀ ptr cause tval s1, ptrAdd (s.reg b) (o.toInt * x.1) = some ptr → s.loadBytes ptr x.1 c.toNat p.toNat = .fault cause tval s1 →
    exec (x.2.2 d b c p r o) s = .next (s1.raiseWith cause tval 0#32 s1.core.pc)) ∧
  (ptrAdd (s.reg b) (o.toInt * x.1) = none → Raises s (x.2.2 d b c p r o) 0x004 (s.reg b))

/-- 02 R50 on the core's own LOCAL memory: a load reads the bytes that stand there, and changes nothing but its register. -/
def Sys2Proof.Claims.LocalLoads : Prop := ∀ (s : State) (d b : RegNo) (c : BitVec 4) (p r : BitVec 2) (o : BitVec 6) (ptr : Word),
  ∀ x ∈ loads, ptrAdd (s.reg b) (o.toInt * x.1) = some ptr → OwnLocal s ptr x.1 → Quiet s →
  ∃ v t, exec (x.2.2 d b c p r o) s = .next t ∧ AccessFrame s t ∧ SameMemory s t ∧ GoesOn s t ∧
    t.core.l1 = (if r = 0#2 then s.core.l1 else []) ∧
    t.reg d = (if d = 0#6 then 0#64 else v) ∧ (∀ k, k ≠ d → t.reg k = s.reg k) ∧
    Holds s.mem (localKey s.cur (offOf ptr)) x.1 v.toNat ∧
    (x.2.1 = false → v.toNat < 256 ^ x.1) ∧ (x.2.1 = true → v.toInt = v.toInt.bmod (256 ^ x.1))

/-- 02 R50, R54: every store word, in every space: once its release, if any, is complete, the low bytes of gS enter the store
buffer behind every earlier store, for the place its pointer names and with the stronger of its policy and the page's (04 R83);
no byte of memory changes yet. -/
def Sys2Proof.Claims.StoreWords : Prop := ∀ (s s1 : State) (d b : RegNo) (c : BitVec 4) (p r : BitVec 2) (o : BitVec 6) (ptr : Word) (loc : Loc),
  ∀ x ∈ stores, ptrAdd (s.reg b) (o.toInt * x.1) = some ptr →
  (r = 0#2 ∧ s1 = s ∨ r ≠ 0#2 ∧ ∃ l s0, s.locate ptr x.1 x.1 .store = .ok l s0 ∧ s0.release allClasses = .ok s1 ∧ s1.reg d = s.reg d) →
  ∀ s2, s1.locate ptr x.1 x.1 .store = .ok loc s2 → s2.ownWatch ptr loc x.1 = none → s2.core.stores.length < 16 →
  ∃ t bs, exec (x.2 d b c p r o) s = .next t ∧ SameMemory s2 t ∧ (∀ k, t.reg k = s2.reg k) ∧
    t = { s2 with core := { s2.core with
      pc := t.core.pc, loops := t.core.loops, ctl := { s2.core.ctl with evcnt := t.core.ctl.evcnt },
      sel := none, stall := .none, pend := none, seq := s2.core.seq + 1,
      stores := s2.core.stores ++ [{ va := ptr, loc := loc, bytes := bs, cls := c.toNat, pol := loc.policy p.toNat, seq := s2.core.seq }] } } ∧
    bs.length = x.1 ∧ valueOf bs = (s.reg d).toNat % 256 ^ x.1

/-- 02 R54, R408: a store of the buffer that may perform (05 R95) performs: its bytes stand in the LOCAL or P-die SHARED memory it
names, every other byte of every memory is as before, and the entry waits for its acknowledgement, which frees it; an entry is
acknowledged once it has performed and no earlier one of its class is left (05 R95). No dead link cuts the unit off from the place
(21 R334; log 126). That the acknowledgement is a step of its own is log 4. -/
def Sys2Proof.Claims.StorePerforms : Prop := ∀ (s : State) (rank index : Nat) (e : StoreEntry),
  (s.unitAt rank).stores[index]? = some e →
  ((s.unitAt rank).mayPerform rank e = true → (∀ x ∈ s.fab.outstanding, x.isStore rank e.seq = false) → s.cutOff rank e.loc = false →
    (∀ r off, e.loc = .lcl r off → s.portAllows (s.unitAt rank).unit.ctx rank r = true → ∃ t,
      exec (.scalarAccessPerform rank index) s = .next t ∧
      (∀ k, Memory.read t.mem k = if localKey r off ≤ k ∧ k < localKey r off + e.bytes.length
        then some (e.bytes.getD (k - localKey r off) 0#8) else Memory.read s.mem k) ∧
      t = { (s.modUnit rank fun u => { u with stores := markPerformed u.stores e.seq }) with mem := t.mem }) ∧
    (∀ die off, e.loc = .shared die off → isPDie die = true → off + e.bytes.length ≤ s.sharedSize (s.unitAt rank).unit.ctx die →
      (s.die die).slices = [] → ∃ t,
      exec (.scalarAccessPerform rank index) s = .next t ∧
      (let base := sharedKey die (s.sharedOff (s.unitAt rank).unit.ctx die off)
       ∀ k, Memory.read t.mem k = if base ≤ k ∧ k < base + e.bytes.length then some (e.bytes.getD (k - base) 0#8) else Memory.read s.mem k) ∧
      t = { (s.modUnit rank fun u => { u with stores := markPerformed u.stores e.seq }) with mem := t.mem })) ∧
  (let last := ∀ x ∈ (s.unitAt rank).stores, x.cls = e.cls → e.seq ≤ x.seq
   (e.performed = true → last → ∃ t, exec (.scalarAccessReply rank index) s = .next t ∧ SameMemory s t ∧
      t = s.modUnit rank fun u => { u with stores := u.stores.filter fun x => x.seq ≠ e.seq }) ∧
   (e.performed = false ∨ ¬last → exec (.scalarAccessReply rank index) s = .next s))

/-- 02 R58, R59, R61, Table 15 on the core's own LOCAL memory: every atomic word reads the old value, stores the new one at its
pointer and nowhere else, and returns the old value, a 32-bit one sign-extended; an ar field empties the L1. -/
def Sys2Proof.Claims.LocalAtomics : Prop := ∀ (s : State) (d a b : RegNo) (c : BitVec 4) (r : BitVec 2),
  ∀ x ∈ atomics, OwnLocal s (s.reg a) x.2.1 → Quiet s →
  ∃ old t, exec (x.2.2 r d a b c) s = .next t ∧ AccessFrame s t ∧ GoesOn s t ∧
    Holds s.mem (localKey s.cur (offOf (s.reg a))) x.2.1 old ∧ old < 256 ^ x.2.1 ∧
    Stored s.mem t.mem (localKey s.cur (offOf (s.reg a))) x.2.1 (atomicNew x.2.1 old (s.reg b).toNat (s.reg d).toNat x.1) ∧
    t.core.l1 = (if r = 0#2 then s.core.l1 else []) ∧
    (d ≠ 0#6 → (t.reg d).toInt = (old : Int).bmod (if x.2.1 = 4 then 2 ^ 32 else 2 ^ 64)) ∧ ∀ k, k ≠ d → t.reg k = s.reg k

/-- 02 R60 on the core's own LOCAL memory: CAS2 compares 16 bytes with gD and gD+1, stores gB and gB+1 if they are equal, and
returns the old bytes in gD and gD+1 in every case. -/
def Sys2Proof.Claims.LocalCas2 : Prop := ∀ (s : State) (r : BitVec 2) (d : BitVec 5) (a : RegNo) (b : BitVec 5) (c : BitVec 4),
  let d0 : RegNo := BitVec.ofNat 6 (2 * d.toNat)
  let d1 : RegNo := BitVec.ofNat 6 (2 * d.toNat + 1)
  let b0 : RegNo := BitVec.ofNat 6 (2 * b.toNat)
  let b1 : RegNo := BitVec.ofNat 6 (2 * b.toNat + 1)
  let key := localKey s.cur (offOf (s.reg a))
  OwnLocal s (s.reg a) 16 → Quiet s →
  ∃ lo hi t, exec (.cas2 r d a b c) s = .next t ∧ AccessFrame s t ∧ GoesOn s t ∧ lo < 2 ^ 64 ∧ hi < 2 ^ 64 ∧
    Holds s.mem key 8 lo ∧ Holds s.mem (key + 8) 8 hi ∧
    (lo = (s.reg d0).toNat ∧ hi = (s.reg d1).toNat → Stored s.mem t.mem key 16 ((s.reg b0).toNat + 2 ^ 64 * (s.reg b1).toNat)) ∧
    (¬(lo = (s.reg d0).toNat ∧ hi = (s.reg d1).toNat) → SameMemory s t) ∧
    t.core.l1 = (if r = 0#2 then s.core.l1 else []) ∧
    (t.reg d0).toNat = (if d = 0#5 then 0 else lo) ∧ (t.reg d1).toNat = hi ∧ ∀ k, k ≠ d0 → k ≠ d1 → t.reg k = s.reg k

/-- 02 R58: the atomic words in every space: the release of a nonzero ar field comes first, the access second, the acquire
last; gD takes the old value, and a fault of the access is raised. -/
def Sys2Proof.Claims.AtomicWords : Prop := ∀ (s s0 : State) (d a b : RegNo) (c : BitVec 4) (r : BitVec 2),
  ∀ x ∈ atomics, (r = 0#2 ∧ s0 = s ∨ r ≠ 0#2 ∧ s.release allClasses = .ok s0) →
  ∃ f : List Byte → Option (List Byte),
    (∀ bs : List Byte, bs.length = x.2.1 →
      (f bs).elim (valueOf bs) valueOf = atomicNew x.2.1 (valueOf bs) (s.reg b).toNat (s.reg d).toNat x.1) ∧
    (∀ bs s1, s0.atomicBytes (s.reg a) x.2.1 c.toNat f = .ok bs s1 → bs.length = x.2.1 →
      ∃ v t, exec (x.2.2 r d a b c) s = .next t ∧ WritesReg (s1.acquire (arScope r)) t d v ∧
        v.toInt = (valueOf bs : Int).bmod (if x.2.1 = 4 then 2 ^ 32 else 2 ^ 64)) ∧
    (∀ cause tval s1, s0.atomicBytes (s.reg a) x.2.1 c.toNat f = .fault cause tval s1 →
      exec (x.2.2 r d a b c) s = .next (s1.raiseWith cause tval 0#32 s1.core.pc))

/-- 02 R56, R57, R54: PUSHM enters gF to gL into the store buffer in rising address order below ssp, one entry per register,
class 0, and lowers ssp; it changes no register and no byte of memory yet. A range longer than the buffer has room for enters
it in parts as entries leave: the word waits with the stores still to enter, or ends with ssp lowered. A range that faults
leaves ssp as it was. -/
def Sys2Proof.Claims.PushMultiple : Prop := ∀ (s s1 : State) (f l : RegNo) (base : Word) (locs : List (Word × Nat × Loc)),
  let n := l.toNat - f.toNat + 1
  f.toNat ≤ l.toNat → ptrAdd s.core.ssp (-(8 * (n : Int))) = some base →
  ((∀ k at_, s.core.stall ≠ .pushing k at_) → s.locateRange base (8 * n) .store = .ok locs s1 → (∀ x ∈ locs, s1.ownWatch x.1 x.2.2 x.2.1 = none) →
    (s1.core.stores.length + n ≤ 16 → ∃ t new, exec (.pushm f l) s = .next t ∧ SameMemory s1 t ∧ (∀ r, t.reg r = s1.reg r) ∧
      t = { s1 with core := { s1.core with
        ssp := base, pc := t.core.pc, loops := t.core.loops, ctl := { s1.core.ctl with evcnt := t.core.ctl.evcnt },
        sel := none, stall := .none, pend := none, seq := s1.core.seq + n, stores := s1.core.stores ++ new } } ∧
      new.length = n ∧ ∀ i < n, ∃ e, new[i]? = some e ∧ e.va = base + BitVec.ofNat 64 (8 * i) ∧ e.loc = locAt locs e.va ∧
        e.cls = 0 ∧ e.pol = e.loc.policy 0 ∧ e.performed = false ∧ e.bytes.length = 8 ∧ valueOf e.bytes = (s1.reg (BitVec.ofNat 6 (f.toNat + i))).toNat) ∧
    (∀ s2, ¬s1.core.stores.length + n ≤ 16 → n ≤ 16 → s1.release allClasses = .ok s2 →
      ∃ t, exec (.pushm f l) s = .next t ∧ t.core.ssp = base ∧ t.core.stall = .none) ∧
    (¬s1.core.stores.length + n ≤ 16 → ∃ t, exec (.pushm f l) s = .next t ∧
      (t.core.ssp = base ∧ t.core.stall = .none ∨ ∃ k < n, t.core.stall = .pushing k locs))) ∧
  (∀ k at_, s.core.stall = .pushing k at_ → s.core.stores = [] → k < n → n ≤ k + 16 →
    ∃ t, exec (.pushm f l) s = .next t ∧ SameMemory s t ∧ (∀ r, t.reg r = s.reg r) ∧ t.core.ssp = base ∧ t.core.stall = .none ∧
      t.core.stores.length = n - k ∧ ∀ i < n - k, ∃ e, t.core.stores[i]? = some e ∧ e.va = base + BitVec.ofNat 64 (8 * (k + i)) ∧
        e.loc = locAt at_ e.va ∧ valueOf e.bytes = (s.reg (BitVec.ofNat 6 (f.toNat + (k + i)))).toNat) ∧
  (∀ cause tval, (∀ k at_, s.core.stall ≠ .pushing k at_) → s.locateRange base (8 * n) .store = .fault cause tval s1 →
    exec (.pushm f l) s = .next (s1.raiseWith cause tval 0#32 s1.core.pc))

/-- 02 R56, R57 on the core's own LOCAL memory: POPM loads gF to gL from ssp upward and raises ssp; g0 discards its value. -/
def Sys2Proof.Claims.PopMultiple : Prop := ∀ (s : State) (f l : RegNo) (top : Word),
  let n := l.toNat - f.toNat + 1
  f.toNat ≤ l.toNat → ptrAdd s.core.ssp (8 * (n : Int)) = some top → OwnLocal s s.core.ssp 8 →
  offOf s.core.ssp + 8 * n ≤ localSize s.cur → Quiet s →
  ∃ t, exec (.popm f l) s = .next t ∧ SameMemory s t ∧ GoesOn s t ∧
    t = { s with core := { s.core with
      regs := t.core.regs, ssp := top, pc := t.core.pc, loops := t.core.loops, ctl := { s.core.ctl with evcnt := t.core.ctl.evcnt },
      sel := none, stall := .none, pend := none, seq := s.core.seq + 1 } } ∧
    (∀ i < n, BitVec.ofNat 6 (f.toNat + i) ≠ 0#6 →
      Holds s.mem (localKey s.cur (offOf s.core.ssp + 8 * i)) 8 (t.reg (BitVec.ofNat 6 (f.toNat + i))).toNat) ∧
    ∀ r : RegNo, r.toNat < f.toNat ∨ l.toNat < r.toNat → t.reg r = s.reg r

/-- 02 R63: an acquire of cluster scope or wider empties the L1; a release completes once no store of a masked class is left
in the buffer, and holds the unit at its word until then. -/
def Obligations.FenceWords : Prop := ∀ (s : State) (k : BitVec 2) (scope : BitVec 3) (mask : BitVec 16),
  let after := fun (u t : State) => SameMemory u t ∧ (∀ r, t.reg r = u.reg r) ∧ GoesOn u t ∧
    t.core.l1 = (if k = 2#2 ∨ scope = 0#3 then u.core.l1 else []) ∧ t.core.stores = u.core.stores
  (k = 1#2 → ∃ t, exec (.fence k scope mask) s = .next t ∧ after s t) ∧
  (k ≠ 1#2 → (∀ s1, s.release (classMask mask) = .ok s1 → ∃ t, exec (.fence k scope mask) s = .next t ∧ after s1 t ∧
      ∀ e ∈ t.core.stores, mask.getLsbD e.cls = false) ∧
    (∀ s1, s.release (classMask mask) = .error s1 → ∃ t, exec (.fence k scope mask) s = .next t ∧
      t = { s1 with core := { s1.core with stall := .resource } }))

/-- 07 R133: TDLD loads a descriptor from 16 bytes, with its reserved bits 87:82 read as zero; TDST stores one. -/
def Obligations.DescriptorWords : Prop := ∀ (s s1 : State) (td : TileNo) (b : RegNo) (c : BitVec 4) (o : BitVec 8) (p : Word),
  classOf s.cur ≠ 2 → ptrAdd (s.reg b) (o.toInt * 16) = some p →
  (∀ bs, s.loadBytes p 16 c.toNat 0 = .ok bs s1 → ∃ t, exec (.tdld td b c o) s = .next t ∧ SameMemory s1 t ∧
    (∀ r, t.reg r = s1.reg r) ∧ GoesOn s1 t ∧ (∀ k, k ≠ td → t.td k = s1.td k) ∧
    ∀ k < 128, (t.td td).getLsbD k = (!(decide (82 ≤ k) && decide (k < 88)) && (valueOf bs).testBit k)) ∧
  (∀ loc, s.locate p 16 16 .store = .ok loc s1 → s1.ownWatch p loc 16 = none → s1.core.stores.length < 16 →
    ∃ t bs, exec (.tdst td b c o) s = .next t ∧ SameMemory s1 t ∧ (∀ r, t.reg r = s1.reg r) ∧ t.core.tds = s1.core.tds ∧
      t.core.stores = s1.core.stores ++ [{ va := p, loc := loc, bytes := bs, cls := c.toNat, pol := loc.policy 0, seq := s1.core.seq }] ∧
      bs.length = 16 ∧ valueOf bs = (s.td td).toNat)

end

namespace Sys2Proof.Claims
open Sys2Proof Sys2Proof.Machine

/-- The word waits: nothing but the way it waits changes, and it is executed again. -/
def Waits (s : State) (i : Instr) (k : Stall) : Prop := exec i s = .next { s with core := { s.core with stall := k } }

/-- A precise fault of this cause would make the context due to be rolled back (24 R393) instead of being entered. -/
def DataFaultHere (s : State) (cause : Nat) : Prop := (cause = 0x020 ∨ cause = 0x021) ∧ s.intervalOpen s.ctx = true

/-- A loop level as LPS, LPE and LPR read it: start, end and remaining count, 0 while it is inactive. -/
def loopPart (k : Nat) (l : LoopLevel) : Word :=
  if l.active = false then 0#64 else if k = 2 then l.start else if k = 0 then l.stop else l.remaining

/-- Value of a control register of 22 Table 114 by its number, none where the number names no register. -/
def crValue (s : State) (n : Nat) : Option Word :=
  let c := s.core.ctl
  if 0x040 ≤ n ∧ n < 0x044 then c.wpaddr[n - 0x040]?
  else if 0x044 ≤ n ∧ n < 0x048 then c.wpctl[n - 0x044]?
  else if 0x058 ≤ n ∧ n < 0x060 then c.evcnt[n - 0x058]?
  else if 0x060 ≤ n ∧ n < 0x070 then (if s.dieAllowed s.ctx (dieOf s.cur) then (s.die (dieOf s.cur)).devcnt[n - 0x060]? else some 0#64)
  else if 0x080 ≤ n ∧ n < 0x08C then ((bankOf s.core c.tlevel)[(n - 0x080) / 3]?).map (loopPart (n % 3))
  else alGet n [
    (0x000, BitVec.ofNat 64 c.tlevel.toNat), (0x001, c.tcause1), (0x002, c.tcause2), (0x003, c.tret1), (0x004, c.tret2),
    (0x005, c.tval1), (0x006, c.tval2), (0x007, c.tscr1), (0x008, c.tscr2), (0x009, c.tvec),
    (0x010, if c.dzt then 1#64 else 0#64), (0x011, BitVec.ofNat 64 c.spinl), (0x012, s.core.ssp),
    (0x013, BitVec.ofNat 64 c.lkeep.toNat), (0x014, BitVec.ofNat 64 c.whw), (0x018, if c.prq then 1#64 else 0#64),
    (0x019, BitVec.ofNat 64 (if c.prq then c.pdl else ((s.ctx? s.ctx).map (·.pdl)).getD c.pdl)),
    (0x020, c.stgno), (0x021, c.stgnext), (0x022, c.stgprev),
    (0x028, BitVec.ofNat 64 (s.cur + 4096 * classOf s.cur)), (0x029, BitVec.ofNat 64 s.ctx), (0x02A, BitVec.ofNat 64 s.time),
    (0x02B, c.cycle),
    (0x030, BitVec.ofNat 64 (if isDDie (dieOf s.cur) ∧ (s.die (dieOf s.cur)).dgrant = some s.ctx then (s.die (dieOf s.cur)).split else 16)),
    (0x031, 0#64), (0x050, c.evsel)]

/-- Registers of Table 114 that a program may write and that have no behaviour of their own. -/
def plainCr (n : Nat) : Prop :=
  (0x001 ≤ n ∧ n ≤ 0x009) ∨ (0x010 ≤ n ∧ n ≤ 0x013) ∨ (0x040 ≤ n ∧ n < 0x044) ∨ n = 0x050 ∨ (0x058 ≤ n ∧ n < 0x060)

/-- What a plain register holds after a write of v, none where v breaks a limit of Table 114: TCAUSE drops its reserved bits
26:16 (22 Table 115), FECTL has bit 0, SPINL bits 20:0 up to 2^20, LKEEP bits 31:0, multiples of 4096 up to the LOCAL size. -/
def crAfter (rank n : Nat) (v : Word) : Option Word :=
  if n = 0x001 ∨ n = 0x002 then some (BitVec.ofNat 64 (v.toNat / 2 ^ 27 * 2 ^ 27 + v.toNat % 2 ^ 16))
  else if n = 0x009 then (if v.toNat % 4 = 0 ∧ v.toNat / 2 ^ 60 = 0 then some v else none)
  else if n = 0x010 then some (BitVec.ofNat 64 (v.toNat % 2))
  else if n = 0x011 then (if v.toNat % 2 ^ 21 ≤ 2 ^ 20 then some (BitVec.ofNat 64 (v.toNat % 2 ^ 21)) else none)
  else if n = 0x013 then (if v.toNat % 4096 = 0 ∧ v.toNat % 2 ^ 32 ≤ localSize rank then some (BitVec.ofNat 64 (v.toNat % 2 ^ 32)) else none)
  else some v

/-- Registers marked RO. -/
def readOnlyCr (n : Nat) : Prop :=
  n = 0x000 ∨ n = 0x014 ∨ n = 0x018 ∨ n = 0x019 ∨ (0x020 ≤ n ∧ n ≤ 0x022) ∨ (0x028 ≤ n ∧ n ≤ 0x02B) ∨ (0x060 ≤ n ∧ n < 0x070) ∨
  (0x080 ≤ n ∧ n < 0x08C)

/-- A write of plain register n with v has taken effect: the register reads as it must, every other register but the event
counters and the loop levels reads as before, and nothing else of the state but the position of the word and a general
register has changed. -/
def Wrote (s t : State) (n : Nat) (v : Word) : Prop :=
  (∀ w, crAfter s.cur n v = some w → crValue t n = some (
    if 0x058 ≤ n ∧ n < 0x060 ∧ s.core.ctl.evsel ≠ 0#64 ∧ s.core.ctl.evsel.toNat / 2 ^ (8 * (n - 0x058)) % 256 = 2 then w + 1#64 else w)) ∧
  (∀ m, m ≠ n → ¬(0x058 ≤ m ∧ m < 0x060) → ¬(0x080 ≤ m ∧ m < 0x08C) → crValue t m = crValue s m) ∧
  SameMemory s t ∧
  t = { s with core := { s.core with
    regs := t.core.regs, ssp := t.core.ssp, pc := t.core.pc, loops := t.core.loops, ctl := t.core.ctl,
    sel := none, stall := .none, pend := none } }

end Sys2Proof.Claims

section
open Sys2Proof Sys2Proof.Machine Sys2Proof.Claims

/-- 24 R371, 22 Table 115, 02 R49: a precise fault at level 0 or 1 enters the next level: TCAUSE with PREC, STATUS and the
cause, TRET and TVAL of that level; the loop bank of that level has no active level; the pc is TVEC; the registers of the
other level, every general register, every descriptor and every byte of memory are as before. -/
def Obligations.TrapEntry : Prop := ∀ (s : State) (cause : Nat) (tval ret : Word) (status : BitVec 32),
  s.core.ctl.tlevel = 0#2 ∨ s.core.ctl.tlevel = 1#2 → ¬DataFaultHere s cause → cause < 2 ^ 16 →
  let t := s.raiseWith cause tval status ret
  let c := s.core.ctl
  let k := t.core.ctl
  k.tlevel = c.tlevel + 1#2 ∧ t.core.pc = c.tvec ∧
  (∀ n : Fin 4, (level t n).active = false) ∧ (∀ l, l ≠ k.tlevel → bankOf t.core l = bankOf s.core l) ∧
  (c.tlevel = 0#2 → k.tcause1.toNat = status.toNat * 2 ^ 32 + 2 ^ 27 + cause ∧ k.tret1 = ret ∧ k.tval1 = tval ∧
    k.tcause2 = c.tcause2 ∧ k.tret2 = c.tret2 ∧ k.tval2 = c.tval2) ∧
  (c.tlevel = 1#2 → k.tcause2.toNat = status.toNat * 2 ^ 32 + 2 ^ 27 + cause ∧ k.tret2 = ret ∧ k.tval2 = tval ∧
    k.tcause1 = c.tcause1 ∧ k.tret1 = c.tret1 ∧ k.tval1 = c.tval1) ∧
  k.tscr1 = c.tscr1 ∧ k.tscr2 = c.tscr2 ∧ k.tvec = c.tvec ∧ k.dzt = c.dzt ∧
  (∀ r, t.reg r = s.reg r) ∧ SameMemory s t ∧
  t = { s with core := { s.core with ctl := k, pc := c.tvec, loops := t.core.loops, sel := none, stall := .none, pend := none } }

/-- 22 R352, 24 R374: TRAP raises SOFT_TRAP with its code in STATUS and returns past itself, BRK raises BREAK and returns to
itself; NOP does nothing. -/
def Sys2Proof.Claims.TrapBreakNop : Prop := ∀ (s : State) (n : BitVec 12),
  (∃ t, exec .nop s = .next t ∧ FrontFrame s t ∧ GoesOn s t ∧ ∀ r, t.reg r = s.reg r) ∧
  (s.core.ir.index = none → s.core.wordTval.toNat = s.core.ir.word.toNat ∧ s.core.nextPos = s.core.pc + 4#64) ∧
  (∀ x, s.core.ir.index = some x → s.core.wordTval.toNat = 2 ^ 63 + x.toNat * 2 ^ 32 + s.core.ir.word.toNat ∧
    s.core.nextPos = s.core.pc + 2#64) ∧
  (s.core.ctl.tlevel = 0#2 ∨ s.core.ctl.tlevel = 1#2 →
    ∃ t u, exec (.trapCode n) s = .next t ∧ exec .brk s = .next u ∧
      t.core.pc = s.core.ctl.tvec ∧ u.core.pc = s.core.ctl.tvec ∧
      t.core.ctl.tlevel = s.core.ctl.tlevel + 1#2 ∧ u.core.ctl.tlevel = s.core.ctl.tlevel + 1#2 ∧
      (∀ r, t.reg r = s.reg r ∧ u.reg r = s.reg r) ∧ SameMemory s t ∧ SameMemory s u ∧
      (s.core.ctl.tlevel = 0#2 →
        t.core.ctl.tcause1.toNat = n.toNat * 2 ^ 32 + 2 ^ 27 + 0x00B ∧ t.core.ctl.tret1 = s.core.nextPos ∧
        t.core.ctl.tval1 = s.core.wordTval ∧
        u.core.ctl.tcause1.toNat = 2 ^ 27 + 0x00C ∧ u.core.ctl.tret1 = s.core.pc ∧ u.core.ctl.tval1 = s.core.wordTval) ∧
      (s.core.ctl.tlevel = 1#2 →
        t.core.ctl.tcause2.toNat = n.toNat * 2 ^ 32 + 2 ^ 27 + 0x00B ∧ t.core.ctl.tret2 = s.core.nextPos ∧
        t.core.ctl.tval2 = s.core.wordTval ∧
        u.core.ctl.tcause2.toNat = 2 ^ 27 + 0x00C ∧ u.core.ctl.tret2 = s.core.pc ∧ u.core.ctl.tval2 = s.core.wordTval))

/-- 22 R352, 24 R377, 22 R354: TRET goes back to the position of its level, one level lower, with the loop bank of that level
as it was, the fetch buffer empty and no command held; at level 0 it is illegal, and a position R10 refuses raises
FETCH_ADDR. -/
def Sys2Proof.Claims.TrapReturn : Prop := ∀ (s : State),
  let c := s.core.ctl
  let p := if c.tlevel = 1#2 then c.tret1 else c.tret2
  (c.tlevel = 1#2 ∨ c.tlevel = 2#2 → p.toNat % 2 = 0 ∧ p.toNat / 2 ^ 60 = 0 →
    ∃ t, exec .tret s = .next t ∧ t.core.pc = p ∧ t.core.ctl.tlevel = c.tlevel - 1#2 ∧ t.core.loops = s.core.loops ∧
      t.core.fetchBuf = [] ∧ (∀ x ∈ t.core.cmdsAll, x.st ≠ .held) ∧ (∀ r, t.reg r = s.reg r) ∧ SameMemory s t ∧
      t = { s with core := { s.core with
        pc := p, ctl := { c with tlevel := c.tlevel - 1#2, evcnt := t.core.ctl.evcnt }, sel := none, stall := .none, pend := none,
        fetchBuf := [], cpe := t.core.cpe, mat := t.core.mat, vec := t.core.vec } }) ∧
  (c.tlevel = 1#2 ∨ c.tlevel = 2#2 → ¬(p.toNat % 2 = 0 ∧ p.toNat / 2 ^ 60 = 0) → Raises s .tret 0x001 p) ∧
  (c.tlevel = 0#2 → Raises s .tret 0x002 s.core.wordTval)

/-- 22 R351, R352, Table 114: CRR reads every control register; a number that names none is illegal. -/
def Sys2Proof.Claims.ReadControl : Prop := ∀ (s : State) (d : RegNo) (n : BitVec 12),
  (∀ v, crValue s n.toNat = some v → Results s (.crr d n) d (fun x => x = v)) ∧
  (crValue s n.toNat = none → ∀ i ∈ ([.crr d n, .crw d n, .crx d n] : List Instr), Raises s i 0x002 s.core.wordTval)

/-- 22 R352, Table 114: CRW writes a plain control register, and CRX exchanges it with its general register in one step. -/
def Obligations.WriteControl : Prop := ∀ (s : State) (d : RegNo) (n : BitVec 12), plainCr n.toNat →
  (crAfter s.cur n.toNat (s.reg d) ≠ none →
    (∃ t, exec (.crw d n) s = .next t ∧ Wrote s t n.toNat (s.reg d) ∧ ∀ r, t.reg r = s.reg r) ∧
    (∃ t, exec (.crx d n) s = .next t ∧ Wrote s t n.toNat (s.reg d) ∧
      (d ≠ 0#6 → some (t.reg d) = crValue s n.toNat) ∧ ∀ r, r ≠ d → t.reg r = s.reg r)) ∧
  (crAfter s.cur n.toNat (s.reg d) = none → ∀ i ∈ ([.crw d n, .crx d n] : List Instr), Raises s i 0x032 0#64)

/-- 22 R352: a write of a read-only control register raises CR_PERM and changes neither the register nor gD. -/
def Sys2Proof.Claims.ReadOnlyControl : Prop := ∀ (s : State) (d : RegNo) (n : BitVec 12), readOnlyCr n.toNat →
  ∀ i ∈ ([.crw d n, .crx d n] : List Instr), Raises s i 0x00D 0#64

/-- 22 R353, R354: DICTLD installs the words read as the resident dictionary and drops what is fetched, after a release;
IFENCE drops what is fetched, after a release; both wait at their word while the release does, and DICTLD's checks are raised in
their order. -/
def Sys2Proof.Claims.DictionaryAndFetch : Prop := ∀ (s : State) (a b : RegNo),
  let p := s.reg a
  let n := (s.reg b).toNat
  (p.toNat / 2 ^ 57 = 0 → p.toNat % 64 = 0 → n ≤ 1024 → ∀ s1, s.release allClasses = .ok s1 →
    (∀ ws s2, s1.readDict (dieOf s1.cur) s1.ctx p n = (.ok ws, s2) → ∃ t, exec (.dictld a b) s = .next t ∧
      t.core.dict = { ptr := p, count := n, words := ws } ∧ t.core.fetchBuf = [] ∧ SameMemory s2 t ∧ (∀ r, t.reg r = s2.reg r) ∧
      (NoLoopEnd s2 → t.core.pc = s2.core.nextPos)) ∧
    (∀ cause va s2, s1.readDict (dieOf s1.cur) s1.ctx p n = (.error (cause, va), s2) →
      exec (.dictld a b) s = .next (s2.raiseWith cause (BitVec.ofNat 64 va) 0#32 s2.core.pc))) ∧
  (p.toNat / 2 ^ 60 ≠ 0 → Raises s (.dictld a b) 0x005 p) ∧
  (p.toNat / 2 ^ 60 = 0 → p.toNat % 64 ≠ 0 → Raises s (.dictld a b) 0x006 p) ∧
  (p.toNat / 2 ^ 60 = 0 → p.toNat % 64 = 0 → 1024 < n → Raises s (.dictld a b) 0x032 0#64) ∧
  (∀ s1, s.release allClasses = .ok s1 → ∃ t, exec .ifence s = .next t ∧ t.core.fetchBuf = [] ∧ SameMemory s1 t ∧
    (∀ r, t.reg r = s1.reg r) ∧ GoesOn s1 t) ∧
  (∀ s1, s.release allClasses = .error s1 → exec .ifence s = .next { s1 with core := { s1.core with stall := .resource } })

/-- 01 R19, R20: a pair word selects the entry of its half: idx1 at the low half and idx2 at the high half; an index past the
resident count, and an entry of a forbidden kind, are illegal at that half. -/
def Sys2Proof.Claims.DictionaryPair : Prop := ∀ (s : State) (j i : BitVec 10),
  let high := decide (s.core.pc.toNat % 4 ≠ 0)
  let x := if high then j else i
  let w := s.core.dict.words.getD x.toNat 0#32
  let here : WordHere := { word := w, index := some x, high := high }
  (x.toNat < s.core.dict.count → forbiddenEntry w = false →
    exec (.dictionaryPair j i) s = .next { s with core := { s.core with sel := some here, stall := .none } }) ∧
  (s.core.dict.count ≤ x.toNat ∨ forbiddenEntry w = true →
    exec (.dictionaryPair j i) s = .next (({ s with core := { s.core with ir := here } } : State).raiseWith 0x002
      (BitVec.ofNat 64 (2 ^ 63 + x.toNat * 2 ^ 32 + w.toNat)) 0#32 s.core.pc))

end

namespace Sys2Proof.Claims
open Sys2Proof Sys2Proof.Machine

/-- The word acts on a SYNC variable: no packet of the unit is on its way, its pointer passes 10 R193, and no dead link cuts
the unit off from its die (21 R334; log 126). -/
def AtVar (s : State) (p : Word) (die off : Nat) : Prop :=
  s.core.unit.packets = 0 ∧ s.syncPtr p = .ok (die, off) ∧ s.reaches (dieOf s.cur) die = true

/-- Kind of a variable of the unit's context, none while it is UNSET. -/
def kindAt (s : State) (die off : Nat) : Option SyncKind := (s.syncVar die s.ctx off).map (·.kind)

/-- Objects parked on a variable. -/
def waitersAt (s : State) (die off : Nat) : List ObjRec := ((s.syncVar die s.ctx off).map (·.waiters)).getD []

/-- An engine word, or a word of a synchronisation engine, completes: it goes on, and changes no general register and no byte
of memory. -/
def Completes (s t : State) : Prop := SameMemory s t ∧ GoesOn s t ∧ (∀ r, t.reg r = s.reg r) ∧ t.core.stall = .none

/-- No saved group of a die waits for an object. -/
def NoImages (s : State) : Prop := ∀ d ∈ s.dies, ∀ i ∈ d.2.ready, ∀ c p, i.work.holds c p = false

/-- An object stands in the ready queue of the die its record names, among the memory-side units' if it is one of theirs. -/
def IsReady (s : State) (o : ObjRec) : Prop :=
  ∃ i ∈ (if o.cls = 2 then (s.die o.hdie).memReady else (s.die o.hdie).ready), i.work = .object o

/-- 10 R196: an amount taken from a counter saturates. -/
def counterAfter (old amount : Int) : Int := max (-(2 ^ 63)) (min (2 ^ 63 - 1) (old - amount))

end Sys2Proof.Claims

section
open Sys2Proof Sys2Proof.Machine Sys2Proof.Claims

/-- 10 R196, R198: after a release, CTRINIT makes a variable without waiters a counter of its value, and CTRSIG takes its amount
from a counter, saturating, and returns the old value; a counter that falls from above 0 to 0 or below releases every waiter to
the ready queues. CTRRD reads a counter. -/
def Sys2Proof.Claims.CounterWords : Prop := ∀ (s s1 : State) (d a b : RegNo) (die off : Nat),
  AtVar s (s.reg a) die off → s.release allClasses = .ok s1 → s1.ctx = s.ctx →
  ((∀ v, s.syncVar die s.ctx off = some v → v.waiters = []) →
    (∀ s2, s1.initVar die s1.ctx off (.counter (s1.reg b).toInt) = some s2 →
      ∃ t, exec (.ctrinit a b) s = .next t ∧ Completes s1 t ∧ kindAt t die off = some (.counter (s1.reg b).toInt) ∧ waitersAt t die off = []) ∧
    (s1.initVar die s1.ctx off (.counter (s1.reg b).toInt) = none →
      exec (.ctrinit a b) s = .next (s1.raiseWith 0x040 (s1.reg a) 0#32 s1.core.pc))) ∧
  (∀ v, s.syncVar die s.ctx off = some v → v.waiters ≠ [] → exec (.ctrinit a b) s = .next (s1.raiseWith 0x042 (s1.reg a) 0#32 s1.core.pc)) ∧
  (∀ v old, s.syncVar die s.ctx off = some v → v.kind = .counter old →
    let new := counterAfter old (s1.reg b).toInt
    ∃ t, exec (.ctrsig d a b) s = .next t ∧ SameMemory s1 t ∧ kindAt t die off = some (.counter new) ∧
      t.reg d = (if d = 0#6 then 0#64 else BitVec.ofInt 64 old) ∧ (∀ r, r ≠ d → t.reg r = s1.reg r) ∧
      (0 < old ∧ new ≤ 0 → waitersAt t die off = [] ∧ (NoImages s1 → ∀ o ∈ v.waiters, IsReady t o)) ∧
      (¬(0 < old ∧ new ≤ 0) → waitersAt t die off = v.waiters)) ∧
  (∀ v n, s.syncVar die s.ctx off = some v → v.kind = .counter n → ∃ t, exec (.ctrrd d a) s = .next t ∧ SameMemory s t ∧
    kindAt t die off = some (.counter n) ∧ t.reg d = (if d = 0#6 then 0#64 else BitVec.ofInt 64 n) ∧ ∀ r, r ≠ d → t.reg r = s.reg r) ∧
  (∀ v, s.syncVar die s.ctx off = some v → (∀ n, v.kind ≠ .counter n) →
    ∀ i ∈ ([.ctrsig d a b, .ctrrd d a, .ctrwait a] : List Instr), Raises s i 0x041 (s.reg a)) ∧
  (s.syncVar die s.ctx off = none → ∀ i ∈ ([.ctrsig d a b, .ctrrd d a, .ctrwait a] : List Instr), Raises s i 0x041 (s.reg a))

/-- 10 R197, R198: after a release, BARINIT makes a variable without waiters a barrier of its target, which is 1 to 2^32 − 1, and
BARARV arrives: it returns the phase, and the last arrival starts the next phase, modulo 2^32, and releases every waiter to the
ready queues. -/
def Sys2Proof.Claims.BarrierWords : Prop := ∀ (s s1 : State) (d a b : RegNo) (die off : Nat),
  AtVar s (s.reg a) die off → s.release allClasses = .ok s1 → s1.ctx = s.ctx →
  ((∀ v, s.syncVar die s.ctx off = some v → v.waiters = []) →
    (0 < (s1.reg b).toNat ∧ (s1.reg b).toNat < 2 ^ 32 →
      ∀ s2, s1.initVar die s1.ctx off (.barrier (s1.reg b).toNat 0 0) = some s2 → ∃ t, exec (.barinit a b) s = .next t ∧
        Completes s1 t ∧ kindAt t die off = some (.barrier (s1.reg b).toNat 0 0) ∧ waitersAt t die off = []) ∧
    (¬(0 < (s1.reg b).toNat ∧ (s1.reg b).toNat < 2 ^ 32) → exec (.barinit a b) s = .next (s1.raiseWith 0x032 0#64 0#32 s1.core.pc))) ∧
  (∀ v target n phase, s.syncVar die s.ctx off = some v → v.kind = .barrier target n phase → s.core.arrived = none →
    ∃ t, exec (.bararv d a 0#1) s = .next t ∧ SameMemory s1 t ∧
      t.reg d = (if d = 0#6 then 0#64 else BitVec.ofNat 64 phase) ∧ (∀ r, r ≠ d → t.reg r = s1.reg r) ∧
      (n + 1 = target → kindAt t die off = some (.barrier target 0 ((phase + 1) % 2 ^ 32)) ∧ waitersAt t die off = [] ∧
        (NoImages s1 → ∀ o ∈ v.waiters, IsReady t o)) ∧
      (n + 1 ≠ target → kindAt t die off = some (.barrier target (n + 1) phase) ∧ waitersAt t die off = v.waiters))

/-- 10 R196–R199: the wait words on variables. Satisfied, a wait ends with the acquire of package scope, which empties the L1, and
changes nothing else of the unit; unsatisfied, it looks again until SPINL looks have failed (log 106) or a pre-emption is asked for. A look
leaves the variable as it is. A BARARV .w that has arrived waits on the variable it arrived at. -/
def Sys2Proof.Claims.VariableWaits : Prop := ∀ (s : State) (d a b : RegNo) (p : Word) (die off : Nat) (v : SyncVar),
  AtVar s p die off → s.syncVar die s.ctx off = some v →
  let looked := fun (t : State) => kindAt t die off = some v.kind ∧ waitersAt t die off = v.waiters
  let passes := fun (i : Instr) => ∃ t, exec i s = .next t ∧ Completes s t ∧ looked t ∧ t.core.l1 = [] ∧ t.core.unit.arvDone = none
  let spins := fun (i : Instr) => s.core.looks < s.core.ctl.spinl → s.core.ctl.prq = false → ∃ t, exec i s = .next t ∧ SameMemory s t ∧
    looked t ∧ t.core = { s.core with
      stall := .spin (s.core.looks + 1), unit := { s.core.unit with arvDone := t.core.unit.arvDone } }
  (p = s.reg a → ∀ n, v.kind = .counter n → (n ≤ 0 → passes (.ctrwait a)) ∧ (0 < n → spins (.ctrwait a))) ∧
  (∀ target n phase, v.kind = .barrier target n phase →
    (p = s.reg a → ((s.reg b).toNat % 2 ^ 32 ≠ phase → passes (.barwait a b)) ∧ ((s.reg b).toNat % 2 ^ 32 = phase → spins (.barwait a b))) ∧
    (∀ x, s.core.unit.arvDone = some x → x.pc = s.core.pc → x.var = p →
      (phase ≠ x.phase → passes (.bararv d a 1#1)) ∧ (phase = x.phase → spins (.bararv d a 1#1))))

/-- 10 R197, R199: the arrival of BARARV .w performs once, and then the word waits for the phase it returned to pass. -/
def Sys2Proof.Claims.ArriveAndWait : Prop := ∀ (s s1 : State) (d a : RegNo) (die off target n phase : Nat) (v : SyncVar),
  AtVar s (s.reg a) die off → s.release allClasses = .ok s1 → s1.ctx = s.ctx → s.core.arrived = none →
  s.syncVar die s.ctx off = some v → v.kind = .barrier target n phase → phase < 2 ^ 32 →
  (n + 1 = target → ∃ t, exec (.bararv d a 1#1) s = .next t ∧ SameMemory s1 t ∧ t.core.l1 = [] ∧ t.core.unit.arvDone = none ∧
    kindAt t die off = some (.barrier target 0 ((phase + 1) % 2 ^ 32)) ∧ t.reg d = (if d = 0#6 then 0#64 else BitVec.ofNat 64 phase)) ∧
  (n + 1 ≠ target → s1.core.looks < s1.core.ctl.spinl → s1.core.ctl.prq = false → ∃ t, exec (.bararv d a 1#1) s = .next t ∧
    kindAt t die off = some (.barrier target (n + 1) phase) ∧
    t.core.unit.arvDone = some { pc := s1.core.pc, var := s.reg a, phase := phase } ∧
    t.core.pc = s1.core.pc ∧ t.core.stall = .spin (s1.core.looks + 1) ∧ t.reg d = (if d = 0#6 then 0#64 else BitVec.ofNat 64 phase))

/-- 10 R202: TLWAIT on an engine's counter ends once the counter's completed value has reached gA, acquiring at its scope; a value
above the issued one is refused; TLRD reads the completed value. -/
def Sys2Proof.Claims.TimelineWords : Prop := ∀ (s : State) (x a d b : RegNo) (e : BitVec 2), s.core.unit.packets = 0 → e ≠ 3#2 →
  let q := if e = 0#2 then s.core.cpe else if e = 1#2 then s.core.mat else s.core.vec
  let n := (s.reg a).toNat
  Results s (.tlrd d b e) d (fun v => v = BitVec.ofNat 64 q.completed) ∧
  (q.issued < n → Raises s (.tlwait x a b e) 0x032 0#64) ∧
  (n ≤ q.issued → n ≤ q.completed → ∃ t, exec (.tlwait x a b e) s = .next t ∧ Completes s t ∧
    t.core.l1 = if x.toNat = 0 then s.core.l1 else []) ∧
  (n ≤ q.issued → q.completed < n → s.core.looks < s.core.ctl.spinl → s.core.ctl.prq = false →
    Waits s (.tlwait x a b e) (.spin (s.core.looks + 1)))

/-- 10 R202, 17 R299: the same on the counter of a sluice channel, whose handle's package has answered (log 132). -/
def Sys2Proof.Claims.ChannelTimelineWords : Prop := ∀ (s : State) (x a d b : RegNo) (die ch pkg dd : Nat), s.core.unit.packets = 0 →
  s.channelHandle (s.reg b) = some (die, ch, pkg, dd) → s.handleAsks (s.reg b) = s →
  let q := s.slTimeline die ch s.ctx
  let n := (s.reg a).toNat
  Results s (.tlrd d b 3#2) d (fun v => v = BitVec.ofNat 64 q.completed) ∧
  (q.issued < n → Raises s (.tlwait x a b 3#2) 0x032 0#64) ∧
  (n ≤ q.issued → n ≤ q.completed → ∃ t, exec (.tlwait x a b 3#2) s = .next t ∧ Completes s t ∧
    t.core.l1 = if x.toNat = 0 then s.core.l1 else [])

/-- 10 R203: ARINIT sets TARGET and clears COUNT and OVF of an arrival word of the core's own LOCAL memory, keeps GEN and every
other byte of memory; ARWAIT ends once GEN has reached gB modulo 2^32; until then it looks again while it has looked less than SPINL times (the model counts looks, where R199
counts clk: log 106). Earlier stores of the core on the word come first (02 R53); until they have performed the words wait. -/
def Obligations.ArrivalWords : Prop := ∀ (s s1 : State) (a b : RegNo) (off gen : Nat), s.core.unit.packets = 0 →
  s.arrivalPtr (s.reg a) = .ok off → (s.reg b).toNat < 2 ^ 32 →
  (s.orderUpon (.lcl s.cur off) 16 = .error s1 → ∀ i ∈ ([.arinit a b, .arwait a b] : List Instr),
    exec i s = .next { s1 with core := { s1.core with stall := .resource } }) ∧
  (s.orderUpon (.lcl s.cur off) 16 = .ok s1 → s1.reg b = s.reg b → Holds s1.mem (localKey s1.cur off + 8) 4 gen → gen < 2 ^ 32 →
    (∃ t, exec (.arinit a b) s = .next t ∧ GoesOn s1 t ∧ (∀ r, t.reg r = s1.reg r) ∧
      Stored s1.mem t.mem (localKey s1.cur off) 16 ((s.reg b).toNat + 2 ^ 64 * gen)) ∧
    ((gen + 2 ^ 32 - (s.reg b).toNat) % 2 ^ 32 < 2 ^ 31 → ∃ t, exec (.arwait a b) s = .next t ∧ Completes s1 t ∧ t.core.l1 = s1.core.l1) ∧
    (2 ^ 31 ≤ (gen + 2 ^ 32 - (s.reg b).toNat) % 2 ^ 32 → s1.core.looks < s1.core.ctl.spinl → s1.core.ctl.prq = false →
      exec (.arwait a b) s = .next { s1 with core := { s1.core with stall := .spin (s1.core.looks + 1) } }))

/-- 10 R204, R194: after a release, SPAWN and SPAWND hand one packet over: entry gA, g1 and g2 from the pair at gB, the fence value
gD of the engine named; SPAWN's goes to the unit's own die, SPAWND's to the owner of the pointer in gB+1, which may lie in another package of the
domain (a GLOBAL pointer is translated as for a load of one byte: log 56). An entry that R10
refuses, and a fence value never issued, are refused. -/
def Obligations.SpawnWords : Prop := ∀ (s s1 : State) (d a : RegNo) (b : BitVec 5) (e : BitVec 2), s.core.unit.packets = 0 →
  let q := if e = 0#2 then s.core.cpe else if e = 1#2 then s.core.mat else s.core.vec
  let b0 : RegNo := BitVec.ofNat 6 (2 * b.toNat)
  let b1 : RegNo := BitVec.ofNat 6 (2 * b.toNat + 1)
  let p := s.reg b1
  let r := resolveRank s.cur (spaceOf p) (rankField p)
  let sent := fun (s1 t : State) (die : Nat) (core : Option Nat) (memSide : Bool) (away : Option Nat) =>
    Completes s1 t ∧ t.core.unit.packets = s1.core.unit.packets + 1 ∧ ∃ m, t.spawns = s1.spawns ++ [m] ∧
      m.from_ = s1.cur ∧ m.die = die ∧ m.core = core ∧ m.memSide = memSide ∧ m.away = away ∧ m.pkt.entry = s1.reg a ∧ m.pkt.g1 = s1.reg b0 ∧
      m.pkt.g2 = s1.reg b1 ∧ m.pkt.ctx = s1.ctx ∧ m.pkt.prio = s1.core.unit.prio ∧
      (e = 3#2 → m.pkt.fence = none) ∧ (e ≠ 3#2 → m.pkt.fence = some (s1.core.unit.uid, engOfCode e, (s1.reg d).toNat))
  (Target (s.reg a) → (e ≠ 3#2 → (s.reg d).toNat ≤ q.issued) → s.release allClasses = .ok s1 →
    (∃ t, exec (.spawn d a b e) s = .next t ∧ sent s1 t (dieOf s1.cur) none (classOf s1.cur == 2) none) ∧
    (spaceOf p = 2 → s.rankFault s.ctx s.cur 2 (rankField p) (offOf p) 1 = none →
      ∃ t, exec (.spawnd d a b e) s = .next t ∧ sent s1 t (dieOf r) (some r) false none) ∧
    (spaceOf p = 1 → s.rankFault s.ctx s.cur 1 (rankField p) (offOf p) 1 = none →
      ∃ t, exec (.spawnd d a b e) s = .next t ∧ sent s1 t (dieOf r) none false none)) ∧
  (Target (s.reg a) → (e ≠ 3#2 → (s.reg d).toNat ≤ q.issued) → spaceOf p = 0 → ∀ pa at_ s2 s3,
    s.locate p 1 1 .load = .ok (.global pa at_) s2 → s2.release allClasses = .ok s3 →
      ∃ t, exec (.spawnd d a b e) s = .next t ∧ sent s3 t (homeDie pa) none true (if pkgOf pa = s2.fab.pkg then none else some (pkgOf pa))) ∧
  (¬Target (s.reg a) → ∀ i ∈ ([.spawn d a b e, .spawnd d a b e] : List Instr), Raises s i 0x001 (s.reg a)) ∧
  (Target (s.reg a) → e ≠ 3#2 → q.issued < (s.reg d).toNat →
    ∀ i ∈ ([.spawn d a b e, .spawnd d a b e] : List Instr), Raises s i 0x032 0#64)

/-- 10 R206, R207: YIELD goes on while no ready work of its die is as urgent as the unit and no pre-emption is asked for. STEPEND,
and the TRAP code 0xFF3 (24 R374), end the unit once its stores are acknowledged and its commands, but for held ones, have
completed; until then they wait. The end of a task frees its core; the end of a step is counted by the die that handed it out. -/
def Obligations.YieldAndEnd : Prop := ∀ (s : State), s.core.unit.packets = 0 →
  (s.rivals = false → s.core.ctl.prq = false → ∃ t, exec .yield s = .next t ∧ FrontFrame s t ∧ GoesOn s t ∧ ∀ r, t.reg r = s.reg r) ∧
  (∀ i ∈ ([.stepend, .trapEndUnit] : List Instr),
    (let s0 := s.dropHeld s.cur
     s0.core.cmdsAll ≠ [] → exec i s = .next { s0 with core := { s0.core with stall := .resource } }) ∧
    ((s.dropHeld s.cur).core.cmdsAll = [] → ∀ s1, (s.dropHeld s.cur).release allClasses = .ok s1 →
      s1.core.unit.group = none → s1.core.cpe.queue = [] →
      (s1.core.unit.isStep = false → ∃ t, exec i s = .next t ∧ t.core.unit.running = false ∧
        (s1.core.unit.origin = none → (∀ c, s1.ctx? s1.ctx = some c → c.ckptOpen = false) → SameMemory s1 t)) ∧
      (s1.core.unit.isStep = true → s1.core.unit.origin = none → (∀ c, s1.ctx? s1.ctx = some c → c.ckptOpen = false) →
        ∀ w, s1.sweep? s1.core.unit.sweep = some w → w.record.signals 1 = [] → w.stop = false →
        (∀ x ∈ (s1.die s1.core.unit.handedBy).sweeps, x.id = w.id → s1.core.unit.stepNo ∉ x.done) →
        ∃ t, exec i s = .next t ∧ t.core.unit.running = false ∧ SameMemory s1 t ∧
          (t.sweep? w.id).map (·.running) = some (w.running - 1))))

/-- 10 R208, 24 R389: CHKOPEN opens an interval at an object that the unit may be written into, and the unit runs on; while one is
open it raises CHK_STATE, as CHKCLOSE does without one or by another unit. That CHKOPEN raises CHK_STATE before it waits for the
unit's commands is the model's choice (log 141). -/
def Obligations.CheckpointWords : Prop := ∀ (s s1 : State) (a : RegNo), s.core.unit.packets = 0 →
  (s.intervalOpen s.ctx = true → Raises s (.chkopen a) 0x044 (s.reg a)) ∧
  (s.intervalOpen s.ctx = false → s.core.cmdsAll = [] → s.release allClasses = .ok s1 → ∀ s2, s1.checkTarget (s1.reg a) = (none, s2) →
    (s2.ctx? s2.ctx).isSome → ∃ t, exec (.chkopen a) s = .next t ∧ t.core.unit.ckpt = some (s2.reg a) ∧
      ∃ c, alGet s2.ctx t.ctxs = some c ∧ c.ckptOpen = true ∧ c.ckptObj = some (s2.reg a) ∧ c.ckptOwner = some s2.cur ∧
        c.undoUsed = 0 ∧ c.undoLines = []) ∧
  (∀ c, s.ctx? s.ctx = some c → (c.ckptOpen = false ∨ c.ckptOwner ≠ some s.cur) → Raises s .chkclose 0x044 (c.ckptObj.getD 0#64)) ∧
  (∀ c, s.ctx? s.ctx = some c → c.ckptOpen = true → c.ckptOwner = some s.cur → ∃ t, exec .chkclose s = .next t ∧
    t.core.unit.ckpt = none ∧ t.core.stall = .none ∧ ∃ k, alGet s.ctx t.ctxs = some k ∧ k.ckptOpen = false ∧ k.ckptObj = none ∧ k.undoUsed = 0)

end

namespace Sys2Proof.Claims
open Sys2Proof Sys2Proof.Machine

/-- A context's virtual address is translated for a write, and the line it lies in can be written: the stack of its home has no
bad symbol or lane, no lost or failed line and no transfer under way. The home PA and the identity of the page's key. No fabric
port refuses the access (21 R348). -/
def Reaches (s : State) (va pa kid : Nat) : Prop :=
  ∃ attr s', s.ctxXlate (dieOf s.cur) s.ctx va .store = (.ok (pa, attr), s') ∧ s'.keyId attr.key = some kid ∧ va % 8 = 0 ∧ pa % 8 = 0 ∧
    (s'.partGate (dieOf s.cur) s.ctx pa 8).1 = true ∧
    (s'.stack (stackOf pa)).bad = [] ∧ (s'.stack (stackOf pa)).lost = [] ∧ (s'.stack (stackOf pa)).erased = [] ∧
    (s'.stack (stackOf pa)).badLanes = [] ∧ (s'.stack (stackOf pa)).failedLines = [] ∧ (s'.stack (stackOf pa)).episodes = []

/-- A control word of an object with its state changed: VERSION goes up by 1 (10 R211). -/
def movedTo (c : CState) (st : Nat) : CState := { c with state := st, version := (c.version + 1) % 2 ^ 32 }

/-- An image as CCOPY copies it: OUTST is 0, and it carries no step (10 R216). -/
def copiedImage (bs : List Byte) : List Byte :=
  bs.mapIdx fun i b => if (0x10 ≤ i ∧ i < 0x14) ∨ (0x74 ≤ i ∧ i < 0x80) then 0#8 else b

/-- A word on an object completes: it goes on, and every general register but its destination keeps its value. -/
def ObjectDone (s t : State) (d : RegNo) : Prop := GoesOn s t ∧ ∀ r, r ≠ d → t.reg r = s.reg r

end Sys2Proof.Claims

section
open Sys2Proof Sys2Proof.Machine Sys2Proof.Claims

/-- 10 R212, R215–R217: a word on a continuation object that passes its checks. RESUME takes a PARKED object to RUNNING with HDIE
the unit's die and queues it with its value; RESUME .now ends the unit and has its core take the object; CDISCARD takes one to
DISCARDED; CRIGHTS replaces KEY and RIGHTS; CQUERY reads the control word; CCOPY takes its destination to WRITING and at its end
leaves it PARKED with the image copied, OUTST 0 and no step, goes on and changes no register, but leaves the destination DISCARDED
and raises CONT_STATE where the source's VERSION has changed. An object in another state raises CONT_STATE. Which bytes of an object
are checked (log 57), which objects RESUME accepts (log 41) and the two turns of CCOPY (log 58) are readings. -/
def Sys2Proof.Claims.ObjectWords : Prop := ∀ (s s1 : State) (a b d : RegNo) (b5 : BitVec 5) (c : CState), s.core.unit.packets = 0 →
  let p := s.reg a
  let k0 : RegNo := BitVec.ofNat 6 (2 * b5.toNat)
  let k1 : RegNo := BitVec.ofNat 6 (2 * b5.toNat + 1)
  (s.contCheck p (s.reg k0) (some 0) .atomic = (.ok c, s1) →
    (c.state ≠ 2 → ∀ n, exec (.resume a b5 n) s = .next (s1.raiseWith 0x048 p 0#32 s1.core.pc)) ∧
    (c.state = 2 → classFits (dieOf s1.cur) c.cls = true → ∀ s2, s1.release allClasses = .ok s2 → s2.ctx = s1.ctx →
      ∃ t, exec (.resume a b5 0#1) s = .next t ∧ ObjectDone s2 t 0#6 ∧
        (∀ pa kid, p.toNat % 256 = 0 → Reaches s2 p.toNat pa kid →
          t.bytesUnder kid pa 8 = bytesOf 8 ({ movedTo c 3 with hdie := dieOf s2.cur } : CState).pack) ∧
        (NoImages s2 → ∃ o, IsReady t o ∧ o.ptr = p ∧ o.ctx = s2.ctx ∧ o.value = some (s.reg k1) ∧ o.version = (c.version + 1) % 2 ^ 32)) ∧
    (c.state = 2 → c.cls = classOf s1.cur → (s1.dropHeld s1.cur).core.cmdsAll = [] → ∀ s2,
      (s1.dropHeld s1.cur).release allClasses = .ok s2 → s2.core.cpe.queue = [] → s2.core.heldFor = none → s2.core.unit.isStep = false →
      s2.core.unit.group = none → (s2.parkedInfo s2.ctx p).bind (·.bound) = none → NoImages s2 → ∃ t, exec (.resume a b5 1#1) s = .next t ∧
        t.core.unit.running = false ∧ ∃ o, t.core.starting = some o ∧ o.ptr = p ∧ o.value = some (s.reg k1) ∧
          o.version = (c.version + 1) % 2 ^ 32)) ∧
  (s.contCheck p (s.reg b) (some 2) .atomic = (.ok c, s1) →
    (c.state ≠ 2 → exec (.cdiscard a b) s = .next (s1.raiseWith 0x048 p 0#32 s1.core.pc)) ∧
    (c.state = 2 → ∃ t, exec (.cdiscard a b) s = .next t ∧ ObjectDone s1 t 0#6 ∧
      ∀ pa kid, p.toNat % 256 = 0 → Reaches s1 p.toNat pa kid → t.bytesUnder kid pa 8 = bytesOf 8 (movedTo c 4).pack)) ∧
  (s.contCheck p (s.reg k0) none .atomic = (.ok c, s1) → (s.reg k1).toNat < 2 ^ 36 →
    (c.state = 0 ∨ c.state = 1 → exec (.crights a b5) s = .next (s1.raiseWith 0x048 p 0#32 s1.core.pc)) ∧
    (c.state ≠ 0 ∧ c.state ≠ 1 → ∃ t, exec (.crights a b5) s = .next t ∧ ObjectDone s1 t 0#6 ∧
      ∀ pa kid, p.toNat % 256 = 0 → s1.intervalOpen s1.ctx = false → Reaches s1 (p.toNat + 8) pa kid → t.bytesUnder kid pa 8 = bytesOf 8 (s.reg k1).toNat)) ∧
  (s.contCheck p (s.reg b) (some 3) .load = (.ok c, s1) → ∀ s2 s3 c', s1.orderBefore 0 none = .ok s2 →
    s2.cstate (dieOf s2.cur) s2.ctx p = (.ok c', s3) → ∃ t, exec (.cquery d a b) s = .next t ∧ ObjectDone s3 t d ∧
      t.reg d = (if d = 0#6 then 0#64 else BitVec.ofNat 64 c'.pack)) ∧
  (s.contCheck p (s.reg b) (some 1) .load = (.ok c, s1) → (∀ v, s.core.stall ≠ .copying v) → ∀ s2 s3 dc,
    s1.checkAccess (dieOf s1.cur) s1.ctx (s.reg d) (max 256 (s1.objField (dieOf s1.cur) s1.ctx p 0x14)) .atomic = (none, s2) →
    s2.cstate (dieOf s1.cur) s2.ctx (s.reg d) = (.ok dc, s3) → s3.outst (dieOf s1.cur) s3.ctx p = 0 →
    s3.outst (dieOf s1.cur) s3.ctx (s.reg d) = 0 →
    (c.state = 2 → dc.state = 0 ∨ dc.state = 4 → ∃ t, exec (.ccopy d a b) s = .next t ∧ t.core.stall = .copying c.version ∧
      ∀ pa kid, (s.reg d).toNat % 256 = 0 → dieOf s1.cur = dieOf s3.cur → Reaches s3 (s.reg d).toNat pa kid →
        t.bytesUnder kid pa 8 = bytesOf 8 (movedTo dc 1).pack) ∧
    (c.state = 2 → dc.state ≠ 0 → dc.state ≠ 4 → exec (.ccopy d a b) s = .next (s3.raiseWith 0x048 (s.reg d) 0#32 s3.core.pc))) ∧
  (∀ v, s.core.stall = .copying v → ∀ s2 s3 dc sc, s.cstate (dieOf s.cur) s.ctx (s.reg d) = (.ok dc, s2) →
    s2.cstate (dieOf s.cur) s2.ctx p = (.ok sc, s3) →
    (sc.version ≠ v → let t := s3.putCState (dieOf s3.cur) s3.ctx (s.reg d) (movedTo dc 4)
      exec (.ccopy d a b) s = .next (t.raiseWith 0x048 p 0#32 t.core.pc)) ∧
    (sc.version = v → ∀ bs s4, 256 ≤ bs.length → s3.ctxRead (dieOf s.cur) s3.ctx p.toNat (max 256 (s3.objField (dieOf s.cur) s3.ctx p 0x14)) = (.ok bs, s4) →
      let s5 := (s4.ctxWrite (dieOf s4.cur) s4.ctx ((s.reg d).toNat + 8) ((copiedImage bs).drop 8)).2
      let parked : CState := { sc with state := 2, version := (dc.version + 1) % 2 ^ 32, pool := dc.pool }
      ∃ t, exec (.ccopy d a b) s = .next t ∧ ObjectDone s4 t 0#6 ∧
        t.mem = (s5.putCState (dieOf s5.cur) s5.ctx (s.reg d) parked).mem ∧
        (∀ pa kid, (s.reg d).toNat % 256 = 0 → dieOf s5.cur = dieOf s4.cur → Reaches s5 (s.reg d).toNat pa kid →
          t.bytesUnder kid pa 8 = bytesOf 8 parked.pack) ∧
        t.parkedInfo s4.ctx (s.reg d) = (s4.parkedInfo s4.ctx p).map fun x =>
          { x with ptr := s.reg d, sweep := 0, uid := 0, bound := none, faults := [] }))

/-- 10 R213: SUSPEND writes its unit into the object, whose KEY and RIGHTS gB gives, and its core is free; gB of 2^36 or more is
refused. The register that a resume value goes to is the one SUSPEND names. What the part keeps beside the image, the register of
the resume value among it, is the model's choice (log 29); that the unit's stores perform first, log 53. -/
def Sys2Proof.Claims.SuspendWord : Prop := ∀ (s s1 : State) (d a b : RegNo), s.core.unit.packets = 0 →
  (2 ^ 36 ≤ (s.reg b).toNat → Raises s (.suspend d a b) 0x032 0#64) ∧
  ((s.reg b).toNat < 2 ^ 36 → Quiet s → s.core.half = none → s.core.faultDue = false → s.checkTarget (s.reg a) = (none, s1) →
    s1.core.unit.origin = none → s1.core.cpe.queue = [] → ∃ t, exec (.suspend d a b) s = .next t ∧
      t.core.unit.running = false ∧ t.core.stores = [] ∧
      ∀ c, (s1.done.cstate (dieOf s1.cur) s1.ctx (s1.reg a)).1 = .ok c →
        ∃ x, t.parkedInfo s1.ctx (s1.reg a) = some x ∧ x.dst = some d.toNat ∧ x.uid = s1.core.unit.uid)

end

namespace Sys2Proof.Claims
open Sys2Proof Sys2Proof.Machine

/-- Two byte ranges share no byte. -/
def Apart (a n b m : Nat) : Prop := a + n ≤ b ∨ b + m ≤ a

/-- 07 R131: a tile descriptor fits a memory of a size. -/
def TileOk (size : Nat) (t : Tile) : Prop :=
  t.fmt ≤ 12 ∧ t.cols % (if t.fmt = 4 then 4 else if t.fmt = 5 ∨ t.fmt = 8 then 2 else if t.fmt = 9 then 8 else 1) = 0 ∧
  (t.sc = true → t.fmt ∈ ([2, 3, 4, 5, 6, 8, 9] : List Nat)) ∧ 0 < t.rows ∧ 0 < t.cols ∧ t.off % 16 = 0 ∧ t.stride % 16 = 0 ∧
  (1 < t.rows → t.rb ≤ t.stride) ∧ t.off + t.span ≤ size ∧
  (t.sc = true → t.sco + t.scaleBytes ≤ size ∧ Apart t.off t.span t.sco t.scaleBytes) ∧
  (t.aw = true → t.awo + 16 ≤ size ∧ Apart t.off t.span t.awo 16) ∧
  (t.sc = true → t.aw = true → Apart t.sco t.scaleBytes t.awo 16)

/-- A byte of the rows or the scales of a tile. -/
def TileByte (t : Tile) (n : Nat) : Prop :=
  (∃ r < t.rows, t.off + r * t.stride ≤ n ∧ n < t.off + r * t.stride + t.rb) ∨ (t.sc = true ∧ t.sco ≤ n ∧ n < t.sco + t.scaleBytes)

/-- The tile a descriptor register names, in ordinary role. -/
def tileAt (s : State) (d : TileNo) : Tile := tileOf (s.td d)
def Ordinary (s : State) (d : TileNo) : Prop := TileOk (localSize s.cur) (tileAt s d)

/-- 07 R136: a memory operand of n bytes. -/
def MemOk (p : Word) (n : Nat) : Prop :=
  spaceOf p ≤ 2 ∧ p.toNat % 16 = 0 ∧ (spaceOf p = 0 → p.toNat < 2 ^ 57 ∧ p.toNat + n ≤ 2 ^ 57)

/-- The core has the engines, and a queue has room (02 R34, 10 R205). -/
def Room (s : State) (e : EngId) : Prop := classOf s.cur ≠ 2 ∧ (s.core.engine e).queue.length < 16

/-- An engine word issues (02 R34, 05 R106): its command enters its engine's queue with the next number of the engine's counter,
the word, its position and its operands, and the word goes on. The other engines, every general register and every byte of
memory are as before. -/
def Issues (s : State) (i : Instr) (e : EngId) (r0 r1 : Word) (d0 d1 d2 : BitVec 128) : Prop :=
  ∃ t c, exec i s = .next t ∧ Completes s t ∧ (t.core.engine e).queue = (s.core.engine e).queue ++ [c] ∧
    (t.core.engine e).issued = (s.core.engine e).issued + 1 ∧ (∀ x, x ≠ e → t.core.engine x = s.core.engine x) ∧
    c.num = (s.core.engine e).issued + 1 ∧ c.word = s.core.ir.word ∧ c.pos = s.core.pc ∧ c.st = .queued ∧ c.attachedTo = none ∧
    c.r0 = r0 ∧ c.r1 = r1 ∧ c.d0 = d0 ∧ c.d1 = d1 ∧ c.d2 = d2

/-- Register numbers of a pair. -/
def pairLo (b : BitVec 5) : RegNo := BitVec.ofNat 6 (2 * b.toNat)
def pairHi (b : BitVec 5) : RegNo := BitVec.ofNat 6 (2 * b.toNat + 1)

/-- 08 R153, R154, Table 43: a compute word's tiles and shape. -/
def ComputeOk (s : State) (d : TileNo) (a : Option TileNo) (b : TileNo) (g : Word) (wb : Bool) : Prop :=
  let td := tileAt s d
  let tb := tileAt s b
  let v := g.toNat
  let (k, n, m) := (v % 2 ^ 16, v / 2 ^ 16 % 2 ^ 16, v / 2 ^ 32 % 2 ^ 16)
  let bt := v / 2 ^ 48 % 2 = 1
  let apart := fun (x y : Tile) => ∀ n, ¬(TileByte x n ∧ TileByte y n)
  Ordinary s d ∧ td.fmt = 0 ∧ td.sc = false ∧ v < 2 ^ 49 ∧ 0 < m ∧ 0 < n ∧ 0 < k ∧ m ≤ td.rows ∧ n ≤ td.cols ∧
  (∀ x, a = some x → Ordinary s x ∧ 1 ≤ (tileAt s x).fmt ∧ (tileAt s x).fmt ≤ 8 ∧ m ≤ (tileAt s x).rows ∧ k ≤ (tileAt s x).cols ∧ apart td (tileAt s x)) ∧
  1 ≤ tb.fmt ∧ (bt → n ≤ tb.rows ∧ k ≤ tb.cols) ∧ (¬bt → k ≤ tb.rows ∧ n ≤ tb.cols) ∧
  (wb = false → Ordinary s b ∧ tb.fmt ≤ 8 ∧ apart td tb) ∧
  (wb = true → TileOk (wbSize s.cur) tb ∧ tb.aw = false ∧ tb.fmt ≤ 9 ∧ (tb.fmt = 9 → s.core.codebook.valid = true) ∧
    tb.off + tb.span ≤ s.core.ctl.whw ∧ (tb.sc = true → tb.sco + tb.scaleBytes ≤ s.core.ctl.whw))

def FloatFmt (f : Nat) : Prop := f = 0 ∨ f = 1
def IntFmt (f : Nat) : Prop := f = 6 ∨ f = 7 ∨ f = 11 ∨ f = 12
def SameSize (x y : Tile) : Prop := x.rows = y.rows ∧ x.cols = y.cols

/-- 09 R175: the formats of an element-wise word of a class (0 float, 1 integer, 2 either, 3 bits): all float, or all one
integer format, or all one format. -/
def ClassOk (k : Nat) (fs : List Nat) : Prop :=
  let one := ∀ f ∈ fs, ∀ g ∈ fs, f = g
  let fl := ∀ f ∈ fs, FloatFmt f
  let int := one ∧ ∀ f ∈ fs, IntFmt f
  if k = 0 then fl else if k = 1 then int else if k = 2 then fl ∨ int else one ∧ ∀ f ∈ fs, FloatFmt f ∨ IntFmt f

/-- 09 R172, Table 50: the tiles of a word with modes: mode 0 whole tile, 1 one row, 2 one column, 3 the scalar of a register. -/
def ModesOk (s : State) (d a : TileNo) (b : RegNo) (m : BitVec 2) (fmts : Nat → Nat → List Nat → Prop) : Prop :=
  let td := tileAt s d
  let ta := tileAt s a
  let nb : TileNo := BitVec.ofNat 5 b.toNat
  let tb := tileAt s nb
  Ordinary s d ∧ Ordinary s a ∧ td.sc = false ∧ ta.sc = false ∧ SameSize ta td ∧
  (m ≠ 3#2 → Ordinary s nb ∧ tb.sc = false) ∧
  (m = 0#2 → SameSize tb td) ∧ (m = 1#2 → tb.rows = 1 ∧ tb.cols = td.cols) ∧ (m = 2#2 → tb.rows = td.rows ∧ tb.cols = 1) ∧
  fmts td.fmt ta.fmt (if m = 3#2 then [] else [tb.fmt])

/-- The words with modes and the class of Table 51. -/
def modeWords : List (Nat × (TileNo → TileNo → RegNo → BitVec 2 → Instr)) :=
  [(2, .vadd), (2, .vsub), (2, .vmul), (0, .vfma), (2, .vmin), (2, .vmax), (1, .vadds), (3, .vand), (3, .vor), (3, .vxor), (1, .vshl), (1, .vshr)]

/-- The element-wise words on one tile, with their class. -/
def unaryWords : List (Nat × (TileNo → TileNo → Instr)) :=
  [(2, .vabs), (2, .vneg), (0, .vexp), (0, .vexp2), (0, .vlog2), (0, .vrcp), (0, .vrsqrt), (0, .vsqrt), (0, .vtanh), (0, .vsigm),
   (0, .vsilu), (0, .vgelu)]

/-- 07 R131: format, scales and COLS of a descriptor fit each other. -/
def FormatOk (t : Tile) : Prop :=
  t.fmt ≤ 12 ∧ t.cols % (if t.fmt = 4 then 4 else if t.fmt = 5 ∨ t.fmt = 8 then 2 else if t.fmt = 9 then 8 else 1) = 0 ∧
  (t.sc = true → t.fmt ∈ ([2, 3, 4, 5, 6, 8, 9] : List Nat))

/-- A tile operand: whether it is read in weight-buffer role (08 R155), and its descriptor register. -/
abbrev Operand := Bool × TileNo

/-- An operand passes 07 R131, and 08 R155 in weight-buffer role. -/
def Passes (s : State) (x : Operand) : Prop :=
  TileOk (if x.1 then wbSize s.cur else localSize s.cur) (tileAt s x.2) ∧ (x.1 = true → (tileAt s x.2).aw = false)

/-- An operand fails with a cause: FORMAT_INVALID, else TILE_INVALID. -/
def Fails (s : State) (x : Operand) (c : Nat) : Prop :=
  (¬FormatOk (tileAt s x.2) ∧ c = 0x030) ∨ (FormatOk (tileAt s x.2) ∧ ¬Passes s x ∧ c = 0x031)

/-- An engine word: its engine, the classes of unit that run it, its tile operands in the order of their checks. -/
structure EngineWord where
  eng : EngId
  classes : List Nat
  instr : Instr
  tiles : List Operand

/-- The words of major 0x32. -/
def copyWords (d a : TileNo) (r : RegNo) (p : BitVec 5) (b4 : BitVec 4) (x k : BitVec 3) (j : BitVec 2) (f : BitVec 1) : List EngineWord :=
  ([(.cpin d r f, [d]), (.cpout d r, [d]), (.cptin d p f, [d]), (.cptout d p, [d]), (.cpll d a f, [d, a]), (.gather d x p f k, [d]),
    (.scatter x d p k, [d]), (.idxld x p, []), (.fill d r, [d]), (.promote b4, []), (.subscr d p j, [d]), (.slotret r j, [])]
    : List (Instr × List TileNo)).map fun w => { eng := .cpe, classes := [0, 1], instr := w.1, tiles := w.2.map fun t => (false, t) }

/-- The words of major 0x33: MMA and MMAP are words of P-cores, MVM of D-cores. -/
def matrixWords (d a b : TileNo) (r : RegNo) (w : BitVec 1) : List EngineWord :=
  ([([0], .mma d a b r w, [(false, d), (false, a), (w == 1#1, b)]), ([1], .mvm d a b r w, [(false, d), (false, a), (w == 1#1, b)]),
    ([0], .mmapLead d a b r, [(false, d), (false, a), (true, b)]), ([0], .mmapFol d b r, [(false, d), (true, b)]),
    ([0, 1], .wbld d a, [(true, d), (false, a)]), ([0, 1], .cbld a, [(false, a)]), ([0, 1], .mzero d, [(false, d)])]
    : List (List Nat × Instr × List Operand)).map fun x => { eng := .mat, classes := x.1, instr := x.2.1, tiles := x.2.2 }

/-- The words of majors 0x34 and 0x35. -/
def vectorWords (d a : TileNo) (r : RegNo) (p : BitVec 5) (k m : BitVec 2) (o : BitVec 1) : List EngineWord :=
  let n : TileNo := BitVec.ofNat 5 r.toNat
  let second := if m = 3#2 then [d, a] else [d, a, n]
  (modeWords.map (fun x => (x.2 d a r m, second)) ++ unaryWords.map (fun x => (x.2 d a, [d, a])) ++
    ([(.vcmpeq d a r m, second), (.vcmplt d a r m, second), (.vcmple d a r m, second), (.vsel d a r m, second), (.vscl d a r, [d, a]),
      (.vbcastScalar d r, [d]), (.vrng d p, [d]), (.vmov d a, [d, a]), (.vdquant d a, [d, a]), (.vquant d a, [d, a]),
      (.vbcast d a k, [d, a]), (.vtrans d a, [d, a]), (.vcvt d a o, [d, a]), (.vrsum d a o, [d, a]), (.vrmax d a, [d, a]), (.vrmin d a, [d, a]),
      (.vargmax d a, [d, a]), (.vsample d a p, [d, a]), (.vsmaxo d a r, [d, a, n]), (.vsmaxf d a r, [d, a, n]), (.vrot d a p o, [d, a])]
      : List (Instr × List TileNo))).map fun x => { eng := .vec, classes := [0, 1], instr := x.1, tiles := x.2.map fun t => (false, t) }

end Sys2Proof.Claims

section
open Sys2Proof Sys2Proof.Machine Sys2Proof.Claims

/-- 07 R135–R147, 02 R34: every copy-engine word without an attached word, on operands that pass its checks, issues its command with
the operands captured. The order of the checks is log 38, and that SUBSCR takes a GLOBAL pointer log 42. -/
def Sys2Proof.Claims.CopyIssue : Prop := ∀ (s : State) (d a : TileNo) (b : RegNo) (b5 : BitVec 5) (b4 : BitVec 4) (x k : BitVec 3) (j : BitVec 2),
  Room s .cpe →
  let p := s.reg b
  let q := s.reg (pairLo b5)
  let r := s.reg (pairHi b5)
  let td := tileAt s d
  let z : BitVec 128 := 0#128
  let strided := fun (t : Tile) => t.sc = false ∧ MemOk q ((t.rows - 1) * r.toNat + t.rb) ∧ r.toNat % 16 = 0 ∧ r.toNat < 2 ^ 32
  let blocked := fun (t : Tile) => t.rows % 2 ^ k.toNat = 0 ∧ MemOk q 0 ∧ r.toNat % 16 = 0 ∧ r.toNat < 2 ^ 48
  (Ordinary s d → MemOk p td.imageSize → Issues s (.cpin d b 0#1) .cpe p 0#64 (s.td d) z z ∧ Issues s (.cpout d b) .cpe p 0#64 z (s.td d) z) ∧
  (Ordinary s d → strided td → Issues s (.cptin d b5 0#1) .cpe q r (s.td d) z z ∧ Issues s (.cptout d b5) .cpe q r z (s.td d) z) ∧
  (Ordinary s d → Ordinary s a → SameSize td (tileAt s a) → td.fmt = (tileAt s a).fmt → td.sc = (tileAt s a).sc →
    Issues s (.cpll d a 0#1) .cpe 0#64 0#64 (s.td d) (s.td a) z) ∧
  (Ordinary s d → blocked td → Issues s (.gather d x b5 0#1 k) .cpe q r (s.td d) z z ∧ Issues s (.scatter x d b5 k) .cpe q r z (s.td d) z) ∧
  (MemOk q (4 * (r.toNat % 128)) → r.toNat % 128 ≤ 64 → r.toNat / 128 % 2 ^ 25 = 0 → Issues s (.idxld x b5) .cpe q r z z z) ∧
  (Ordinary s d → Issues s (.fill d b) .cpe p 0#64 (s.td d) z z) ∧
  (MemOk (s.reg (BitVec.ofNat 6 (4 * b4.toNat))) 48 → Issues s (.promote b4) .cpe (s.reg (BitVec.ofNat 6 (4 * b4.toNat))) 0#64 z z z) ∧
  (Ordinary s d → td.rb = 256 → td.rows ≤ 256 → td.aw = true → spaceOf q = 0 → MemOk q 0 → Issues s (.subscr d b5 j) .cpe q r (s.td d) z z) ∧
  (p.toNat < 2 ^ 9 → Issues s (.slotret b j) .cpe p 0#64 (s.core.ringOf j.toNat) z z)

/-- 07 R143, 01 R14: a copy with FO and the matrix word after it issue as one: the matrix command names the copy it follows, both
take the next numbers of their counters, and control passes to the word after both. That the two issue as one step is log 39. -/
def Sys2Proof.Claims.AttachedIssue : Prop := ∀ (s s1 : State) (d a : TileNo) (b : RegNo) (b5 : BitVec 5) (x k : BitVec 3) (w : W32) (i : Instr),
  classOf s.cur ≠ 2 → s.core.ir.index = none → NoLoopEnd s → s.fetchWord (s.core.pc + 4#64) = .ok w s1 → w.toNat / 2 ^ 26 = 0x33 →
  decode w = .ok i → wrongClass s1.cur i = false → s1.matTiles i = none → s1.matFault i = none → s1.core.cpe.queue.length < 16 → s1.core.mat.queue.length < 16 →
  let p := s.reg b
  let q := s.reg (pairLo b5)
  let r := s.reg (pairHi b5)
  let td := tileAt s d
  let both := fun (f : Instr) => ∃ t c m, exec f s = .next t ∧ SameMemory s1 t ∧ (∀ g, t.reg g = s1.reg g) ∧
    t.core.cpe.queue = s1.core.cpe.queue ++ [c] ∧ t.core.mat.queue = s1.core.mat.queue ++ [m] ∧
    c.num = s1.core.cpe.issued + 1 ∧ m.num = s1.core.mat.issued + 1 ∧ c.word = s.core.ir.word ∧ c.attached = w ∧ m.word = w ∧
    m.attachedTo = some c.num ∧ m.pos = s1.core.pc + 4#64 ∧ m.landed = false ∧
    ((∀ l ∈ (bankOf s1.core s1.core.ctl.tlevel).toList, l.active = true → l.stop ≠ s1.core.pc + 4#64) → s1.core.ir = s.core.ir →
      t.core.pc = s1.core.pc + 8#64)
  (Ordinary s d → MemOk p td.imageSize → both (.cpin d b 1#1)) ∧
  (Ordinary s d → td.sc = false → MemOk q ((td.rows - 1) * r.toNat + td.rb) → r.toNat % 16 = 0 → r.toNat < 2 ^ 32 → both (.cptin d b5 1#1)) ∧
  (Ordinary s d → Ordinary s a → SameSize td (tileAt s a) → td.fmt = (tileAt s a).fmt → td.sc = (tileAt s a).sc → both (.cpll d a 1#1)) ∧
  (Ordinary s d → td.rows % 2 ^ k.toNat = 0 → MemOk q 0 → r.toNat % 16 = 0 → r.toNat < 2 ^ 48 → both (.gather d x b5 1#1 k))

/-- 08 R153–R165: every matrix word on operands that pass its checks issues its command; MMA and MMAP are words of P-cores, MVM of
D-cores, and raise ILLEGAL_INSTR on a core of the other class. What counts as an overlap of two tiles is log 26. -/
def Obligations.MatrixIssue : Prop := ∀ (s : State) (d a b : TileNo) (g : RegNo) (w : BitVec 1), Room s .mat →
  let v := s.reg g
  let td := tileAt s d
  let ta := tileAt s a
  let z : BitVec 128 := 0#128
  (ComputeOk s d (some a) b v (w == 1#1) →
    (classOf s.cur = 0 → Issues s (.mma d a b g w) .mat v 0#64 (s.td d) (s.td a) (s.td b)) ∧
    (classOf s.cur = 1 → Issues s (.mvm d a b g w) .mat v 0#64 (s.td d) (s.td a) (s.td b))) ∧
  (ComputeOk s d (some a) b v true → classOf s.cur = 0 → Issues s (.mmapLead d a b g) .mat v 0#64 (s.td d) (s.td a) (s.td b)) ∧
  (ComputeOk s d none b v true → classOf s.cur = 0 → Issues s (.mmapFol d b g) .mat v 0#64 (s.td d) z (s.td b)) ∧
  (TileOk (wbSize s.cur) td → td.aw = false → Ordinary s a → SameSize td ta → td.fmt = ta.fmt → td.sc = ta.sc →
    Issues s (.wbld d a) .mat 0#64 0#64 (s.td d) (s.td a) z) ∧
  (Ordinary s a → ta.fmt = 12 → ta.sc = false → ta.rows * ta.cols = 256 → Issues s (.cbld a) .mat 0#64 0#64 z (s.td a) z) ∧
  (Ordinary s d → td.fmt = 0 → td.sc = false → Issues s (.mzero d) .mat 0#64 0#64 (s.td d) z z) ∧
  (classOf s.cur = 1 → ∀ i ∈ ([.mma d a b g w, .mmapLead d a b g, .mmapFol d b g] : List Instr), Raises s i 0x002 s.core.wordTval) ∧
  (classOf s.cur = 0 → Raises s (.mvm d a b g w) 0x002 s.core.wordTval)

/-- 09 R171–R177: the words with modes and the element-wise words on one tile, on operands that pass their checks, issue their
commands; the scalar of mode 3 is captured. What counts as an overlap of two tiles is log 26. -/
def Sys2Proof.Claims.ElementwiseIssue : Prop := ∀ (s : State) (d a : TileNo) (b : RegNo) (m : BitVec 2), Room s .vec →
  let nb : TileNo := BitVec.ofNat 5 b.toNat
  let scalar : Word := if m = 3#2 then s.reg b else 0#64
  let second : BitVec 128 := if m = 3#2 then 0#128 else s.td nb
  let td := tileAt s d
  let ta := tileAt s a
  let moded := fun (i : Instr) => Issues s i .vec scalar 0#64 (s.td d) (s.td a) second
  let single := fun (i : Instr) => Issues s i .vec 0#64 0#64 (s.td d) (s.td a) 0#128
  (∀ x ∈ modeWords, ModesOk s d a b m (fun fd fa fb => ClassOk x.1 ([fd, fa] ++ fb)) → moded (x.2 d a b m)) ∧
  (ModesOk s d a b m (fun fd fa fb => fd = 7 ∧ ClassOk 2 (fa :: fb)) →
    moded (.vcmpeq d a b m) ∧ moded (.vcmplt d a b m) ∧ moded (.vcmple d a b m)) ∧
  (ModesOk s d a b m (fun fd fa fb => fa = 7 ∧ fd ≠ 4 ∧ fd ≠ 5 ∧ fd ≠ 8 ∧ fd ≠ 9 ∧ ∀ f ∈ fb, f = fd) → moded (.vsel d a b m)) ∧
  (∀ x ∈ unaryWords, Ordinary s d → Ordinary s a → td.sc = false → ta.sc = false → SameSize ta td → ClassOk x.1 [td.fmt, ta.fmt] →
    single (x.2 d a)) ∧
  (Ordinary s d → Ordinary s a → td.sc = false → ta.sc = false → SameSize ta td → FloatFmt td.fmt → FloatFmt ta.fmt →
    Issues s (.vscl d a b) .vec (s.reg b) 0#64 (s.td d) (s.td a) 0#128)

/-- 09 R177–R188: the other vector words, on operands that pass their checks, issue their commands. What counts as an overlap of two
tiles is log 26, the columns VROT needs log 48, and those of a state tile log 121. -/
def Sys2Proof.Claims.VectorIssue : Prop := ∀ (s : State) (d a : TileNo) (b : RegNo) (b5 : BitVec 5) (k : BitVec 2) (o : BitVec 1), Room s .vec →
  let td := tileAt s d
  let ta := tileAt s a
  let nb : TileNo := BitVec.ofNat 5 b.toNat
  let tb := tileAt s nb
  let q := s.reg (pairLo b5)
  let r := s.reg (pairHi b5)
  let single := fun (i : Instr) => Issues s i .vec 0#64 0#64 (s.td d) (s.td a) 0#128
  (Ordinary s d → (td.sc = false → Issues s (.vbcastScalar d b) .vec (s.reg b) 0#64 (s.td d) 0#128 0#128) ∧
    (td.sc = false → td.fmt = 12 ∨ td.fmt = 0 ∨ td.fmt = 1 → Issues s (.vrng d b5) .vec q r (s.td d) 0#128 0#128)) ∧
  (Ordinary s d → Ordinary s a →
    (SameSize td ta → td.fmt = ta.fmt → td.sc = ta.sc → single (.vmov d a)) ∧
    (SameSize td ta → td.sc = false → FloatFmt td.fmt → ta.sc = true → ta.fmt ∈ ([2, 3, 4, 5, 6, 8] : List Nat) → single (.vdquant d a)) ∧
    (SameSize td ta → ta.sc = false → FloatFmt ta.fmt → td.sc = true → td.fmt ∈ ([2, 3, 4, 5, 6, 8] : List Nat) → single (.vquant d a)) ∧
    (td.sc = false → ta.sc = false →
      (td.fmt = ta.fmt → (k = 0#2 → td.cols = ta.cols) → (k = 1#2 → td.rows = ta.rows) → single (.vbcast d a k)) ∧
      (td.fmt = ta.fmt → td.fmt ≠ 4 → td.fmt ≠ 5 → td.fmt ≠ 8 → td.fmt ≠ 9 → td.rows = ta.cols → td.cols = ta.rows → single (.vtrans d a)) ∧
      (SameSize ta td → td.fmt ≠ 9 → td.fmt ≠ 10 → ta.fmt ≠ 9 → ta.fmt ≠ 10 → (o = 1#1 → td.fmt = 2 ∨ td.fmt = 3) → single (.vcvt d a o)) ∧
      (FloatFmt ta.fmt → td.rows = ta.rows →
        (FloatFmt td.fmt → single (.vrsum d a o) ∧ single (.vrmax d a) ∧ single (.vrmin d a)) ∧
        (td.fmt = 12 → single (.vargmax d a) ∧ Issues s (.vsample d a b5) .vec q r (s.td d) (s.td a) 0#128)) ∧
      (FloatFmt ta.fmt → FloatFmt td.fmt → SameSize ta td →
        (Ordinary s nb → tb.sc = false → tb.fmt = 0 → tb.rows = ta.rows → 3 ≤ tb.cols →
          Issues s (.vsmaxo d a b) .vec 0#64 0#64 (s.td d) (s.td a) (s.td nb) ∧ Issues s (.vsmaxf d a b) .vec 0#64 0#64 (s.td d) (s.td a) (s.td nb)) ∧
        (ta.cols % 2 = 0 → q.toNat < 2 ^ 24 → q.toNat % 16 = 0 → q.toNat + ta.cols / 2 * 4 ≤ localSize s.cur →
          r.toNat % 2 ^ 32 + (ta.rows - 1) * (r.toNat / 2 ^ 32) ≤ 2 ^ 31 - 1 → Issues s (.vrot d a b5 o) .vec q r (s.td d) (s.td a) 0#128))))

/-- 02 R34, 10 R205, 07 R131, 22 Table 113: every engine word alone. One whose queue holds 16 commands waits; one of a memory-side
unit, which has no engine, raises ILLEGAL_INSTR, a copy with FO too; the first tile of a word that fails 07 R131 raises the cause R131
names: FORMAT_INVALID where FMT, COLS or SC do not fit the format, else TILE_INVALID where a bound, an alignment or a shape fails. That
a full queue and the descriptors are looked at in this order is the model's reading (DEDUCED, log 38). -/
def Obligations.IssueStops : Prop := ∀ (s : State) (d a b : TileNo) (r : RegNo) (p : BitVec 5) (b4 : BitVec 4) (x k : BitVec 3)
  (j m : BitVec 2) (f w o : BitVec 1),
  let words := copyWords d a r p b4 x k j 0#1 ++ matrixWords d a b r w ++ vectorWords d a r p j m o
  (∀ i ∈ words ++ copyWords d a r p b4 x k j f, classOf s.cur = 2 → Raises s i.instr 0x002 s.core.wordTval) ∧
  (∀ i ∈ words, classOf s.cur ∈ i.classes → 16 ≤ (s.core.engine i.eng).queue.length → Waits s i.instr .full) ∧
  (∀ i ∈ words, classOf s.cur ∈ i.classes → Room s i.eng → ∀ pre y post c, i.tiles = pre ++ y :: post → (∀ z ∈ pre, Passes s z) →
    Fails s y c → Raises s i.instr c 0#64)

end

namespace Sys2Proof.Claims
open Sys2Proof Sys2Proof.Machine

/-- What the part has sent the host since: each message as it leaves by its port, an event by the port that the host has chosen or, with
that one down, by the other (25 R405; log 146). -/
def Told (s t : State) (ms : List HostMsg) : Prop := t.host.out = s.host.out ++ ms.filterMap s.host.posted

/-- A STRM word acts on a live stream of its context, with its release done (17 R289). -/
def OnStream (s : State) (p : Word) (t : Stream) (s1 : State) : Prop :=
  s.core.unit.packets = 0 ∧ s.streamFault p = none ∧ s.release allClasses = .ok s1 ∧ s1.stream? s1.ctx (offOf p / 4096) = some t

/-- A STRM word completes: its acquire empties the L1, its result goes to gD, and it goes on. -/
def StreamDone (s t : State) (d : RegNo) (v : Word) : Prop :=
  GoesOn s t ∧ t.core.l1 = [] ∧ t.reg d = (if d = 0#6 then 0#64 else v) ∧ ∀ r, r ≠ d → t.reg r = s.reg r

/-- The record of a stream after a word is this one. -/
def StreamIs (t : State) (x : Stream) : Prop := t.stream? x.ctx x.handle = some x

/-- VERSION ‖ x. -/
def versioned (t : Stream) (x : Nat) : Word := BitVec.ofNat 64 (t.version * 2 ^ 32 + x)

/-- The record after a frame anchored at a (17 R292): the truncation is pending at the lowest anchor, G is a, P at most a, and
VERSION goes up by 1, past 0xFFFF_FFFF. -/
def framed (t : Stream) (a : Nat) : Stream :=
  { t with
    tanch := if t.tpend = true then min t.tanch a else a, tpend := true, g := a, p := min t.p a
    version := if t.version = 2 ^ 32 - 2 then 0 else (t.version + 1) % 2 ^ 32 }

end Sys2Proof.Claims

section
open Sys2Proof Sys2Proof.Machine Sys2Proof.Claims

/-- 17 R288–R294: cursor, frame, truncation and commit words. A word with another version than the stream's, and not 0xFFFF_FFFF,
returns STALE and changes no stream; while a truncation is pending the cursor and commit words raise STREAM_STATE. -/
def Sys2Proof.Claims.StreamCursorWords : Prop := ∀ (s s1 : State) (d a b : RegNo) (b5 : BitVec 5) (t : Stream),
  OnStream s (s.reg a) t s1 → s1.head.snaps = [] →
  let fits := fun (v : Word) => v.toNat / 2 ^ 32 = 2 ^ 32 - 1 ∨ v.toNat / 2 ^ 32 = t.version
  let n := (s.reg b).toNat % 2 ^ 32
  (∀ i ∈ ([.curadvG d a b, .curadvP d a b, .strunc d a b, .kvalloc d a b, .kvfree d a b] : List Instr), ¬fits (s.reg b) →
    ∃ u, exec i s = .next u ∧ StreamDone s1 u d (BitVec.allOnes 64) ∧ u.head.streams = s1.head.streams ∧ SameMemory s1 u) ∧
  (∀ i ∈ ([.curadvG d a b, .curadvP d a b, .kvalloc d a b, .kvfree d a b] : List Instr), fits (s.reg b) → t.tpend = true →
    exec i s = .next (s1.raiseWith 0x051 (s.reg a) 0#32 s1.core.pc)) ∧
  (fits (s.reg b) → t.tpend = false →
    (t.g + n < 2 ^ 31 → ∃ u, exec (.curadvG d a b) s = .next u ∧ StreamDone s1 u d (versioned t (t.g + n)) ∧ SameMemory s1 u ∧
      StreamIs u { t with g := t.g + n }) ∧
    (2 ^ 31 ≤ t.g + n → exec (.curadvG d a b) s = .next (s1.raiseWith 0x052 (s.reg a) 0#32 s1.core.pc)) ∧
    (t.p + n ≤ t.g → ∃ u, exec (.curadvP d a b) s = .next u ∧ StreamDone s1 u d (versioned t (t.p + n)) ∧ SameMemory s1 u ∧
      StreamIs u { t with p := t.p + n }) ∧
    (t.g < t.p + n → exec (.curadvP d a b) s = .next (s1.raiseWith 0x032 0#64 0#32 s1.core.pc)) ∧
    exec (.strunc d a b) s = .next (s1.raiseWith 0x051 (s.reg a) 0#32 s1.core.pc)) ∧
  (let v := (s.reg b).toNat
   (t.c ≤ v → v ≤ t.g → v < 2 ^ 32 → ∃ u, exec (.fracc d a b) s = .next u ∧
      StreamDone s1 u d (BitVec.ofNat 64 (framed t v).version) ∧ SameMemory s1 u ∧ StreamIs u (framed t v) ∧
      Told s1 u [.event "FRAME_ACCEPTED" t.queue "OK" [t.handle, t.g, t.p, v, (framed t v).version]]) ∧
   (v < t.c → v < 2 ^ 32 → exec (.fracc d a b) s = .next (s1.raiseWith 0x053 (BitVec.ofNat 64 (t.c * 2 ^ 32 + v)) 0#32 s1.core.pc))) ∧
  (∀ s2, fits (s.reg b) → t.tpend = true → n = 0 → t.snapint = 0 →
    s1.entriesFault t ((t.tanch + 15) / 16) (t.hiblk - (t.tanch + 15) / 16) = (none, s2) → ∃ u, exec (.strunc d a b) s = .next u ∧
    u.reg d = (if d = 0#6 then 0#64 else BitVec.ofNat 64 t.tanch) ∧
    StreamIs u { t with hiblk := min t.hiblk ((t.tanch + 15) / 16), tpend := false, tanch := 0 }) ∧
  (let q := s.reg (pairLo b5)
   let p := q.toNat % 2 ^ 32
   let obj := s.reg (pairHi b5)
   fits q → t.tpend = false → s1.core.cmdsAll = [] → s1.intervalOpen s1.ctx = false →
    (p < t.c ∨ t.p < p → exec (.scommit d a b5) s = .next (s1.raiseWith 0x032 0#64 0#32 s1.core.pc)) ∧
    (t.c ≤ p → p ≤ t.p → (∀ c, s1.ctx? s1.ctx = some c → c.ckptOpen = false) → ∀ s2, s1.checkTarget obj = (none, s2) →
      (∀ c, s2.ctx? s2.ctx = some c → c.ckptOpen = false) → (s2.ctx? s2.ctx).isSome →
      ∃ u c, exec (.scommit d a b5) s = .next u ∧ u.reg d = (if d = 0#6 then 0#64 else versioned t p) ∧ u.core.l1 = [] ∧
        StreamIs u { t with c := p, cobj := obj } ∧ alGet s2.ctx u.ctxs = some c ∧ c.ckptOpen = true ∧ c.ckptObj = some obj ∧
        c.ckptOwner = some s2.cur))

/-- 17 R295–R298: SSNAP reads the state its release leaves, asks for the copy of a snapshot, waits for it and completes with the
version the copy found, or raises STREAM_INVALID where the stream has closed meanwhile; KVALLOC takes a page for an empty block
whose entry may be written, KVFREE empties one, KVBORROW borrows a batch from the lender named, or, with 0xFF, from the one the pool
chooses. That the permission of a block entry is looked at first is log 45. -/
def Sys2Proof.Claims.StreamPageWords : Prop := ∀ (s s1 : State) (d a b : RegNo) (t : Stream), OnStream s (s.reg a) t s1 →
  let v := (s.reg b).toNat
  let n := v % 2 ^ 32
  let live := (v / 2 ^ 32 = 2 ^ 32 - 1 ∨ v / 2 ^ 32 = t.version) ∧ t.tpend = false
  (live → (∀ k, s.core.stall ≠ .control k) → (∀ w, s.core.stall ≠ .took w) → s1.snapBusy t = false → t.snapint ≠ 0 → n % t.snapint = 0 → n ≤ t.g →
    (t.snaplast = 2 ^ 32 - 1 ∨ t.snaplast < n) → (t.snapAt t.c).map (·.1) ≠ some (n / t.snapint % t.nsnap) →
    ∀ bs s2, s1.ctxRead t.ddie t.ctx t.rstate.toNat t.rsize = (.ok bs, s2) →
    ∃ j, exec (.ssnap d a b) s = .next { s2 with
        head := { s2.head with snaps := s2.head.snaps ++ [j] }, core := { s2.core with stall := .control false } } ∧
      j.ctx = t.ctx ∧ j.handle = t.handle ∧ j.slot = n / t.snapint % t.nsnap ∧ j.pos = n ∧ j.version = t.version ∧ j.rank = s1.cur ∧
      j.bytes = bs) ∧
  (s.core.stall = .control false → Waits s (.ssnap d a b) (.control false)) ∧
  (∀ w, s.core.stall = .took w → ∃ u, exec (.ssnap d a b) s = .next u ∧ StreamDone s u d w) ∧
  (s.core.stall = .control true → Raises s (.ssnap d a b) 0x050 (s.reg a)) ∧
  (live → n < t.nblk → ∀ s0 s2, s1.readEntryAt t n = (.ok 0xFFFFFFFF, s0) →
    (∀ c va, s0.ctxCheck headDie t.ctx (t.btab.toNat + 4 * n) 4 .store = (some (c, va), s2) →
      exec (.kvalloc d a b) s = .next (s2.raiseWith c (BitVec.ofNat 64 (t.btab.toNat + 4 * n)) 0#32 s2.core.pc)) ∧
    (s0.ctxCheck headDie t.ctx (t.btab.toNat + 4 * n) 4 .store = (none, s2) →
    (∀ e s3 s4, s2.takePage t.ctx t.ddie = (some e, s3) → s3.writeEntryAt t n e = (none, s4) →
      ∃ u, exec (.kvalloc d a b) s = .next u ∧ StreamDone s4 u d (BitVec.ofNat 64 e) ∧ SameMemory s4 u ∧
        StreamIs u { t with hiblk := max t.hiblk (n + 1) } ∧ (∀ r, u.pageRec t.ctx e = some r → r.place = .entry t.handle n)) ∧
    (∀ s3, s2.takePage t.ctx t.ddie = (none, s3) → exec (.kvalloc d a b) s = .next (s3.raiseWith 0x054 (s.reg a) 0#32 s3.core.pc)))) ∧
  (live → n < t.nblk → (∀ e s2, s1.freeBlock t n = (.ok e, s2) → n + 1 ≠ t.hiblk →
      ∃ u, exec (.kvfree d a b) s = .next u ∧ StreamDone s2 u d (BitVec.ofNat 64 e) ∧ SameMemory s2 u) ∧
    (∀ c s2, s1.freeBlock t n = (.error c, s2) →
      exec (.kvfree d a b) s = .next (s2.raiseWith c (BitVec.ofNat 64 (t.btab.toNat + 4 * n)) 0#32 s2.core.pc))) ∧
  (live → t.nblk ≤ n → ∀ i ∈ ([.kvalloc d a b, .kvfree d a b] : List Instr), exec i s = .next (s1.raiseWith 0x032 0#64 0#32 s1.core.pc)) ∧
  (v = 0xFF → (∀ l, s1.lender t.ctx t.ddie = some l → ∃ u, exec (.kvborrow d a b) s = .next u ∧ u.reg d = (if d = 0#6 then 0#64 else 64#64)) ∧
    (s1.lender t.ctx t.ddie = none → ∃ u, exec (.kvborrow d a b) s = .next u ∧ StreamDone s1 u d 0#64 ∧ SameMemory s1 u)) ∧
  (v ∈ neighbours t.ddie → (s1.dieAllowed t.ctx v = false ∨ s1.canSpare t.ctx v = false) →
    ∃ u, exec (.kvborrow d a b) s = .next u ∧ StreamDone s1 u d 0#64 ∧ SameMemory s1 u) ∧
  (v ≠ 0xFF → v ∉ neighbours t.ddie → exec (.kvborrow d a b) s = .next (s1.raiseWith 0x032 0#64 0#32 s1.core.pc))

/-- 17 R299–R301: SLSEND adds the transfer of its descriptor to its channel, and takes the next number of the channel's counter;
SLCANCEL of no open transfer takes the next number, which completes at once. An XID clashes within its context and channel, and a
descriptor whose SRC or DST lies in another space raises OPERAND_INVALID (DEDUCED, log 63); the handle's package has answered (log 132). -/
def Obligations.SluiceWords : Prop := ∀ (s : State) (d a b : RegNo) (die ch : Nat), s.core.unit.packets = 0 →
  s.sendHandle (s.reg a) = some (die, ch) → s.handleAsks (s.reg a) = s →
  (∀ loc s1 s2 s3 bs, spaceOf (s.reg b) = 0 → s.locate (s.reg b) 64 64 .atomic = .ok loc s1 → s1.release allClasses = .ok s2 →
    s2.ctxRead die s2.ctx (s.reg b).toNat 64 = (.ok bs, s3) →
    let n := (s3.slTimeline die ch s3.ctx).issued + 1
    let x := slDescOf (s.reg a) (s.reg b) s3.ctx n (s3.chan die ch).opened bs
    (x.valid bs = true → s3.openXfer die ch s3.ctx x.xid = none → ∃ t, exec (.slsend d a b) s = .next t ∧
      StreamDone s3 t d (BitVec.ofNat 64 n) ∧ SameMemory s3 t ∧ (t.slTimeline die ch s3.ctx).issued = n ∧
      ∃ y : Transfer, (t.chan die ch).transfers = (s3.chan die ch).transfers ++ [y] ∧ y.desc = x) ∧
    (x.valid bs = false ∨ (s3.openXfer die ch s3.ctx x.xid).isSome → exec (.slsend d a b) s = .next (s3.raiseWith 0x032 0#64 0#32 s3.core.pc))) ∧
  (2 ^ 16 ≤ (s.reg b).toNat → Raises s (.slcancel d a b) 0x032 0#64) ∧
  ((s.reg b).toNat < 2 ^ 16 → ∀ s1, s.release allClasses = .ok s1 →
    let n := (s1.slTimeline die ch s1.ctx).issued + 1
    (s1.openXfer die ch s1.ctx (s.reg b).toNat = none → ∃ t, exec (.slcancel d a b) s = .next t ∧ StreamDone s1 t d (BitVec.ofNat 64 n) ∧
      SameMemory s1 t ∧ (t.slTimeline die ch s1.ctx).issued = n ∧ n ∈ (t.slTimeline die ch s1.ctx).done) ∧
    (∀ x, s1.openXfer die ch s1.ctx (s.reg b).toNat = some x → ∃ t, exec (.slcancel d a b) s = .next t ∧
      StreamDone s1 t d (BitVec.ofNat 64 n) ∧ SameMemory s1 t))

end

namespace Sys2Proof.Claims
open Sys2Proof Sys2Proof.Machine

/-- The event happens and answers the state. -/
def Answers (s : State) (i : Instr) (P : State → Prop) : Prop := ∃ t, exec i s = .next t ∧ P t

/-- A die's record of a sweep. -/
def dieSweep (s : State) (die id : Nat) : Option DieSweep := (s.die die).sweeps.find? fun x => x.id = id

/-- A stack without a bad symbol or lane, a lost or failed line, or a transfer under way. -/
def Sound (st : Stack) : Prop :=
  st.bad = [] ∧ st.lost = [] ∧ st.erased = [] ∧ st.badLanes = [] ∧ st.failedLines = [] ∧ st.episodes = []

/-- The way a context's interval is after a rollback: closed. -/
def IntervalClosed (t : State) (ctx : Nat) : Prop := ∃ k, alGet ctx t.ctxs = some k ∧ k.ckptOpen = false

/-- A killed context: no sweep of it is left, and the host is told, with the cause, while an event port is up. -/
def ToldKilled (t : State) (ctx cause : Nat) : Prop :=
  (∀ p, t.host.eventPort = some p → t.host.out.getLast? = some (.event "CONTEXT_KILLED" 0 "OK" [ctx, cause] p)) ∧
  ∀ w ∈ t.head.sweeps, w.ctx ≠ ctx

end Sys2Proof.Claims

section
open Sys2Proof Sys2Proof.Machine Sys2Proof.Claims

/-- 24 R374, R383, R384, R391, 14 R258: the containment codes of TRAP and the events of the same name. 0xFF0 in a task raises
OPERAND_INVALID; in a step that has restarts left it hands the step out again. 0xFF1 and ROLLBACK close the open interval; with none
open 0xFF1 raises CHK_STATE. 0xFF2 and CONTEXT_KILL kill the context. A kill or a rollback waits while a unit of the context is inside a
word (24 R375). Which causes the events carry is the model's choice (log 139). -/
def Obligations.ContainmentCodes : Prop := ∀ (s : State) (rank ctx cause : Nat),
  (s.core.unit.isStep = false → Raises s .trapRestartStep 0x032 0#64) ∧
  (cause ≠ 0x00B → cause ≠ 0x077 → exec (.stepRestart rank cause) s = .next s) ∧
  (∀ w x i, (i = .trapRestartStep ∧ rank = s.cur) ∨ i = .stepRestart rank 0x00B → (s.unitAt rank).unit.running = true →
    (s.unitAt rank).unit.isStep = true → (s.unitAt rank).unit.group = none → (s.unitAt rank).unit.origin = none →
    (s.unitAt rank).stores = [] → (s.unitAt rank).loads = [] → (s.unitAt rank).cmdsAll = [] → s.sweep? (s.unitAt rank).unit.sweep = some w →
    dieSweep s (s.unitAt rank).unit.handedBy w.id = some x → x.restartsOf (s.unitAt rank).unit.stepNo < w.record.rlimit →
    (s.unitAt rank).unit.stepNo ∉ x.done → w.stop = false → (∀ y ∈ s.stepUndo, y.sweep ≠ w.id) →
    Answers s i fun t => (t.unitAt rank).unit.running = false ∧ (t.sweep? w.id).map (·.running) = some (w.running - 1) ∧
      ∃ z, dieSweep t (s.unitAt rank).unit.handedBy w.id = some z ∧ z.again = x.again ++ [(s.unitAt rank).unit.stepNo] ∧
        z.restartsOf (s.unitAt rank).unit.stepNo = x.restartsOf (s.unitAt rank).unit.stepNo + 1) ∧
  (s.intervalOpen s.ctx = false → Raises s .trapRollBack 0x044 0#64) ∧
  (∀ i s1 k, (i = .trapRollBack ∧ ctx = s.ctx) ∨ (i = .rollback ctx cause ∧ cause ∈ ([0x00B, 0x020, 0x021, 0x070] : List Nat)) →
    s.intervalOpen ctx = true → s.ctx? ctx = some k → k.killDue = false →
    (s.atBoundary ctx = true → s.fatalFull ctx = (false, s1) → (s1.ctx? ctx).isSome → Answers s i fun t => IntervalClosed t ctx) ∧
    (s.atBoundary ctx = false → Answers s i fun t => SameMemory s t ∧ ∃ c, alGet ctx t.ctxs = some c ∧ c.ckptOpen = true ∧ c.stopDue.isSome)) ∧
  (∀ i code s1 c l, (i = .trapKillContext ∧ ctx = s.ctx ∧ code = 0x074 ∧ l = { packed := 0x074, pos := s.core.pc } ∧
      s.putFatal ctx (some s.cur) code 1 l = (true, s1)) ∨
    (i = .contextKill ctx cause ∧ cause ∈ ([0x070, 0x071, 0x072, 0x074, 0x076] : List Nat) ∧ code = cause ∧ l = { packed := cause } ∧
      s.putFatal ctx none code 1 l = (true, s1)) →
    (∃ k, s.ctx? ctx = some k ∧ k.killed = false) → s1.ctx? ctx = some c → c.killed = false →
    (s1.atBoundary ctx = true → c.drop = none → Answers s i fun t => ToldKilled t ctx code) ∧
    (s1.atBoundary ctx = false → c.killDue = false → Answers s i fun t => SameMemory s1 t ∧ ∃ k, alGet ctx t.ctxs = some k ∧
      k.killed = false ∧ k.stopDue = some { roll := false, cause := code }))

/-- 12 R231, 22 R359: a write of SPLIT by the context that holds the D-die waits until it takes effect; then the split is the new
one, the ways that change hands read as zero, and no other byte of memory has changed, where no store waits at the die's banks. What
becomes of the cached lines, and of accesses to the ways meanwhile, is log 64. -/
def Sys2Proof.Claims.SplitEvents : Prop := ∀ (s : State) (die : Nat) (value : Word),
  let n := value.toNat % 32
  let own := dieOf s.cur
  ((∀ old, s.core.stall ≠ .took old) → (s.die own).splitTo = [] →
    (isPDie own = false → (s.die own).dgrant = some s.ctx → n ≤ 16 → Answers s (.splitWrite value) fun t =>
      (t.die own).splitTo = [(s.cur, s.ctx, n)] ∧ t.core.stall = .control false ∧ t.core.pc = s.core.pc ∧ SameMemory s t) ∧
    (isPDie own = true ∨ (s.die own).dgrant ≠ some s.ctx → Raises s (.splitWrite value) 0x00D 0#64) ∧
    (isPDie own = false → (s.die own).dgrant = some s.ctx → 16 < n → Raises s (.splitWrite value) 0x032 0#64)) ∧
  (∀ old, s.core.stall = .took old → Answers s (.splitWrite value) fun t => FrontFrame s t ∧ GoesOn s t ∧ ∀ r, t.reg r = s.reg r) ∧
  (∀ r ctx w rest, (s.die die).splitTo = (r, ctx, w) :: rest → w ≤ 16 → (s.die die).split ≤ 16 →
    (w < (s.die die).split → (s.stack (die - 32)).sram = []) → (∀ u ∈ s.units, ∀ e ∈ u.2.stores, ∀ o, e.loc ≠ .shared die o) →
    let lo := min (s.die die).split w
    let hi := max (s.die die).split w
    Answers s (.splitTakesEffect die) fun t => (t.die die).split = w ∧ (t.die die).splitTo = rest ∧
      (∀ k, (16 - hi) * 25165824 ≤ k → k < (16 - lo) * 25165824 → Memory.read t.mem (sharedKey die k) = some 0#8) ∧
      (∀ a, (∀ k, (16 - hi) * 25165824 ≤ k → k < (16 - lo) * 25165824 → a ≠ sharedKey die k) → Memory.read t.mem a = Memory.read s.mem a))

/-- 22 R358, R360, 04 R87, R88, 05 R111: TINV leaves no cached translation of the unit's context that touches its range; arming a
watchpoint puts it into the slice of its die, disarming takes it out of every slice; a line fetched ahead is in the fetch
buffer. -/
def Sys2Proof.Claims.RegisterEvents : Prop := ∀ (s : State) (n : BitVec 2) (value va : Word),
  (∀ s1, s.release allClasses = .ok s1 → (∀ u ∈ s1.units, u.2.stores = [] ∧ u.2.loads = [] ∧ u.2.pend = none ∧ u.2.outgoing = [] ∧
      ∀ k l, u.2.stall ≠ .pushing k l) →
    let code := value.toNat / 4 % 4
    let bits := if code = 0 then 16 else if code = 1 then 21 else if code = 2 then 30 else 57
    let page := value.toNat / 2 ^ 16 % 2 ^ 41 * 2 ^ 16 / 2 ^ bits
    Answers s (.tinv value) fun t => GoesOn s1 t ∧ SameMemory s1 t ∧ (∀ r, t.reg r = s1.reg r) ∧
      (∀ e, e ∈ t.core.tcache ∨ e ∈ t.core.cpeTcache ∨ (∃ d, e ∈ (t.die d).tlb) → e.ctx = s1.ctx →
        (page + 1) * 2 ^ bits ≤ e.vpage * 2 ^ e.bits ∨ (e.vpage + 1) * 2 ^ e.bits ≤ page * 2 ^ bits)) ∧
  (∀ s1 die sh at_ s2, s.release allClasses = .ok s1 → s1.watchRange (s1.core.ctl.wpaddr[n.toNat]'(by have := n.isLt; omega)) (value.toNat % 65536 + 1) = .ok (die, sh, at_) s2 →
    Answers s (.watchpointArm n value) fun t => GoesOn s2 t ∧ SameMemory s2 t ∧ (∀ r, t.reg r = s2.reg r) ∧
      ∃ w ∈ (t.die die).slices, w.ctx = s2.ctx ∧ w.rank = s2.cur ∧ w.num = n.toNat ∧ w.shared = sh ∧ w.start = at_ ∧
        w.len = value.toNat % 65536 + 1) ∧
  (∀ s1, s.release allClasses = .ok s1 → Answers s (.watchpointDisarm n value) fun t => Completes s1 t ∧
    ∀ d ∈ t.dies, ∀ w ∈ d.2.slices, ¬(w.rank = s1.cur ∧ w.num = n.toNat)) ∧
  (s.core.unit.running = true → va.toNat < 2 ^ 57 → s.core.fetched va.toNat = none → ∀ s2, s.fillFetch va.toNat = .ok () s2 →
    Answers s (.fetchLine va) fun t => (t.core.fetched va.toNat).isSome = true ∧ t.core.pc = s2.core.pc ∧ SameMemory s2 t)

/-- 04 R80–R86: a die's walker takes its oldest miss, at most 32 walks at once, and begins below the lowest pointer its walk cache
holds for the address, or at the root of the context; each table read that returns goes a level down, and the walk cache takes the
pointer, or ends in a cached leaf, or ends the walk at its level with the fault of its entry or of the read. A dead link holds the
read (21 R334; log 126). What the walk cache and a translation cache drop when they are full is log 6. -/
def Sys2Proof.Claims.WalkerEvents : Prop := ∀ (s : State) (die index : Nat),
  (∀ w rest c, (s.die die).missq = w :: rest → ((s.die die).walks.filter fun x => x.ended.isNone).length < 32 → s.ctx? w.ctx = some c →
    let at_ := (s.die die).walkStart w.ctx (w.region * 65536) c.root
    ((∀ p ∈ (s.die die).ptrs, p.ctx ≠ w.ctx) → at_ = (4, c.root)) ∧
    Answers s (.translationWalk die) fun t => (t.die die).missq = rest ∧ SameMemory s t ∧
      (t.die die).walks = (s.die die).walks ++ [{ w with level := at_.1, table := at_.2 }]) ∧
  (∀ w s1 e, (s.die die).walks[index]? = some w → w.ended = none → s.reaches die (homeDie w.table) = true →
    s.tableRead die w.ctx (w.table + 8 * levelIndex (w.region * 65536) w.level) = (.ok e, s1) →
    (∀ next, readEntry e w.level = .next next → Answers s (.walkReadReturn die index) fun t =>
      (t.die die).walks[index]? = some { w with level := w.level - 1, table := next } ∧ SameMemory s1 t ∧
      ∃ x ∈ (t.die die).ptrs, x.ctx = w.ctx ∧ x.level = w.level ∧ x.table = next) ∧
    (∀ c, readEntry e w.level = .bad c → Answers s (.walkReadReturn die index) fun t =>
      (t.die die).walks[index]? = some { w with ended := some c } ∧ SameMemory s1 t) ∧
    (∀ f s2, readEntry e w.level = .leaf f →
      s1.setLeafBits die w.ctx (w.table + 8 * levelIndex (w.region * 65536) w.level) 32 = (none, s2) → Answers s (.walkReadReturn die index) fun t =>
        (t.die die).walks.length + 1 = (s.die die).walks.length ∧ SameMemory s2 t ∧
        ∃ x ∈ (t.die die).tlb, x.ctx = w.ctx ∧ x.vpage = w.region * 65536 % 2 ^ 57 / 2 ^ x.bits ∧ x.attr = leafAttr f)) ∧
  (∀ w s1 c, (s.die die).walks[index]? = some w → w.ended = none → s.reaches die (homeDie w.table) = true →
    s.tableRead die w.ctx (w.table + 8 * levelIndex (w.region * 65536) w.level) = (.error c, s1) →
    Answers s (.walkReadReturn die index) fun t => (t.die die).walks[index]? = some { w with ended := some c } ∧ SameMemory s1 t)

/-- 12 R229, R235–R239: a transfer that fails opens an episode on its pseudo-channel, a retry that fails counts, the third calls for
the lane test, a transfer that crosses ends the episode, one that fails after the fresh read is a failed transfer; the lane test,
over every group that failed in the last transfer, swaps a spare in for a bad lane, or without one makes the lane an erasure and
retires the pseudo-channel while the reserve lasts (on one that is retired already it makes a record: log 133), or where it finds no
lane has the array read afresh; a line that can be read moves out of a retired pseudo-channel; a cached line that is replaced leaves
the cache, and no byte changes where its block is not stored afresh. Which line is replaced, and when, is log 5; lane faults stand
in the state, log 22. -/
def Sys2Proof.Claims.StackEvents : Prop := ∀ (s : State) (k line : Nat),
  let st := s.stack k
  let pch := pchOf line
  let episode := fun (t : State) => (t.stack k).episode pch
  (∀ x r, st.episode pch = none → line ∉ st.moved → st.failing line = x :: r → Answers s (.lineTransfer k line) fun t =>
    episode t = some { pch := pch, line := line, beat := x.1, grp := x.2, fails := x :: r } ∧ SameMemory s t) ∧
  (∀ e, st.episode pch = some e → e.testing = false → e.line = line → line ∉ st.moved →
    (∀ x r, st.failing line = x :: r → e.fresh = false →
      (e.retry = true → Answers s (.lineTransfer k line) fun t => SameMemory s t ∧
        episode t = some { e with retries := e.retries + 1, testing := decide (3 ≤ e.retries + 1), beat := x.1, grp := x.2, fails := x :: r }) ∧
      (e.retry = false → Answers s (.lineTransfer k line) fun t => SameMemory s t ∧
        episode t = some { e with retry := true, beat := x.1, grp := x.2, fails := x :: r })) ∧
    (∀ x r, st.failing line = x :: r → e.fresh = true → Answers s (.lineTransfer k line) fun t => SameMemory s t ∧
      episode t = none ∧ line ∈ (t.stack k).failedLines) ∧
    (st.failing line = [] → Answers s (.lineTransfer k line) fun t => episode t = none ∧ SameMemory s t)) ∧
  (∀ e, st.episode pch = some e → e.testing = true →
    let tested := { e with retries := 0, retry := false, testing := false, logged := true }
    ((∀ x ∈ e.fails, st.testFinds pch x.2 = none) → Answers s (.laneTest k pch) fun t => SameMemory s t ∧
      episode t = some { e with testing := false, fresh := true }) ∧
    (∀ pre x post l, e.fails = pre ++ x :: post → (∀ y ∈ pre, st.testFinds pch y.2 = none) → st.testFinds pch x.2 = some l →
      (∀ n, st.freeSpare pch = some n → Answers s (.laneTest k pch) fun t =>
        (t.stack k).swaps = (pch, l, n) :: st.swaps ∧ episode t = some tested ∧ SameMemory s t) ∧
      (st.freeSpare pch = none → Answers s (.laneTest k pch) fun t => (t.stack k).erased = (pch, l) :: st.erased ∧
        episode t = some tested ∧ SameMemory s t ∧ st.seq < (t.stack k).seq ∧
        (pch ∉ st.retired → st.reserveUsed < 2 → (t.stack k).retired = pch :: st.retired ∧ (t.stack k).reserveUsed = st.reserveUsed + 1) ∧
        (pch ∉ st.retired → 2 ≤ st.reserveUsed → (t.stack k).retired = st.retired ∧ pch ∈ (t.stack k).degraded) ∧
        (pch ∈ st.retired → (t.stack k).retired = st.retired ∧ (t.stack k).reserveUsed = st.reserveUsed)))) ∧
  (pch ∈ st.retired → line ∉ st.moved → line ∉ st.lost → ∀ s1,
    (s.readLine k line = (true, s1) → Answers s (.evacuationLineMove k line) fun t => line ∈ (t.stack k).moved ∧ SameMemory s1 t) ∧
    (s.readLine k line = (false, s1) → Answers s (.evacuationLineMove k line) fun t => line ∈ (t.stack k).lost ∧ SameMemory s1 t)) ∧
  (∀ x, st.cached line = some x → Sound st → Answers s (.cacheLineReplacement k line) fun t =>
    (t.stack k).cached line = none ∧ (x.dirty = false ∨ (x.compress = false ∧ st.classAt (line / 4) = 4) → SameMemory s t))

end

namespace Sys2Proof.Claims
open Sys2Proof Sys2Proof.Machine

/-- A command of a core, by its number. -/
def cmdOf (s : State) (rank : Nat) (e : EngId) (num : Nat) : Option Cmd := ((s.unitAt rank).engine e).queue.find? fun c => c.num = num

/-- A command left its queue, completed; every other command of the engine stays as it was. -/
def Completed (s t : State) (rank : Nat) (e : EngId) (num : Nat) : Prop :=
  ((t.unitAt rank).engine e).queue = ((s.unitAt rank).engine e).queue.filter fun c => c.num ≠ num

/-- A command is the one queue entry with its number. -/
def Only (s : State) (rank : Nat) (e : EngId) (c : Cmd) : Prop :=
  c ∈ ((s.unitAt rank).engine e).queue ∧ ∀ x ∈ ((s.unitAt rank).engine e).queue, x.num = c.num → x = c

/-- The copies between memories, whose transfer starts with no check. -/
def plainCopy (i : Instr) : Prop := match i with
  | .cpin _ _ _ => True
  | .cpout _ _ => True
  | .cptin _ _ _ => True
  | .cptout _ _ => True
  | .cpll _ _ _ => True
  | .fill _ _ => True
  | .idxld _ _ => True
  | .slotret _ _ => True
  | _ => False

/-- The copies from a memory into a tile, and from a tile to a memory. -/
def inwardCopy (i : Instr) : Prop := match i with
  | .cpin _ _ _ => True
  | .cptin _ _ _ => True
  | .gather _ _ _ _ _ => True
  | _ => False
def outwardCopy (i : Instr) : Prop := match i with
  | .cpout _ _ => True
  | .cptout _ _ => True
  | .scatter _ _ _ _ => True
  | _ => False

/-- The destination of a compute command takes its results: an FP32 tile of the shape or more (08 R153, R154). -/
def Accumulates (rank : Nat) (c : Cmd) : Prop :=
  TileOk (localSize rank) (tileOf c.d0) ∧ (tileOf c.d0).fmt = 0 ∧ (shapeOf c.r0).m ≤ (tileOf c.d0).rows ∧ (shapeOf c.r0).n ≤ (tileOf c.d0).cols

/-- The element of D in row i and column j. -/
def elemKey (rank : Nat) (c : Cmd) (i j : Nat) : Nat := localKey rank ((tileOf c.d0).off + i * (tileOf c.d0).stride + 4 * j)

/-- 08 R159, R160: the elements of D after a compute command of a core: each is its old value with the products of A's row and B's
column summed in chunks of 32 (06 R125). -/
def ComputedTile (s t : State) (rank : Nat) (c : Cmd) (aRank : Nat) (a : Tile) (wb : Bool) : Prop :=
  let x := shapeOf c.r0
  let book := (s.unitAt rank).codebook.ent
  let cols := bColumns s.mem (if wb = true then wbKey rank 0 else localKey rank 0) book (tileOf c.d2) x
  ∀ i < x.m, ∀ j < x.n, Holds t.mem (elemKey rank c i j) 4 (chunkSum ((x.k + 31) / 32)
    (((tileOf c.d0).row s.mem (localKey rank 0) i).getD j 0) (List.zipWith Val.mul (a.vals s.mem (localKey aRank 0) book i x.k) (cols.getD j [])))

/-- A cell is a byte of the elements of D that a compute command writes. -/
def InResult (rank : Nat) (c : Cmd) (key : Nat) : Prop :=
  ∃ i < (shapeOf c.r0).m, elemKey rank c i 0 ≤ key ∧ key < elemKey rank c i (shapeOf c.r0).n

/-- 05 R109: an arrival of k bytes on an arrival word whose TARGET is not 0. -/
def arrived (target count gen k : Nat) : Nat :=
  target + (count + k) % target * 2 ^ 32 + (gen + (count + k) / target) % 2 ^ 32 * 2 ^ 64

end Sys2Proof.Claims

section
open Sys2Proof Sys2Proof.Machine Sys2Proof.Claims

/-- 07 R149–R151, 08 R167, 09 R170, 15 R270: a queued command that may start starts: a copy, or a vector or local matrix word, runs;
an MMA or MVM becomes eligible for a grant of the ramp limiter, or stays as it is while its cluster's commands are withheld (16
R278). Before the start of a matrix command the limiters of its die come up to the present clk. When a limiter comes up to the
present clk is log 127. -/
def Sys2Proof.Claims.EngineStart : Prop := ∀ (s s0 : State) (rank : Nat) (e : EngId) (c : Cmd) (i : Instr),
  (e = .mat → s0 = s.rampDie (dieOf rank)) → (e ≠ .mat → s0 = s) →
  Only s0 rank e c → (s0.unitAt rank).ready rank e c = true → s0.stopping (s0.unitAt rank).unit.ctx = false → decode c.word = .ok i →
  let started := fun (f : Cmd → Cmd) => Answers s (.engineCommandStart rank e c.num) fun t => cmdOf t rank e c.num = some (f c) ∧
    (∀ n, n ≠ c.num → cmdOf t rank e n = cmdOf s0 rank e n) ∧ SameMemory s0 t ∧ ∀ r, t.reg r = s0.reg r
  (plainCopy i ∨ e = .vec ∧ (∃ d a, i = .vexp d a ∨ i = .vmov d a ∨ i = .vquant d a) ∨ (∃ d, i = .mzero d) ∨ (∃ d a, i = .wbld d a) →
    started fun c => { c with st := .running }) ∧
  ((∃ d a b g w, i = .mma d a b g w ∨ i = .mvm d a b g w) →
    (s0.withheld rank = false → started fun c => { c with eligible := some (c.eligible.getD s0.clk) }) ∧
    (s0.withheld rank = true → exec (.engineCommandStart rank e c.num) s = .next s0))

/-- 07 R137–R143, 05 R109: units of transfer. A beat of CPLL or FILL does the whole copy; with the last byte an arrival is counted
on the word the descriptor names, and the attached matrix command may start. That CPLL and FILL move in one beat is the model's
choice (log 18). -/
def Sys2Proof.Claims.CopyBeat : Prop := ∀ (s : State) (rank : Nat) (c : Cmd) (i : Instr), Only s rank .cpe c → c.st = .running → c.beat = 0 →
  c.early = [] → decode c.word = .ok i → (s.unitAt rank).badLocal = [] → (s.unitAt rank).badWb = [] →
  let d := tileOf c.d0
  let a := tileOf c.d1
  let base := localKey rank 0
  let landed := fun (t : State) => (∃ x, cmdOf t rank .cpe c.num = some x ∧ x.beat = 1 ∧ x.landed = true ∧ x.st = .running) ∧
    ∀ m ∈ (t.unitAt rank).mat.queue, m.attachedTo = some c.num → m.landed = true
  (∀ x y f, i = .cpll x y f → d.aw = false → Answers s (.cpeBeat rank c.num) fun t => landed t ∧
    t.mem = d.imgPut s.mem base 0 (a.imgGet s.mem base 0 a.imageSize)) ∧
  (∀ x y f target count gen, i = .cpll x y f → d.aw = true → 0 < target → target < 2 ^ 32 → count < 2 ^ 32 → gen < 2 ^ 32 →
    let m := d.imgPut s.mem base 0 (a.imgGet s.mem base 0 a.imageSize)
    Holds m (localKey rank d.awo) 16 (target + count * 2 ^ 32 + gen * 2 ^ 64) → Answers s (.cpeBeat rank c.num) fun t => landed t ∧
      Stored m t.mem (localKey rank d.awo) 16 (arrived target count gen d.imageSize)) ∧
  (∀ x y, i = .fill x y → d.fmt = 6 → d.sc = false → d.aw = false → d.rows = 1 → Answers s (.cpeBeat rank c.num) fun t => landed t ∧
    (∀ k < d.cols, Memory.read t.mem (localKey rank (d.off + k)) = some (BitVec.ofNat 8 c.r0.toNat)) ∧
    ∀ k, k < localKey rank d.off ∨ localKey rank d.off + d.cols ≤ k → Memory.read t.mem k = Memory.read s.mem k)

/-- 07 R132: the image of a tile: its rows in order, then its scales; bytes placed in it stand where its rows and scales lie, and
nowhere else. -/
def Sys2Proof.Claims.TileImage : Prop := ∀ (t : Tile) (size : Nat), TileOk size t →
  (∀ r < t.rows, ∀ k < t.rb, t.imgOff (r * t.rb + k) = t.off + r * t.stride + k) ∧
  (∀ k < t.scaleBytes, t.imgOff (t.rows * t.rb + k) = t.sco + k) ∧
  (∀ (m : List Host.Cell) (base pos : Nat) (bs : List Byte), pos + bs.length ≤ t.imageSize →
    (∀ k < bs.length, Memory.read (t.imgPut m base pos bs) (base + t.imgOff (pos + k)) = bs[k]?) ∧
    ∀ a, (∀ k < bs.length, a ≠ base + t.imgOff (pos + k)) → Memory.read (t.imgPut m base pos bs) a = Memory.read m a)

/-- 07 R137, R139, 11 R223: a unit of transfer of a copy between memories, any that may move next (the choice is free: log 18). Of CPIN,
CPTIN and GATHER it places the bytes read from memory in the image of the tile; of CPOUT, CPTOUT and SCATTER it stores the bytes of the
image at the place its pointer translates to, a whole block with its first unit (log 124). No other byte changes. -/
def Sys2Proof.Claims.CopyMoves : Prop := ∀ (s : State) (rank n : Nat) (c : Cmd) (b : Beat) (p : Word) (i : Instr), Only s rank .cpe c →
  c.st = .running → c.pickBeat s.tick = n → c.beats[n]? = some b → b.ptr = some p → decode c.word = .ok i → (s.unitAt rank).badLocal = [] →
  let d := tileOf c.d0
  let a := tileOf c.d1
  let moved := fun (P : State → Prop) => Answers s (.cpeBeat rank c.num) fun t => P t ∧ ∃ x, cmdOf t rank .cpe c.num = some x ∧
    x.st = .running ∧ x.beat = (c.noteBeat n).beat ∧ x.early = (c.noteBeat n).early
  (inwardCopy i → pieces p b.n = [(p, 0, b.n)] → ∀ loc s0 bs s1, s.resolve rank true p b.n .load = .ok loc s0 → s0.isRemote loc = false →
    s0.loadAt rank (s0.unitAt rank).unit.ctx loc loc.alloc b.n = .ok bs s1 → (c.noteBeat n).beat < c.beats.length ∨ d.aw = false →
    moved fun t => t.mem = d.imgPut s1.mem (localKey rank 0) b.pos bs) ∧
  (outwardCopy i →
    (b.parts p = [] → moved fun t => SameMemory s t) ∧
    (∀ x m, b.parts p = [(x, m)] →
      let bytes := (c.partPos b p x m).map fun k => (Memory.read s.mem (localKey rank (a.imgOff k))).getD 0#8
      ∀ loc s0 s1, s.resolve rank true x m .store = .ok loc s0 → s0.isRemote loc = false →
      let ctx := (s.unitAt rank).unit.ctx
      s0.storeAt (cpeWriter rank ctx) rank ctx loc loc.alloc bytes = .ok () s1 → moved fun t => SameMemory s1 t ∧
        (∀ r off, loc = .lcl r off → t.mem = Memory.writeBytes s.mem (localKey r off) bytes) ∧
        (∀ die off, loc = .shared die off → t.mem = Memory.writeBytes s.mem (sharedKey die (s.sharedOff ctx die off)) bytes)))

/-- 08 R159, R160, R164, R165, 06 R125: an MMA or MVM that has run to its end leaves in its destination tile the sums of its
products, and a pair that commits leaves them in both destination tiles, with the A tile of its lead and each half's own weight
buffer; no other byte of memory changes. That a matrix command reads and writes at its end is the model's choice (log 18). -/
def Sys2Proof.Claims.MatrixResults : Prop := ∀ (s : State) (rank : Nat) (c : Cmd) (i : Instr), Only s rank .mat c → c.st = .running →
  decode c.word = .ok i → (s.unitAt rank).badLocal = [] → (s.unitAt rank).badWb = [] → Accumulates rank c →
  (∀ x y z g w, i = .mma x y z g w ∨ i = .mvm x y z g w → Answers s (.engineCommandComplete rank .mat c.num) fun t =>
    Completed s t rank .mat c.num ∧ ComputedTile s t rank c rank (tileOf c.d1) (w == 1#1) ∧
    ∀ key, ¬InResult rank c key → Memory.read t.mem key = Memory.read s.mem key) ∧
  (let p := partner rank
   ∀ b, isCoreRank rank = true → p ≠ rank → (s.unitAt rank).half = some c → (s.unitAt p).half = some b → Only s p .mat b → b.st = .running →
    (s.unitAt p).badLocal = [] → (s.unitAt p).badWb = [] → Accumulates p b → isLead c.word ≠ isLead b.word →
    let lead := if isLead c.word = true then rank else p
    let a := tileOf (if isLead c.word = true then c.d1 else b.d1)
    Answers s (.pairCommit rank) fun t => Completed s t rank .mat c.num ∧ Completed s t p .mat b.num ∧
      t.epoch rank = (s.epoch rank + 1) % 2 ^ 32 ∧ ComputedTile s t rank c lead a true ∧ ComputedTile s t p b lead a true ∧
      ∀ key, ¬InResult rank c key → ¬InResult p b key → Memory.read t.mem key = Memory.read s.mem key)

/-- 08 R159–R163, 09 R173, 07 R138, R147: a command that has run to its end leaves its queue: MZERO writes zeros, WBLD fills the
weight buffer and raises WHW, CBLD makes the codebook valid, IDXLD loads its index register, a vector word writes the rows it
computes, SLOTRET gives slots back, PROMOTE stores its result in its descriptor, SUBSCR opens a subscription at the home slice of
its range, or closes it, or faults where 512 stand at the slice. A copy's completion changes no byte. That these commands read and
write at their end is the model's choice (log 18); to which subscription SLOTRET returns slots is log 42. -/
def Sys2Proof.Claims.EngineComplete : Prop := ∀ (s : State) (rank : Nat) (e : EngId) (c : Cmd) (i : Instr), Only s rank e c → c.st = .running →
  decode c.word = .ok i → (s.unitAt rank).badLocal = [] → (s.unitAt rank).badWb = [] → (s.unitAt rank).outgoing = [] →
  let d := tileOf c.d0
  let a := tileOf c.d1
  let ends := fun (P : State → Prop) => Answers s (.engineCommandComplete rank e c.num) fun t => Completed s t rank e c.num ∧ P t
  (e = .mat →
    (∀ x, i = .mzero x → d.rows = 1 → d.fmt = 0 → ends fun t =>
      (∀ k < 4 * d.cols, Memory.read t.mem (localKey rank (d.off + k)) = some 0#8) ∧
      ∀ k, k < localKey rank d.off ∨ localKey rank d.off + 4 * d.cols ≤ k → Memory.read t.mem k = Memory.read s.mem k) ∧
    (∀ x y, i = .wbld x y → ends fun t => t.mem = d.imgPut s.mem (wbKey rank 0) 0 (a.imgGet s.mem (localKey rank 0) 0 a.imageSize) ∧
      (t.unitAt rank).ctl.whw = max (s.unitAt rank).ctl.whw (max (d.off + d.span) (if d.sc = true then d.sco + d.scaleBytes else 0))) ∧
    (∀ x, i = .cbld x → ends fun t => (t.unitAt rank).codebook.valid = true ∧ SameMemory s t)) ∧
  (e = .vec → ends fun t => t.mem = applyRows (fun _ => false) 0 (vecRows s.mem rank c) s.mem) ∧
  (e = .cpe → c.beats.length ≤ c.beat →
    ((∃ x y z, i = .cpin x y z) ∨ (∃ x y z, i = .cpll x y z) ∨ (∃ x y, i = .cpout x y ∨ i = .fill x y) ∨ (∃ x y, i = .cptout x y) ∨
      (∃ x y z, i = .cptin x y z) ∨ (∃ x y z u v, i = .gather x y z u v) ∨ (∃ x y z u, i = .scatter x y z u) → ends fun t => SameMemory s t) ∧
    (∀ x y, i = .idxld x y → ends fun t => SameMemory s t ∧ ∀ (h : x.toNat < 8),
      ((t.unitAt rank).xs[x.toNat]'h).cnt = c.r1.toNat % 128 ∧ ((t.unitAt rank).xs[x.toNat]'h).bnd.toNat = c.r1.toNat / 2 ^ 32) ∧
    (∀ x y, i = .slotret x y → ends fun t => SameMemory s t ∧ ∀ z : Nat × Die, z ∈ t.dies → ∀ h ∈ z.2.subs, h.rank = rank → h.slot = y.toNat →
      ∃ z' : Nat × Die, z' ∈ s.dies ∧ ∃ g ∈ z'.2.subs, h = { g with free := min (tileOf g.ring).rows (g.free + c.r0.toNat % 512) }) ∧
    (∀ x p loc s0 s1, i = .promote x → c.aux.getD 6 0#64 ≠ 0#64 → ptrAdd c.r0 44 = some p → s.resolve rank true p 4 .store = .ok loc s0 →
      s0.isRemote loc = false →
      let ctx := (s.unitAt rank).unit.ctx
      let result := bytesOf 4 (c.aux.getD 6 0#64).toNat
      s0.storeAt (cpeWriter rank ctx) rank ctx loc loc.alloc result = .ok () s1 → ends fun t => SameMemory s1 t ∧
        (∀ r off, loc = .lcl r off → t.mem = Memory.writeBytes s.mem (localKey r off) result)) ∧
    (∀ x y k, i = .subscr x y k →
      (c.r1 = 0#64 → ends fun t => SameMemory s t ∧ alGet k.toNat (t.unitAt rank).unit.subs = none ∧
        ∀ z : Nat × Die, z ∈ t.dies → ∀ h ∈ z.2.subs, ¬(h.rank = rank ∧ h.slot = k.toNat)) ∧
      (∀ f s1 pa attr s2, c.r1 ≠ 0#64 → c.r0.toNat % 128 = 0 → c.r1.toNat % 128 = 0 →
        s.leafOf (dieOf rank) (s.unitAt rank).unit.ctx c.r0.toNat = (.ok f, s1) →
        c.r0.toNat / 2 ^ f.bits = (c.r0.toNat + c.r1.toNat - 1) / 2 ^ f.bits →
        (s1.closeSub rank k.toNat).ctxXlate (dieOf rank) (s.unitAt rank).unit.ctx c.r0.toNat .load = (.ok (pa, attr), s2) →
        ((s2.die (homeDie pa)).subs.length < 512 → ends fun t => SameMemory s2 t ∧
          alGet k.toNat (t.unitAt rank).unit.subs = some { base := c.r0, len := c.r1.toNat, ring := c.d0, next := 0 } ∧
          ∃ h ∈ (t.die (homeDie pa)).subs, h.ctx = (s.unitAt rank).unit.ctx ∧ h.rank = rank ∧ h.slot = k.toNat ∧ h.va = c.r0 ∧ h.pa = pa ∧
            h.len = c.r1.toNat ∧ h.ring = c.d0 ∧ h.count = 0 ∧ h.free = d.rows) ∧
        (512 ≤ (s2.die (homeDie pa)).subs.length → ends fun t => ∃ g, (t.unitAt rank).faults = (s.unitAt rank).faults ++ [g] ∧
          g.cause = 0x034 ∧ g.replayable = false ∧ g.addr = c.r0))))

/-- 24 R376, 22 Table 115: the trap of pending engine faults, once no load of the unit is outstanding: every fault's record is made, in
the order of R376, no fault stays pending, and one trap is entered for the first: TCAUSE of its level holds its status word, engine, RPL
and cause, with PREC 0, TVAL its address, TRET the position; the registers of the other level stay. -/
def Sys2Proof.Claims.EngineTrap : Prop := ∀ (s : State) (rank : Nat) (f : EngFault) (rest : List EngFault), rank = s.cur →
  sortFaults s.core.faults = f :: rest → s.core.faultDue = true → s.core.loads = [] → s.core.ctl.tlevel = 0#2 ∨ s.core.ctl.tlevel = 1#2 →
  f.eng < 8 → f.cause < 2 ^ 16 →
  let c := s.core.ctl
  let tcause := f.status.toNat * 2 ^ 32 + f.eng * 2 ^ 29 + (if f.replayable = true then 2 ^ 28 else 0) + f.cause
  Answers s (.engineFaultTrap rank) fun t => t.core.faults = [] ∧ t.core.pc = c.tvec ∧
    t.core.ctl.tlevel = c.tlevel + 1#2 ∧ SameMemory s t ∧ (∀ r, t.reg r = s.reg r) ∧
    (c.tlevel = 0#2 → t.core.ctl.tcause1.toNat = tcause ∧ t.core.ctl.tret1 = s.core.pc ∧ t.core.ctl.tval1 = f.addr ∧
      t.core.ctl.tcause2 = c.tcause2 ∧ t.core.ctl.tret2 = c.tret2 ∧ t.core.ctl.tval2 = c.tval2) ∧
    (c.tlevel = 1#2 → t.core.ctl.tcause2.toNat = tcause ∧ t.core.ctl.tret2 = s.core.pc ∧ t.core.ctl.tval2 = f.addr ∧
      t.core.ctl.tcause1 = c.tcause1 ∧ t.core.ctl.tret1 = c.tret1 ∧ t.core.ctl.tval1 = c.tval1) ∧
    ∀ c, s.ctx? s.ctx = some c → c.killed = false → ∃ k, alGet s.ctx t.ctxs = some k ∧
      k.records = c.records ++ (f :: rest).map fun g => (s.faultRec rank g, true)

/-- 08 R164–R166, 16 R278: the halves of a pair that wait with one EPOCH, one context and fitting shapes meet, and are eligible from
then on; a half whose partner has not come within 4096 clk, or whose EPOCH is no longer current, abandons: it faults, is held for
replay, and EPOCH rises. (What a pair that commits leaves is in MatrixResults.) That an outdated half raises EPOCH too is log 117. -/
def Sys2Proof.Claims.PairEvents : Prop := ∀ (s : State) (rank : Nat) (a b : Cmd), isCoreRank rank = true →
  let p := partner rank
  (s.unitAt rank).half = some a → Only s rank .mat a →
  ((s.unitAt p).half = some b → Only s p .mat b → p ≠ rank → a.met = false → b.met = false → a.epoch = b.epoch → a.epoch = some (s.epoch rank) →
    (s.unitAt rank).unit.ctx = (s.unitAt p).unit.ctx → s.railHigh rank = s.railHigh p → s.withheld rank = false → s.withheld p = false →
    isLead a.word ≠ isLead b.word → (shapeOf a.r0).m = (shapeOf b.r0).m → (shapeOf a.r0).k = (shapeOf b.r0).k →
    (shapeOf a.r0).n ≤ 128 → (shapeOf b.r0).n ≤ 128 → Answers s (.pairMeet rank) fun t =>
      cmdOf t rank .mat a.num = some { a with met := true, eligible := some s.clk } ∧
      cmdOf t p .mat b.num = some { b with met := true, eligible := some s.clk } ∧ SameMemory s t) ∧
  (a.met = false → a.epoch ≠ some (s.epoch rank) ∨ (a.since + 4096 ≤ s.clk ∧ s.partnerCame rank a = false) →
    Answers s (.pairAbandon rank) fun t => t.epoch rank = (s.epoch rank + 1) % 2 ^ 32 ∧ SameMemory s t ∧
      ((cmdOf t rank .mat a.num).map fun c => (c.st, c.epoch)) = some (.held, none) ∧
      ∃ f, (t.unitAt rank).faults = (s.unitAt rank).faults ++ [f] ∧ f.cause = 0x037 ∧ f.replayable = true)

/-- 07 R144, R146, 19 R323, 15 R270: a push lands in its slot of the ring, its line first, and is counted as an arrival of 256
bytes; a promotion of a stream whose version has changed is given up with result 3. RAMP_STEP takes every step of 4 clk that has
ended: with nothing eligible and nothing active each lowers the level by one; within a step the one command that waits takes the
first slot that comes once it is eligible, and with none waiting nothing happens. How the limiter is brought up to the present clk
is log 127; what becomes of DST when a promotion is given up is log 60. -/
def Sys2Proof.Claims.PushAndRamp : Prop := ∀ (s : State) (rank num index die : Nat) (high : Bool),
  (∀ p, s.pushes[index]? = some p → pushWaits (s.pushes.take index) p = false → p.line.length = 128 →
    let r := tileOf p.ring
    let off := r.off + p.index % r.rows * r.stride
    (off + 256 ≤ r.awo ∨ r.awo + 16 ≤ off) → ∀ target count gen, 0 < target → target < 2 ^ 32 → count < 2 ^ 32 → gen < 2 ^ 32 →
    Holds s.mem (localKey p.rank r.awo) 16 (target + count * 2 ^ 32 + gen * 2 ^ 64) →
    Answers s (.pushLand index) fun t => t.pushes = s.pushes.eraseIdx index ∧
      (∀ k < 128, Memory.read t.mem (localKey p.rank off + k) = p.line[k]?) ∧
      Holds t.mem (localKey p.rank r.awo) 16 (arrived target count gen 256) ∧
      ∀ a, (a < localKey p.rank off ∨ localKey p.rank off + 256 ≤ a) → (a < localKey p.rank r.awo ∨ localKey p.rank r.awo + 16 ≤ a) →
        Memory.read t.mem a = Memory.read s.mem a) ∧
  (∀ c t0, Only s rank .cpe c → c.num = num → c.promoteDue = true → c.aux.length = 7 →
    s.stream? (s.unitAt rank).unit.ctx (offOf (c.aux.getD 4 0#64) / 4096) = some t0 → t0.version ≠ (c.aux.getD 5 0#64).toNat →
    (∀ p, c.owns = some p → s.pageRec (s.unitAt rank).unit.ctx p = none) →
    Answers s (.promoteHeadgateStep rank num) fun t => SameMemory s t ∧ ∃ x, cmdOf t rank .cpe num = some x ∧ x.aux.getD 6 0#64 = 3#64) ∧
  (let lim := fun (t : State) => (t.die die).limiter high
   let l := lim s
   let late := (s.clk - l.opened) / 4
   ((∀ u ∈ s.units, u.2.mat.queue = []) → l.recent = [] → l.past = [] → (∀ k ∈ (s.die die).clusters, k.2.pendingRail = none ∧ k.2.joining = false) →
    (0 < late → Answers s (.rampStep die high) fun t => (lim t).level = l.level - late ∧ (lim t).prev = 0 ∧
      (lim t).opened = l.opened + 4 * late ∧ SameMemory s t) ∧
    (late = 0 → exec (.rampStep die high) s = .next s)) ∧
   (∀ r c e pre slot post, late = 0 → s.limited die high = [r] → s.eligibleCmd r = some c → isMmap c.word = false → c.eligible = some e →
    s.slotsTaken die high = [] → l.slots.filter (fun x => decide (x ≤ s.clk)) = pre ++ slot :: post → (∀ x ∈ pre, x < e) → e ≤ slot →
    Answers s (.rampStep die high) fun t => cmdOf t r .mat c.num = some { c with granted := some slot, st := .running } ∧ SameMemory s t))

end

namespace Sys2Proof.Claims
open Sys2Proof Sys2Proof.Machine

/-- A ready item of a die that holds this work. -/
def Queued (t : State) (die : Nat) (w : Work) : Prop := ∃ i ∈ (t.die die).ready, i.work = w

/-- A core or memory-side unit takes work (14 R255). -/
def Free (u : Core) : Prop := u.unit.running = false ∧ u.starting = none ∧ u.outOfService = false ∧ u.heldFor = none

/-- The unit starts afresh at an entry (14 R255, Table 78): it runs at trap level 0 with no active loop, the rest of its registers
are 0, and its queues are empty. -/
def Starts (u : Core) (pc : Word) (given : List Word) : Prop :=
  u.unit.running = true ∧ u.pc = pc ∧ u.ctl.tlevel = 0#2 ∧ u.cmdsAll = [] ∧ u.stores = [] ∧ u.stall = .none ∧
  (∀ n : Fin 64, u.regs[n] = if n.val = 0 then 0#64 else given.getD (n.val - 1) 0#64) ∧
  ∀ l : Fin 3, ∀ n : Fin 4, u.loops[l][n].active = false

/-- The rectangle of a group is held on a die, and the group runs a step. -/
def GroupHeld (t : State) (die sweep step c0 k0 w h : Nat) : Prop :=
  ∃ g ∈ (t.die die).groups, g.sweep = sweep ∧ g.stepNo = step ∧ g.c0 = c0 ∧ g.k0 = k0 ∧ g.w = w ∧ g.h = h ∧
    ∀ c k, c0 ≤ c → c < c0 + w → k0 ≤ k → k < k0 + h → (t.unitAt (rankOf die c k)).heldFor = some g.id

/-- An object is parked on a SYNC variable. -/
def ParkedAt (t : State) (ctx die off : Nat) (o : ObjRec) : Prop := ∃ v, t.syncVar die ctx off = some v ∧ o ∈ v.waiters

/-- The engine of a die has room for one more waiter (10 R192). -/
def SyncRoom (t : State) (die : Nat) : Prop := (t.die die).sramUsed + 16 ≤ 2 ^ 22

/-- A wait word in execution whose checks pass (10 R196–R203): whether its condition holds, the scope of its acquire, the state after its
look, whether an object can be parked on it, and where one that is parked stands (10 R200, Table 57). -/
def Looks (f : State) (i : Instr) (sat : Prop) (scope : Nat) (looked : State) (room : State → Prop) (parks : State → ObjRec → Prop) : Prop :=
  (∃ a die off v n, i = .ctrwait a ∧ AtVar f (f.reg a) die off ∧ f.syncVar die f.ctx off = some v ∧ v.kind = .counter n ∧
    (sat ↔ n ≤ 0) ∧ scope = 3 ∧ looked = f.useVar die v ∧ room = (SyncRoom · die) ∧ parks = (ParkedAt · f.ctx die off)) ∨
  (∃ a b die off v g n ph, i = .barwait a b ∧ AtVar f (f.reg a) die off ∧ f.syncVar die f.ctx off = some v ∧ v.kind = .barrier g n ph ∧
    (sat ↔ ph ≠ (f.reg b).toNat % 2 ^ 32) ∧ scope = 3 ∧ looked = (f.useVar die v).setArrived none ∧ room = (SyncRoom · die) ∧
    parks = (ParkedAt · f.ctx die off)) ∨
  (∃ d a x die off v g n ph, i = .bararv d a 1#1 ∧ f.core.arrived = some x ∧ AtVar f x.var die off ∧ f.syncVar die f.ctx off = some v ∧
    v.kind = .barrier g n ph ∧ (sat ↔ ph ≠ x.phase) ∧ scope = 3 ∧ looked = f.useVar die v ∧ room = (SyncRoom · die) ∧
    parks = (ParkedAt · f.ctx die off)) ∨
  (∃ c a b e, i = .tlwait c a b e ∧ e ≠ 3#2 ∧ f.core.unit.packets = 0 ∧
    let q := if e = 0#2 then f.core.cpe else if e = 1#2 then f.core.mat else f.core.vec
    (f.reg a).toNat ≤ q.issued ∧ (sat ↔ (f.reg a).toNat ≤ q.completed) ∧ scope = c.toNat ∧ looked = f ∧ room = (fun _ => True) ∧
    parks = (fun t o => IsReady t o ∨ o ∈ (t.die o.hdie).homeWait)) ∨
  (∃ c a b die ch pkg dd, i = .tlwait c a b 3#2 ∧ f.core.unit.packets = 0 ∧ f.channelHandle (f.reg b) = some (die, ch, pkg, dd) ∧
    f.handleAsks (f.reg b) = f ∧ let q := f.slTimeline die ch f.ctx
    (f.reg a).toNat ≤ q.issued ∧ (sat ↔ (f.reg a).toNat ≤ q.completed) ∧ scope = c.toNat ∧ looked = f ∧ room = (SyncRoom · die) ∧
    parks = (fun t o => o ∈ (t.slTimeline die ch f.ctx).waiters)) ∨
  (∃ a b off gen, i = .arwait a b ∧ f.core.unit.packets = 0 ∧ f.core.stores = [] ∧ f.arrivalPtr (f.reg a) = .ok off ∧
    (f.reg b).toNat < 2 ^ 32 ∧ gen < 2 ^ 32 ∧ Holds f.mem (localKey f.cur off + 8) 4 gen ∧
    (sat ↔ (gen + 2 ^ 32 - (f.reg b).toNat) % 2 ^ 32 < 2 ^ 31) ∧ scope = 0 ∧ looked = f ∧ room = (fun _ => True) ∧ parks = IsReady)

/-- The unit's stores are acknowledged, and no command of its engines runs: started ones are done (10 R214). -/
def Still (f : State) : Prop := f.core.stores = [] ∧ f.core.badLocal = [] ∧ ∀ c ∈ f.core.cmdsAll, c.st ≠ .running

/-- A record of KIND 2 that no unit made (24 Tables 127, 128): a memory report, with its cause and the pointer concerned. -/
def MemoryReport (r : List Byte) (cause addr : Nat) : Prop :=
  r.length = 64 ∧ r.getD 0 0#8 = 2#8 ∧ valueOf ((r.drop 2).take 2) = cause ∧ valueOf ((r.drop 4).take 2) = 0 ∧ valueOf ((r.drop 8).take 8) = addr

end Sys2Proof.Claims

section
open Sys2Proof Sys2Proof.Machine Sys2Proof.Claims

/-- 10 R196, R199, 14 R411: an engine's oldest operation takes its amount from its counter; where there is no counter, or a barrier
stands there, it is reported as SYNC_KIND with its pointer. Of a unit that spins in CTRWAIT, BARWAIT, a BARARV .w that has arrived,
TLWAIT or ARWAIT: a wait whose condition has come true ends with the acquire of its scope; one whose limit is over (looks, where R199
counts clk: log 106), or that is asked to make room, suspends its unit, whose object is parked where Table 57 says. -/
def Obligations.EngineOperations : Prop := ∀ (s : State) (die rank : Nat),
  (∀ o r, (s.die die).syncOps = o :: r →
    let off := offOf o.ptr / 16 * 16
    (∀ v n, s.syncVar die o.ctx off = some v → v.kind = .counter n → Answers s (.syncEngineOperation die) fun t =>
      (t.die die).syncOps = r ∧ SameMemory s t ∧ (t.syncVar die o.ctx off).map (·.kind) = some (.counter (counterAfter n o.amount)) ∧
      (0 < n ∧ counterAfter n o.amount ≤ 0 → NoImages s → ∀ x ∈ v.waiters, IsReady t x)) ∧
    (∀ c, (∀ v, s.syncVar die o.ctx off = some v → ∃ g n ph, v.kind = .barrier g n ph) → s.ctx? o.ctx = some c → c.killed = false →
      Answers s (.syncEngineOperation die) fun t => (t.die die).syncOps = r ∧ SameMemory s t ∧ (∀ d x y, t.syncVar d x y = s.syncVar d x y) ∧
        ∃ k e, alGet o.ctx t.ctxs = some k ∧ k.records = c.records ++ [(e, !o.trapSig)] ∧ MemoryReport e 0x041 (o.ptr.toNat / 16 * 16))) ∧
  (∀ n i sat scope looked room parks, rank ≠ s.cur → (s.unitAt rank).stall = .spin n → (s.unitAt rank).unit.running = true →
    s.stopping (s.unitAt rank).unit.ctx = false → decode (s.unitAt rank).ir.word = .ok i →
    let f := s.focus rank
    Looks f i sat scope looked room parks →
    (sat → Answers s (.waitSatisfied rank) fun t => t.cur = s.cur ∧ t.core = s.core ∧ SameMemory s t ∧ (t.unitAt rank).stall = .none ∧
      (t.unitAt rank).l1 = (if scope = 0 then f.core.l1 else []) ∧ (t.unitAt rank).regs = f.core.regs ∧
      (t.unitAt rank).unit.arvDone = none ∧ (NoLoopEnd f → (t.unitAt rank).pc = f.core.nextPos)) ∧
    (¬sat → (s.unitAt rank).ctl.spinl ≤ n ∨ (s.unitAt rank).ctl.prq = true → Still f → looked.core.faultDue = false →
      f.core.unit.origin = none → f.core.half = none → ∀ p s1, looked.popPool (dieOf rank) f.ctx f.core.objSize = .ok p s1 → room s1 →
      Answers s (.spinLimitExpiry rank) fun t => t.cur = s.cur ∧ t.core = s.core ∧ (t.unitAt rank).unit.running = false ∧
        (NoImages s1 → ∃ o, parks t o ∧ o.ctx = f.ctx ∧ o.ptr = p ∧ o.hdie = dieOf rank)))

/-- 10 R204, 14 R253–R257, R262: a packet is accepted in the order of its unit's spawn words, into the queue of its target, where the route
to it is whole (log 126); one for another package leaves this one; a sweep goes to all its dies at once; a walker that has the record hands its steps out; with the last die's report the completion is
posted to the record's QUEUE, and to the work queue of its packet where that is another (log 79). -/
def Sys2Proof.Claims.QueueEvents : Prop := ∀ (s : State) (index die sweep : Nat),
  (∀ m, s.spawns[index]? = some m → (∀ x ∈ s.spawns.take index, x.from_ ≠ m.from_) →
    s.reaches (dieOf m.from_) m.die = true → Answers s (.spawnPacketAccept index) fun t =>
    t.spawns = s.spawns.eraseIdx index ∧ SameMemory s t ∧ (t.unitAt m.from_).unit.packets = (s.unitAt m.from_).unit.packets - 1 ∧
    (m.away ≠ none → t.dies = s.dies) ∧
    (∀ r, m.away = none → m.core = some r → ∃ i, (t.die m.die).priv = (s.die m.die).priv ++ [(r, i)] ∧ i.work = .packet m.pkt ∧ i.prio = m.pkt.prio) ∧
    (m.away = none → m.core = none → m.memSide = false → ∃ i, (t.die m.die).ready = (s.die m.die).ready ++ [i] ∧ i.work = .packet m.pkt) ∧
    (m.away = none → m.core = none → m.memSide = true → ∃ i, (t.die m.die).memReady = (s.die m.die).memReady ++ [i] ∧ i.work = .packet m.pkt)) ∧
  (∀ w, s.sweep? sweep = some w → w.admitted = false →
    ((∀ d ∈ w.dies, ((s.die d).sweeps.filter fun x => !x.reported).length < 64) → Answers s (.sweepAdmission sweep) fun t =>
      (t.sweep? sweep).map (·.admitted) = some true ∧ SameMemory s t ∧ ∀ d ∈ w.dies, ∃ x ∈ (t.die d).sweeps, x.id = sweep ∧ x.next = 0) ∧
    ((∃ d ∈ w.dies, 64 ≤ ((s.die d).sweeps.filter fun x => !x.reported).length) → exec (.sweepAdmission sweep) s = .next s)) ∧
  (∀ x, dieSweep s die sweep = some x → x.expanded = false → Answers s (.walkerExpand die sweep) fun t =>
    dieSweep t die sweep = some { x with expanded := true, ready := s.clk } ∧ SameMemory s t) ∧
  (∀ w x, s.sweep? sweep = some w → dieSweep s die sweep = some x → x.expanded = true → x.reported = false → w.stop = false →
    x.done.length = w.count die → w.record.signals 1 = [] →
    ((∃ d ∈ w.dies, d ≠ die ∧ d ∉ w.reported) → Answers s (.sweepDieReport die sweep) fun t =>
      (dieSweep t die sweep).map (·.reported) = some true ∧ (t.sweep? sweep).map (·.reported) = some (die :: w.reported)) ∧
    ((∀ d ∈ w.dies, d = die ∨ d ∈ w.reported) → w.record.signals 0 = [] → Answers s (.sweepDieReport die sweep) fun t =>
      t.sweep? sweep = none ∧ Told s t (.event "COMPLETION" w.queue "OK" [w.id] ::
        (match w.via with
        | some q => if q = w.queue then [] else [.event "COMPLETION" q "OK" [w.id]]
        | none => []))))

/-- 14 R252, R255, R263, 10 R204, R211, 01 R21: a free core, or memory-side unit, takes the task packet of its own queue or of its die's
ready queue for units of its kind, and starts it at its entry with g1 and g2; it takes a ready object, which goes from PARKED to
RUNNING if its record still names its VERSION, and is dropped otherwise; a core takes, where no
group waits, the next step of its die's one sweep, with the step's number in g7, the sweep's pointer in g8 and, of a sweep of one loop, the
index in g1. -/
def Sys2Proof.Claims.WorkStarts : Prop := ∀ (s s1 : State) (rank n : Nat) (p : Word), isCoreRank rank = true ∨ isMemRank rank = true →
  let die := dieOf rank
  let d := s.die die
  let mem := classOf rank = 2
  let rest := d.priv = [] ∧ d.sweeps = [] ∧ s.groupCands die = []
  let alone := fun (it : Item) => (mem ∧ d.memReady = [it]) ∨ (¬mem ∧ d.ready = [it] ∧ rest)
  let taken := s.modDie die fun x => if mem then { x with memReady := [] } else { x with ready := [] }
  let gone := fun (t : State) => if mem then (t.die die).memReady = [] else (t.die die).ready = []
  let started := fun (k : Packet) (t : State) => Starts (t.unitAt rank) k.entry [k.g1, k.g2] ∧ (t.unitAt rank).unit.ctx = k.ctx ∧
    (t.unitAt rank).unit.prio = k.prio ∧ (t.unitAt rank).unit.isStep = false ∧ (t.unitAt rank).unit.fence = k.fence ∧ SameMemory s1 t
  let known := fun (ctx : Nat) => (s.unitAt rank).lastCtx = some ctx ∧ (s.unitAt rank).dict.ptr = p ∧ (s.unitAt rank).dict.count = n
  Free (s.unitAt rank) → d.reserve = [] →
  (∀ it k, alone it → it.work = .packet k → it.asked = [] → known k.ctx → taken.readHeader die k.ctx k.entry = (some (p, n), s1) →
    Answers s (.workDispatch rank) fun t => started k t ∧ gone t) ∧
  (∀ it k, ¬mem → d.ready = [] → d.priv = [(rank, it)] → d.sweeps = [] → s.groupCands die = [] → it.work = .packet k → it.asked = [] →
    known k.ctx → (s.modDie die fun x => { x with priv := [] }).readHeader die k.ctx k.entry = (some (p, n), s1) →
    Answers s (.workDispatch rank) fun t => started k t ∧ (t.die die).priv = []) ∧
  (∀ it o c, alone it → it.work = .object o → it.asked = [] → o.cls = classOf rank → o.boundTo = none →
    taken.cstate die o.ctx o.ptr = (.ok c, s1) →
    let takes := fun (t : State) (v : Nat) => gone t ∧ (t.unitAt rank).unit.running = false ∧
      (t.unitAt rank).starting = some { o with version := v, running := true }
    (o.running = false → c.state = 2 → c.version = o.version → Answers s (.workDispatch rank) fun t =>
      takes t ((o.version + 1) % 2 ^ 32) ∧ SameMemory (s1.putCState die o.ctx o.ptr (movedTo c 3)) t) ∧
    (o.running = true → c.state = 3 → c.version = o.version → Answers s (.workDispatch rank) fun t => takes t o.version ∧ SameMemory s1 t) ∧
    (c.state ≠ (if o.running = true then 3 else 2) ∨ c.version ≠ o.version → Answers s (.workDispatch rank) fun t =>
      gone t ∧ (t.unitAt rank).starting = none ∧ SameMemory s1 t)) ∧
  (∀ x w k, ¬mem → d.ready = [] → d.priv = [] → d.sweeps = [x] → s.groupCands die = [] → s.sweep? x.id = some w → s.mayHand w = true →
    w.record.mode ≠ 2 → x.expanded = true → x.asked = [] → x.nextStep w die = some k → known w.ctx →
    s.readHeader die w.ctx w.record.kernel = (some (p, n), s1) → Answers s (.workDispatch rank) fun t =>
      (t.unitAt rank).unit.running = true ∧ (t.unitAt rank).pc = w.record.kernel ∧ (t.unitAt rank).unit.isStep = true ∧
      (t.unitAt rank).unit.stepNo = k ∧ (t.unitAt rank).unit.sweep = w.id ∧ (t.unitAt rank).regs[7] = BitVec.ofNat 64 k ∧
      (t.unitAt rank).regs[8] = w.ptr ∧ (t.sweep? w.id).map (·.running) = some (w.running + 1) ∧
      (w.record.order = [1] → (t.unitAt rank).regs[1] = BitVec.ofNat 64 (k % w.record.trips 1 * w.record.tile.getD 0 1)))

/-- 10 R215, 14 R258, R259–R261, R263–R265, 24 R385–R387: a core restores the object it has taken; a core that leaves service takes
nothing more, and an object it had taken is queued again (log 73); a pipeline sweep's step that is the choice of every core of its
rectangle starts there, every stage at the kernel with its number and neighbours, and a saved group on a new rectangle; the
rectangle of a candidate that has waited 4096 clk is reserved; 2048 clk after a candidate's claim stands (log 125) a unit of lower
priority is asked to make room, and saved by force once its deadline is over. When the best candidate is noted is log 76; that a
group step's header is read once, log 129. -/
def Obligations.PlacementEvents : Prop := ∀ (s : State) (rank die index sweep : Nat),
  (∀ o c s1 b s2, (s.unitAt rank).starting = some o → s.outst (dieOf rank) o.ctx o.ptr = 0 → s.cstate (dieOf rank) o.ctx o.ptr = (.ok c, s1) →
    s1.ctxRead (dieOf rank) o.ctx o.ptr.toNat (0x3000 + 128 * ((s.objField (dieOf rank) o.ctx o.ptr 0x58 + 127) / 128) +
      s.objField (dieOf rank) o.ctx o.ptr 0x5C) = (.ok b, s2) → o.value = none → Answers s (.continuationStart rank) fun t =>
      let u := t.unitAt rank
      u.unit.running = true ∧ u.starting = none ∧ u.pc = wordAt b 0x28 &&& ~~~1#64 ∧ u.unit.ctx = o.ctx ∧ u.unit.prio = c.prio ∧
      ∀ r : Fin 64, u.regs[r] = if r.val = 0 then 0#64 else wordAt b (0x100 + 8 * r.val)) ∧
  ((s.unitAt rank).unit.running = false → Answers s (.coreOutOfService rank) fun t => (t.unitAt rank).outOfService = true ∧
    (t.unitAt rank).starting = none ∧ SameMemory s t ∧ (NoImages s → ∀ o, (s.unitAt rank).starting = some o → IsReady t o)) ∧
  (∀ c w x k d s1 c0 k0 p n s2, (s.sweepCands die true).find? (fun c => c.index = sweep) = some c → s.groupWins die c = true →
    s.sweep? sweep = some w → dieSweep s die sweep = some x → x.nextStep w die = some k →
    s.readGroup die w.ctx w.record.group = (some d, s1) → d.valid w.record.dmask = true → s1.freeRect die sweep d.w d.h = some (c0, k0) →
    s1.readHeader die w.ctx w.record.kernel = (some (p, n), s2) →
    (∀ r ∈ d.ranks die c0 k0, (s2.unitAt r).lastCtx = some w.ctx ∧ (s2.unitAt r).dict.ptr = p ∧ (s2.unitAt r).dict.count = n) →
    Answers s (.groupStart die sweep) fun t => GroupHeld t die sweep k c0 k0 d.w d.h ∧
      (∀ i r, (d.ranks die c0 k0)[i]? = some r → (t.unitAt r).unit.running = true ∧ (t.unitAt r).pc = w.record.kernel ∧
        (t.unitAt r).unit.isStep = true ∧ (t.unitAt r).unit.stepNo = k ∧ (t.unitAt r).unit.sweep = sweep ∧
        (t.unitAt r).regs[7] = BitVec.ofNat 64 k ∧ (t.unitAt r).regs[8] = w.ptr ∧ (t.unitAt r).ctl.stgno = BitVec.ofNat 64 i ∧
        (t.unitAt r).ctl.stgnext = (match (d.ranks die c0 k0)[i + 1]? with | some y => mkPtr 2 y 0 | none => 0#64) ∧
        (t.unitAt r).ctl.stgprev = (if i = 0 then 0#64 else mkPtr 2 ((d.ranks die c0 k0).getD (i - 1) 0) 0)) ∧
      (t.sweep? sweep).map (·.running) = some (w.running + 1)) ∧
  (∀ it g c0 k0, (s.die die).ready[index]? = some it → it.work = .image g → 0 < g.w → 0 < g.h →
    s.groupWins die { itemCand 1 index it with group := true } = true → s.freeRect die (2 ^ 32 + g.group) g.w g.h = some (c0, k0) →
    Answers s (.groupRestore die index) fun t =>
      GroupHeld t die g.sweep g.stepNo c0 k0 g.w g.h ∧ (t.die die).ready.length + 1 = (s.die die).ready.length) ∧
  (∀ c q w h c0 k0, (s.groupCands die)[index]? = some c → bestCand s.clk (s.dieCands die false) = some c → (s.die die).best = some q →
    q.key = c.key → q.since + 4096 ≤ s.clk → s.shapeOf die c = some (w, h) → (∀ x ∈ (s.die die).reserve, x.1 ≠ c.reserveKey) →
    s.bestRect die w h = some (c0, k0) → Answers s (.groupReserve die index) fun t =>
      (t.die die).reserve = (s.die die).reserve ++ [(c.reserveKey, c0, k0, w, h)] ∧ SameMemory s t) ∧
  (∀ c q r, (s.die die).memReady = [] → bestCand s.clk (s.dieCands die false) = some c → (s.die die).best = some q → q.key = c.key →
    q.since + 2048 ≤ s.clk → s.askedStill (s.askedOf die false c) = false → s.victim (s.rivalsOf die false c) c.base = some r →
    (s.unitAt r).unit.group = none → Answers s (.preemptionRequest die) fun t => (t.unitAt r).ctl.prq = true ∧ SameMemory s t) ∧
  (let s1 := (s.undoLate rank).drain rank allClasses
   let s2 := s1.settleEngines rank
   (s.unitAt rank).unit.running = true → (s.unitAt rank).ctl.prq = true → (s.unitAt rank).ctl.pdl = 0 → (s1.unitAt rank).savable = true →
   (s2.unitAt rank).faultDue = false → s2.settledEngines rank = true → ∀ p s3, s2.popPool (dieOf rank) (s2.unitAt rank).unit.ctx (s2.unitAt rank).objSize = .ok p s3 →
    Answers s (.forcedSave rank) fun t => (t.unitAt rank).unit.running = false ∧ (NoImages s3 → ∃ o, IsReady t o ∧ o.ptr = p))

end

namespace Sys2Proof.Claims
open Sys2Proof Sys2Proof.Machine

/-- Shares the cleared results give the clusters together. -/
def sharesGiven (t : State) : Nat :=
  allClusters.foldl (fun n k => n + ((t.cluster k.1 k.2).cleared.map (·.1)).getD 0) 0

end Sys2Proof.Claims

section
open Sys2Proof Sys2Proof.Machine Sys2Proof.Claims

/-- 16 R274, R276–R278, R282, R283: a reading outside −20 °C to 150 °C declares its sensor failed, once; an epoch's end gives every
cluster a result between its floor and its full demand, and clears its meter; the results apply when they arrive, end the
withholding and order the rail, of a pair site in use the lower of its clusters' two (R280); an ordered rail is switched to at the
first boundary of its limiter's ramp steps after the order; a meter that reaches its share withholds the cluster's matrix commands,
none of which is eligible any longer. The energy of a step is a free value (log 21). -/
def Obligations.PowerEvents : Prop := ∀ (s : State) (die c : Nat),
  (∀ id v, Answers s (.sensorSample [(id, v)]) fun t => SameMemory s t ∧
    (alGet id t.power.sensors).map (·.past) = some (v :: (((alGet id s.power.sensors).getD {}).past.take 100)) ∧
    (v < -160 ∨ 1200 < v → id ∉ s.power.failed → t.power.failed = id :: s.power.failed ∧
      Told s t [.event "SENSOR_FAILED" 0 "OK" [id / 64, id / 8 % 8, id % 8]])) ∧
  (Answers s .epochEnd fun t => SameMemory s t ∧ ∀ k ∈ allClusters, ∃ a high, (t.cluster k.1 k.2).cleared = some (a, high) ∧
    floorOf k.1 ≤ a ∧ a ≤ floorOf k.1 + highOf k.1 ∧ (t.cluster k.1 k.2).used = 0) ∧
  (∀ a high, (die, c) ∈ allClusters → (s.cluster die c).cleared = some (a, high) → Answers s .marketResultsArrive fun t =>
    let k := t.cluster die c
    let rail := if s.pairBusy die c = true then high && (t.cluster die (c ^^^ 1)).own else high
    k.alloc = some a ∧ k.cleared = none ∧ k.withheld = false ∧ k.own = high ∧ k.pendingRail = (if rail = k.railHigh then none else some rail) ∧
    k.ordered = s.clk ∧ SameMemory s t) ∧
  (∀ h, (die, c) ∈ allClusters → (s.cluster die c).pendingRail = some h → h ≠ (s.cluster die c).railHigh → (s.cluster die c).joining = false →
    s.pairBusy die c = false →
    let opened := ((s.die die).limiter (s.cluster die c).railHigh).opened
    (opened + 4 ≤ s.clk → (s.cluster die c).ordered < opened + (s.clk - opened) / 4 * 4 → Answers s (.railSwitch die c) fun t =>
      (t.cluster die c).railHigh = h ∧ (t.cluster die c).pendingRail = none ∧ SameMemory s t) ∧
    (s.clk < opened + 4 → Answers s (.railSwitch die c) fun t =>
      (t.cluster die c).railHigh = (s.cluster die c).railHigh ∧ (t.cluster die c).pendingRail = some h ∧ SameMemory s t)) ∧
  (∀ a, (s.cluster die c).alloc = some a → a * 5000 ≤ (s.cluster die c).used →
    Answers s (.energyMeterExhausted die c) fun t => (t.cluster die c).withheld = true ∧ SameMemory s t ∧
      ∀ r ∈ coresOf die c, ∀ x ∈ (t.unitAt r).mat.queue, x.granted = none → x.eligible = none)

/-- 16 R275, R277: the results of a clearing never give the clusters together more than the market holds, which is PBUDGET less the
fixed draws. -/
def Obligations.MarketWithinBudget : Prop := ∀ (s t : State), 4648 ≤ s.power.pbudget → exec .epochEnd s = .next t →
  sharesGiven t + 680 + 32 * 90 ≤ s.power.pbudget

/-- 21 R334, R347–R349, 24 R381, R393: a request of another package is performed once, and its number found again does nothing; a
refused one performs nothing, and an uncorrectable read refuses it and, while its context's interval is open, is kept for a rollback
(log 150); one under a key slot that is being flushed waits. A request whose replay time-out has come is sent again under its number, and one
that has been sent 19 times again fails its load, fetch or copy, or its store with a report; a plane that has failed is passed over.
A link that cannot retrain is reported once; a retrain failure of two dies that no link joins changes nothing (what a link is: log 86). -/
def Obligations.FabricEvents : Prop := ∀ (s : State) (port source seq : Nat) (op : FabricOp),
  let key := source / 4096 * 32 + port
  let mine := fun (q : FabReq) => decide (q.port = port) && decide (q.seq = seq)
  ((∃ r ∈ s.fab.responses, r.1 = key ∧ r.2.1 = seq) → exec (.fabricRequestArrival port source seq op) s = .next s) ∧
  (s.keyBusy (fabKey op) = true → exec (.fabricRequestArrival port source seq op) s = .next s) ∧
  ((∀ r ∈ s.fab.responses, ¬(r.1 = key ∧ r.2.1 = seq)) → s.keyBusy (fabKey op) = false →
    let answered := fun (bs : List Byte) (refused : Bool) (P : State → Prop) => Answers s (.fabricRequestArrival port source seq op) fun t =>
      t.fab.responses = (key, seq, bs, refused) :: s.fab.responses ∧ P t
    (s.fabRefuses source op = true → answered [] true fun t => SameMemory s t) ∧
    (s.fabRefuses source op = false →
      (∀ c k pa n pol bs s1, op = .load c k pa n pol → s.readHome pa { key := k, pol := pol } (pol = 0) n = (.ok bs, s1) →
        answered bs false fun t => SameMemory s1 t) ∧
      (∀ c k pa n pol x s1, op = .load c k pa n pol → s.readHome pa { key := k, pol := pol } (pol = 0) n = (.error x, s1) →
        answered [] true fun t => SameMemory s1 t ∧
          (s1.intervalOpen c = true → ∃ y, alGet c t.ctxs = some y ∧ (y.dataFault.isSome ∨ y.killed = true))) ∧
      (∀ c k pa pol cz bs kid, op = .store c k pa pol false cz bs → 0 < bs.length → pa % 128 + bs.length ≤ 128 → Sound (s.stack (stackOf pa)) →
        s.keyId k = some kid → answered [] false fun t => t.bytesUnder kid pa bs.length = bs) ∧
      (∀ c k pa n cz y e old s1 s2, op = .atomic c k pa n false cz .add y e →
        s.readHome pa { key := k, compress := cz } true n = (.ok old, s1) →
        s1.performWrite { cls := 3, ident := source, ctx := some c } pa { key := k, compress := cz } true
          (bytesOf n ((natOf old + y) % 2 ^ (8 * n))) = (none, s2) → answered old false fun t => SameMemory s2 t))) ∧
  (Answers s (.fabricReplayTimeout port seq) fun t => SameMemory s t ∧
    t.fab.outstanding = s.fab.outstanding.map fun q => if mine q = true then { q with replays := q.replays + 1 } else q) ∧
  (∀ q, s.fab.outstanding.find? (fun x => mine x && decide (19 ≤ x.replays)) = some q →
    let rest := s.fab.outstanding.filter fun x => decide (x.id ≠ q.id)
    (∀ p, q.use = .load → (s.unitAt q.rank).pend = some p → p.sent = q.id → Answers s (.fabricRequestExpiry port seq) fun t =>
      t.fab.outstanding = rest ∧ (t.unitAt q.rank).pend = some { p with failed := some 0x00F } ∧ SameMemory s t) ∧
    (∀ n e c, q.use = .store n → (s.unitAt q.rank).stores.find? (fun e => e.seq = n) = some e → s.ctx? q.ctx = some c → c.killed = false →
      Answers s (.fabricRequestExpiry port seq) fun t => t.fab.outstanding = rest ∧ SameMemory s t ∧
        ∃ k r, alGet q.ctx t.ctxs = some k ∧ k.records = c.records ++ [(r, true)] ∧ valueOf ((r.drop 2).take 2) = 0x00F ∧
          valueOf ((r.drop 8).take 8) = e.va.toNat) ∧
    (q.use ≠ .load → (∀ n, q.use ≠ .store n) → Answers s (.fabricRequestExpiry port seq) fun t => SameMemory s t ∧
      t.fab.outstanding = s.fab.outstanding.map fun x => if x.id = q.id then { x with failed := true } else x)) ∧
  (port < 32 → port ∉ s.fab.failed → Answers s (.planeFailure port) fun t => t.fab.failed = port :: s.fab.failed ∧ SameMemory s t) ∧
  (∀ a b, linked a b = true → (min a b, max a b) ∉ s.fab.linksDown → Answers s (.retrainFailure a b) fun t =>
    Told s t [.event "LINK_DOWN" 0 "OK" [min a b, max a b]] ∧ (min a b, max a b) ∈ t.fab.linksDown ∧ SameMemory s t) ∧
  (∀ a b, linked a b = false → exec (.retrainFailure a b) s = .next s)

end

namespace Sys2Proof.Claims
open Sys2Proof Sys2Proof.Machine

/-- The packet whose turn of admission it is: the head of its queue, of a kind, without a set reserved bit, of a live context; no
access is held (log 132). -/
def AtHead (s : State) (q kind c : Nat) (p : List Byte) : Prop :=
  s.held = false ∧
  (s.packetsOf q).head? = some p ∧ s.mayAdmit q = true ∧ natAt p 0 1 = kind ∧ packetClean p = true ∧
  alGet q s.host.queues = some c ∧ ∃ x, s.ctx? c = some x ∧ x.killed = false

/-- The head packet of a queue has left it. -/
def Left (s t : State) (q : Nat) : Prop := t.packetsOf q = (s.packetsOf q).drop 1

/-- The completion a packet posts. -/
def done (q : Nat) (status : String) (args : List Nat) : HostMsg := .event "COMPLETION" q status args

end Sys2Proof.Claims

section
open Sys2Proof Sys2Proof.Machine Sys2Proof.Claims

/-- 14 R250, R251, 17 R286, R287, 19 R308–R311, 25 R400: packets of launches, streams, frames and batches. A sweep whose record passes is
admitted, another refused with SWEEP_INVALID; a stream image that passes gets the context's next free handle; a frame at an
anchor from C to G is accepted, an earlier one is late; a playback report moves P; a close ends the stream; a batch is opened,
closed. -/
def Sys2Proof.Claims.QueuePackets : Prop := ∀ (s : State) (q c : Nat) (p : List Byte),
  let s0 := s.popPacket q
  (∀ b s1, AtHead s q 1 c p → s0.headRead c (wordAt p 8) 256 256 = (.ok b, s1) → s1.held = false →
    let r := sweepRecOf b
    r.mode ≠ 2 →
    (r.fits b = true → (∀ d ∈ maskDies r.dmask, s1.dieAllowed c d = true) → (∀ x ∈ r.signal, s1.signalFits c x = true) →
      Answers s (.launch q) fun t => Left s t q ∧ SameMemory s1 t ∧ Told s t [] ∧ t.head.nextSweep = s.head.nextSweep + 1 ∧
        ∃ w, t.head.sweeps = s.head.sweeps ++ [w] ∧ w.id = s.head.nextSweep ∧ w.ctx = c ∧ w.ptr = wordAt p 8 ∧ w.record = r ∧
          w.dies = maskDies r.dmask ∧ w.queue = r.queue ∧ w.via = some q ∧ w.admitted = false ∧ w.running = 0) ∧
    (r.fits b = false → Answers s (.launch q) fun t => Left s t q ∧ SameMemory s1 t ∧ t.head.sweeps = s.head.sweeps ∧
      Told s t [done q "SWEEP_INVALID" []])) ∧
  (∀ b s1, AtHead s q 2 c p → s0.headRead c (wordAt p 8) 256 512 = (.ok b, s1) → s1.held = false → (streamOf c 0 b).fits b = true →
    s1.dieAllowed c (natAt b 0x58 1) = true → s.head.streams.length + 2 ≤ 2 ^ 36 → Answers s (.streamOpen q) fun t =>
      Left s t q ∧ SameMemory s1 t ∧ ∃ h, 0 < h ∧ h < 2 ^ 36 ∧ s.stream? c h = none ∧ t.stream? c h = some (streamOf c h b) ∧
        Told s t [.event "STREAM_OPENED" (natAt b 0x5A 2) "OK" [h], done q "OK" [h]]) ∧
  (∀ x, AtHead s q 3 c p → s.liveStream c (wordAt p 8) = some x → s.snapBusy x = false → wordAt p 24 = 0#64 → wordAt p 32 = 0#64 →
    let a := natAt p 16 4
    (x.c ≤ a → a ≤ x.g → Answers s (.frame q) fun t => Left s t q ∧ SameMemory s t ∧ StreamIs t (framed x a) ∧
      Told s t [.event "FRAME_ACCEPTED" x.queue "OK" [x.handle, x.g, x.p, a, (framed x a).version], done q "OK" []]) ∧
    (a < x.c → Answers s (.frame q) fun t => Left s t q ∧ SameMemory s t ∧ StreamIs t x ∧
      Told s t [.event "FRAME_LATE" x.queue "OK" [x.handle, a, x.c], done q "FRAME_LATE" []])) ∧
  (∀ x, AtHead s q 4 c p → s.liveStream c (wordAt p 8) = some x → x.tpend = false → x.p + natAt p 16 4 ≤ x.g →
    Answers s (.playbackReport q) fun t => Left s t q ∧ SameMemory s t ∧ StreamIs t { x with p := x.p + natAt p 16 4 } ∧ Told s t [done q "OK" []]) ∧
  (∀ x, AtHead s q 5 c p → s.liveStream c (wordAt p 8) = some x → (s0.freeBlocks x 0 x.nblk).held = false → Answers s (.streamClose q) fun t => Left s t q ∧
    t.stream? c x.handle = none ∧ ∃ v, Told s t [.event "STREAM_CLOSED" x.queue "OK" [x.handle, 0, v], done q "OK" []]) ∧
  (AtHead s q 6 c p →
    (64 ≤ s.head.batches.length → Answers s (.batchOpen q) fun t => Left s t q ∧ t.head = s.head ∧ Told s t [done q "BATCH_FULL" []]) ∧
    (∀ b s1 x r s2, s.head.batches.length < 64 → s0.headRead c (wordAt p 8) 128 128 = (.ok b, s1) →
      batchOf c q (wordAt p 8) s.time b = some x → s1.headRead c x.record 256 256 = (.ok r, s2) → s2.held = false → natAt r 8 1 = 1 → natAt r 40 4 = 1 →
      Answers s (.batchOpen q) fun t => Left s t q ∧ t.head.batches = s.head.batches ++ [x] ∧ Told s t [done q "OK" []])) ∧
  (∀ l b r, AtHead s q 7 c p → s.head.batches = l ++ b :: r → b.ctx = c → b.desc = wordAt p 8 →
    (∀ x ∈ l, ¬(x.ctx = c ∧ x.desc = wordAt p 8)) → Answers s (.batchClose q) fun t => Left s t q ∧ SameMemory s t ∧
      t.head.batches = l ++ r ∧ Told s t [done q "OK" []])

/-- 19 R312: a tick of an open batch whose period is over. While the sweep of the last tick runs no sweep is admitted; else the
members whose streams can step are captured and a sweep over them is admitted. 17 R295: a snapshot copy that ends has written the
state its word's release left into the slot, as a write of channel 0 of the sluice of the stream's die (log 144), and names the slot's
position in the record; its word takes the version as it then is. -/
def Sys2Proof.Claims.BatchAndSnapshot : Prop := ∀ (s : State) (index : Nat),
  (∀ b, s.head.batches[index]? = some b → b.due ≤ s.time →
    let d := b.desc.toNat
    let next := b.due + b.period * 1000
    (∀ v s1, (s.sweep? b.last).isSome = true → s.ctxReadNat headDie b.ctx (d + 36) 4 = (.ok v, s1) → Answers s (.batchTick index) fun t =>
      t.head.sweeps = s.head.sweeps ∧ t.head.batches = s.head.batches.set index { b with due := next } ∧
      SameMemory (s1.headWrite b.ctx (d + 36) (bytesOf 4 (min (v + 1) (2 ^ 32 - 1)))) t) ∧
    (∀ rot v x s1 s2, s.sweep? b.last = none → b.nmem = 1 → 1 ≤ b.nmax → s.ctxReadNat headDie b.ctx (d + 32) 4 = (.ok rot, s1) →
      s1.ctxReadNat headDie b.ctx b.members.toNat 8 = (.ok v, s2) → s2.liveStream b.ctx (BitVec.ofNat 64 v) = some x →
      x.tpend = false → x.g < 16 * x.nblk → x.g < 2 ^ 31 - 1 →
      let s3 := s2.headWrite b.ctx b.list.toNat (w8 (BitVec.ofNat 64 v) ++ bytesOf 4 x.version ++ bytesOf 4 x.g)
      let s4 := (s3.headWrite b.ctx (d + 32) (bytesOf 4 0)).headWrite b.ctx (b.record.toNat + 16) (bytesOf 4 1)
      ∀ id s5, s4.admitSweep none b.ctx b.record = (.ok id, s5) → Answers s (.batchTick index) fun t =>
        t.head.sweeps = s5.head.sweeps ∧ t.head.batches = s.head.batches.set index { b with last := id, due := next } ∧ SameMemory s5 t)) ∧
  (∀ x y, s.head.snaps[index]? = some x → s.stream? x.ctx x.handle = some y → y.version = x.version →
    let s1 : State := { s with head := { s.head with snaps := s.head.snaps.eraseIdx index } }
    ∀ s2, s1.ctxWriteBy { cls := 2, ident := y.ddie, ctx := none } y.ddie x.ctx (y.snapbase.toNat + x.slot * y.rsize) x.bytes = (none, s2) → Answers s (.snapshotCopyDone index) fun t =>
    t.head.snaps = s.head.snaps.eraseIdx index ∧ SameMemory s2 t ∧ StreamIs t { y with snappos := y.snappos.set x.slot x.pos, snaplast := x.pos } ∧
    ((s.unitAt x.rank).unit.running = true → (s.unitAt x.rank).unit.ctx = x.ctx → (s.unitAt x.rank).stall = .control false →
      (t.unitAt x.rank).stall = .took (versioned y x.pos)))

/-- 24 R375, R383, R384, R388, 25 R400: packets that kill, save and restore a context. A kill waits while a unit of the context is inside a
word; it posts CONTEXT_KILLED on the packet's queue, then the completion; a save of the one running
unit of a context, at a boundary, parks it and names its object; a restore makes a named object ready (how a restore packet lists its objects is the model's
choice, log 24). -/
def Sys2Proof.Claims.ContainmentPackets : Prop := ∀ (s : State) (q c : Nat) (p : List Byte),
  let s0 := s.popPacket q
  (∀ s1 k, AtHead s q 8 c p → s.stopping c = false → s0.putFatal c none 0x076 1 { packed := 0x076 } = (true, s1) → s1.held = false →
    s1.ctx? c = some k → k.killed = false → k.stopDue = none → k.drop = none →
    (s1.atBoundary c = true → (s1.killCtx c 0x076 (some q)).held = false → Answers s (.killContext q) fun t =>
      Left s t q ∧ (∀ w ∈ t.head.sweeps, w.ctx ≠ c) ∧ (∃ k, t.ctx? c = some k ∧ k.killed = true) ∧
      ∃ l, t.host.out = l ++ ([.event "CONTEXT_KILLED" q "OK" [c, 0x076], done q "OK" []] : List HostMsg).filterMap s.host.posted) ∧
    (s1.atBoundary c = false → Answers s (.killContext q) fun t => Left s t q ∧ Told s t [] ∧
      ∃ k, t.ctx? c = some k ∧ k.killed = false ∧ k.stopDue = some { roll := false, cause := 0x076, queue := some q })) ∧
  (∀ rank, AtHead s q 9 c p → (s.units.filter fun u => u.2.unit.running && decide (u.2.unit.ctx = c)).map (·.1) = [rank] →
    (s.unitAt rank).unit.running = true → (s.unitAt rank).unit.ctx = c →
    let s1 := ((s0.undoLate rank).drain rank allClasses).settleEngines rank
    (s1.unitAt rank).atBoundary = true → s1.settledEngines rank = true →
    ∀ o s2, (s1.modCtx c fun x => { x with saved := true }).saveUnit rank = (.ok o, s2) → s2.held = false →
    Answers s (.saveContext q) fun t => Left s t q ∧ (t.unitAt rank).unit.running = false ∧ (∃ k, t.ctx? c = some k ∧ k.saved = true) ∧
      ∃ l, t.host.out = l ++ ([.event "SAVED" q "OK" [c, o.ptr.toNat], done q "OK" []] : List HostMsg).filterMap s.host.posted) ∧
  (∀ o s1 r, AtHead s q 10 c p → s0.objectList c (wordAt p 8) = (.ok [o], s1) → s1.held = false → isDie (natAt p 16 4) = true →
    s1.dieAllowed c (natAt p 16 4) = true → (s1.readyRec c (natAt p 16 4) o).1 = some r → NoImages s1 →
    Answers s (.restoreContext q) fun t => Left s t q ∧ IsReady t r ∧ r.ptr = o ∧ r.hdie = natAt p 16 4 ∧
      (∃ k, t.ctx? c = some k ∧ k.saved = false) ∧ Told s t [done q "OK" []])

end

namespace Sys2Proof.Claims
open Sys2Proof Sys2Proof.Machine

/-- The message between sluices that stands at an index. -/
def msgFor (s : State) (index : Nat) (m : SlMsg) : Prop := s.fab.msgs[index]? = some m

/-- The channel's state at its receiver. -/
def recvOf (s : State) (die channel : Nat) : SlRecv := (s.die die).recv (channel / 16) (channel % 16)

/-- The switch plane of the messages of a channel between a sender and a receiver: none within a package; between packages that of
the receiver's die, or the next one where that has failed and nothing is outstanding on it (21 R349). -/
def PlaneOf (s : State) (sender receiver p : Nat) : Prop :=
  (sender / 64 = receiver / 64 ∧ p = 0) ∨ (sender / 64 ≠ receiver / 64 ∧ s.planeFor (receiver % 64 - 32) = some p)

/-- An answer from a receiver to the sender of a channel, by a plane. -/
def answerOf (s : State) (die channel p : Nat) (b : SlBody) : SlMsg :=
  { sender := channel / 16, receiver := s.fab.pkg * 64 + die, chan := channel % 16, body := b, plane := p }

/-- A number of a sluice channel's counter of a context has completed. -/
def NumberDone (t : State) (die ch ctx num : Nat) : Prop := num ∈ (t.slTimeline die ch ctx).done

end Sys2Proof.Claims

section
open Sys2Proof Sys2Proof.Machine Sys2Proof.Claims

/-- 21 R336–R342, R344: the sender of a sluice channel. It sends a waiting cancel first, then the next block of its first unstopped
transfer, in the landed order of heads and positions, under the next sequence number; COMMITTED counts a block, and the last one
completes the transfer's number; the acknowledgement of a cancel completes its number and ends the transfer; a time-out sends an
unacknowledged item again (the model leaves its moment free where R341 gives SLRTO: log 84); a full receiver stops the channel, and a
drained one starts it. What would cross a dead link does not arrive (R334; log 126). (That an item also counts its place among
those for its receiver is the model's reading, log 47.) -/
def Obligations.SluiceSender : Prop := ∀ (s : State) (die key index plane : Nat),
  let c := s.chan die key
  let me := s.fab.pkg * 64 + die
  let place := fun (x : SlDesc) => (alGet (slTarget x.handle) c.sentTo).getD 0
  (c.unacked.length < 4096 →
    (∀ i rest, c.pending = i :: rest → chanKey i.desc.handle = key → PlaneOf s me (slTarget i.desc.handle) plane →
      let j := { i with q := c.nextQ, k := place i.desc }
      Answers s (.blockSend die key) fun t => SameMemory s t ∧
        t.chan die key = { c with pending := rest, unacked := c.unacked ++ [j], nextQ := c.nextQ + 1,
                                  sentTo := alSet (slTarget i.desc.handle) (j.k + 1) c.sentTo } ∧
        t.fab.msgs = s.fab.msgs ++ [{ sender := me, receiver := slTarget i.desc.handle, chan := key, body := .item j, plane := plane }]) ∧
    (∀ x b s1, c.pending = [] → c.stopped = [] → (c.transfers.find? fun y => !y.stop && decide (y.next < y.desc.blocks)) = some x →
      chanKey x.desc.handle = key → (s.die die).staged + x.desc.landed ≤ 2 ^ 22 →
      s.ctxRead die x.desc.ctx (x.desc.src.toNat + x.next * x.desc.source) x.desc.source = (.ok b, s1) →
      PlaneOf s1 me (slTarget x.desc.handle) plane →
      Answers s (.blockSend die key) fun t => SameMemory s1 t ∧ ∃ i : SlItem, i.q = c.nextQ ∧ i.k = place x.desc ∧ i.cancel = false ∧
        i.desc = x.desc ∧ i.block = x.next ∧
        (t.chan die key).unacked = c.unacked ++ [i] ∧ (t.chan die key).nextQ = c.nextQ + 1 ∧
        t.fab.msgs = s.fab.msgs ++ [{ sender := me, receiver := slTarget x.desc.handle, chan := key, body := .item i, plane := plane }] ∧
        (x.desc.narrow = false → ∀ h r k, h < x.desc.nh → r < 16 → k < 2 * x.desc.hd →
          i.bytes[(h * 16 + r) * (2 * x.desc.hd) + k]? = b[2 * (r * x.desc.nh + h) * x.desc.hd + k]?))) ∧
  (∀ m q i x, msgFor s index m → m.body = .committed q → m.sender = me → m.chan = key → die < 64 → s.slArrives m = true →
    ackWaits (s.fab.msgs.take index) m = false → (c.unacked.find? fun i => decide (i.q = q) && !i.cancel) = some i →
    chanKey i.desc.handle = key → (c.transfers.find? fun y => y.desc = i.desc) = some x → Answers s (.committedAckArrival index) fun t =>
      t.fab.msgs = s.fab.msgs.eraseIdx index ∧
      (x.committed + 1 ≠ i.desc.blocks → (t.chan die key).unacked = c.unacked.filter (fun y => y.q ≠ q) ∧
        ∃ y ∈ (t.chan die key).transfers, y.desc = i.desc ∧ y.committed = x.committed + 1) ∧
      (x.committed + 1 = i.desc.blocks → NumberDone t die key i.desc.ctx i.desc.num ∧
        ∀ y ∈ (t.chan die key).transfers, y.desc ≠ i.desc)) ∧
  (∀ m q n reason i num x, msgFor s index m → m.body = .ack q n reason → m.sender = me → m.chan = key → die < 64 → s.slArrives m = true →
    ackWaits (s.fab.msgs.take index) m = false → (c.unacked.find? fun i => i.q = q) = some i → i.num = some num →
    chanKey i.desc.handle = key → (c.transfers.find? fun y => y.desc = i.desc) = some x → Answers s (.cancelAckArrival index) fun t =>
      t.fab.msgs = s.fab.msgs.eraseIdx index ∧ NumberDone t die key i.desc.ctx num ∧ NumberDone t die key i.desc.ctx i.desc.num ∧
      (∀ y ∈ (t.chan die key).transfers, y.desc ≠ i.desc) ∧ ∀ y ∈ (t.chan die key).unacked, y.q ≠ q) ∧
  (∀ q i, (c.unacked.find? fun i => i.q = q) = some i → PlaneOf s me (slTarget i.desc.handle) plane → Answers s (.retransmitTimeout die key q) fun t => SameMemory s t ∧
    t.fab.msgs = s.fab.msgs ++ [{ sender := me, receiver := slTarget i.desc.handle, chan := key, body := .item i, plane := plane }] ∧
    (t.chan die key).unacked = c.unacked.map fun y => if y.q = q then { y with expiries := y.expiries + 1 } else y) ∧
  (∀ to_, die < 64 → key < 16 →
    let far := to_ % 64
    let here := to_ / 64 = s.fab.pkg
    let r := (s.die far).recv me key
    let way := (here ∧ s.reaches far die = true) ∨ (¬here ∧ s.signalArrives die (to_ * 16 + key) = true)
    (way → (here → 768 * 1024 ≤ (s.die far).landing ∨ 16 ≤ r.waiting) → Answers s (.sluiceStop die (to_ * 16 + key)) fun t =>
      t.chan die key = { c with stopped := if c.stopped.contains to_ then c.stopped else to_ :: c.stopped } ∧ SameMemory s t) ∧
    (way → (here → (s.die far).landing < 512 * 1024 ∧ r.waiting < 8) → Answers s (.sluiceGo die (to_ * 16 + key)) fun t =>
      t.chan die key = { c with stopped := c.stopped.filter fun r => r ≠ to_ } ∧ SameMemory s t))

/-- 21 R338–R343, R341: the receiver of a sluice channel. It takes the item whose turn it is, answers a settled one of the
last 4096 again, drops an older one and one ahead of its turn (the turn by its place among the sender's items for this receiver, log 47); a landed block is given its block's page, or one of the pool; once its bytes are written its entry is
filled, HIBLK raised and COMMITTED sent; a cancel closes its transfer and is answered with the blocks committed. A lost package
leaves no transfer and no message of its own, and is reported once. -/
def Obligations.SluiceReceiver : Prop := ∀ (s : State) (die channel index plane : Nat), die < 64 →
  let r := recvOf s die channel
  let goes := fun (x : State) => PlaneOf x (channel / 16) (s.fab.pkg * 64 + die) plane
  let answer := answerOf s die channel plane
  (∀ m i, msgFor s index m → m.body = .item i → m.receiver = s.fab.pkg * 64 + die → m.sender = channel / 16 → m.chan = channel % 16 → s.slArrives m = true →
    (i.k = r.next → i.cancel = false → (r.xfer i.desc).closed = false → (s.die die).landing + i.bytes.length ≤ 2 ^ 20 →
      Answers s (.blockArrival index) fun t => t.fab.msgs = s.fab.msgs.eraseIdx index ∧ SameMemory s t ∧
        recvOf t die channel = { r with next := r.next + 1, landed := r.landed ++ [{ item := i }] }) ∧
    (∀ x b, i.k < r.next → r.next ≤ i.k + 4096 → alGet i.k r.outcomes = some x → goes s →
      (x = .committed ∧ b = .committed i.q ∨ ∃ n reason, x = .acked n reason ∧ b = .ack i.q n reason) →
      Answers s (.blockArrival index) fun t => SameMemory s t ∧ t.fab.msgs = s.fab.msgs.eraseIdx index ++ [answer b] ∧
        recvOf t die channel = r) ∧
    (r.next < i.k ∨ i.k + 4096 < r.next → Answers s (.blockArrival index) fun t => t.fab.msgs = s.fab.msgs.eraseIdx index ∧ recvOf t die channel = r)) ∧
  (∀ l, (r.landed.find? fun l => !l.item.cancel && l.page.isNone) = some l → (r.xfer l.item.desc).closed = false →
    (∀ n, s.slDest l.item.desc = .error n → r.behind l.item = false → (r.xfer l.item.desc).blocks = [] → goes s → Answers s (.blockLandingCheck die channel) fun t =>
      t.fab.msgs = s.fab.msgs ++ [answer (.ack l.item.q 0 n)] ∧ ((recvOf t die channel).xfer l.item.desc).closed = true) ∧
    (∀ x s1 e s2, s.slDest l.item.desc = .ok x → l.item.entry < x.nblk → s.readEntryAt x l.item.entry = (.ok emptyEntry, s1) →
      s1.takePage x.ctx x.ddie = (some e, s2) → Answers s (.blockLandingCheck die channel) fun t => SameMemory s2 t ∧
        t.fab.msgs = s.fab.msgs ∧ (∃ y ∈ (recvOf t die channel).landed, y.item = l.item ∧ y.page = some (e, true)) ∧
        ∀ g, t.pageRec x.ctx e = some g → g.place = .landing) ∧
    (∀ x s1 e, s.slDest l.item.desc = .ok x → l.item.entry < x.nblk → s.readEntryAt x l.item.entry = (.ok e, s1) → e ≠ emptyEntry →
      Answers s (.blockLandingCheck die channel) fun t => SameMemory s1 t ∧
        ∃ y ∈ (recvOf t die channel).landed, y.item = l.item ∧ y.page = some (e, false))) ∧
  (∀ l e x y s1 s2 s3, (r.landed.find? fun l => !l.item.cancel && l.page.isSome) = some l → l.page = some (e, true) →
    (r.xfer l.item.desc).closed = false → s.liveStream l.item.desc.ctx l.item.desc.dst = some x →
    s.slWriteBlock die r x l.item e = (true, s1) → s1.slDest l.item.desc = .ok y → s1.readEntryAt y l.item.entry = (.ok emptyEntry, s2) →
    s2.writeEntryAt y l.item.entry e = (none, s3) → goes s3 → Answers s (.blockCommit die channel) fun t => SameMemory s3 t ∧
      StreamIs t { y with hiblk := max y.hiblk (l.item.entry + 1) } ∧
      t.fab.msgs = s.fab.msgs ++ [answer (.committed l.item.q)] ∧
      (recvOf t die channel).landed = r.landed.filter (fun z => z.item.q ≠ l.item.q) ∧
      ((recvOf t die channel).xfer l.item.desc).blocks.length = (r.xfer l.item.desc).blocks.length + 1) ∧
  (∀ l, (r.landed.find? fun l => l.item.cancel && !(r.landed.any fun y => decide (y.item.q < l.item.q) && decide (y.item.desc.serial = l.item.desc.serial))) = some l →
    (r.xfer l.item.desc).closed = false → goes s → (r.xfer l.item.desc).blocks = [] ∨ die - 32 ∉ s.fab.failed → Answers s (.cancelProcess die channel) fun t =>
      t.fab.msgs = s.fab.msgs ++ [answer (.ack l.item.q (r.xfer l.item.desc).blocks.length 0)] ∧
      ((recvOf t die channel).xfer l.item.desc).closed = true ∧ ((recvOf t die channel).xfer l.item.desc).blocks = []) ∧
  (index ≠ s.fab.pkg → index ∉ s.fab.lostPkgs → Answers s (.packageLost index) fun t => index ∈ t.fab.lostPkgs ∧
    Told s t [.event "PACKAGE_LOST" 0 "OK" [index]] ∧
    (∀ m ∈ t.fab.msgs, m.receiver / 64 ≠ index ∧ m.sender / 64 ≠ index) ∧
    ∀ d k, (∀ x ∈ (t.chan d k).transfers, slTarget x.desc.handle / 64 ≠ index) ∧
      ∀ i ∈ (t.chan d k).unacked ++ (t.chan d k).pending, slTarget i.desc.handle / 64 ≠ index)

end

namespace Sys2Proof.Claims
open Sys2Proof Sys2Proof.Machine

/-- A port of a part that has booted takes messages; none of its messages waits or is under way, and no access is held (log 132). -/
def PortFree (s : State) (port : Nat) : Prop :=
  s.portUp port = true ∧ s.host.boot = none ∧ s.portStuck port = false ∧ s.held = false ∧ ∀ x ∈ s.host.waiting, x.1 ≠ port

/-- The message waits on its port behind every earlier one. -/
def waitsOn (s : State) (port : Nat) (m : HostReq) : State := { s with host := { s.host with waiting := s.host.waiting ++ [(port, m)] } }

/-- The one completion of a request of a port. -/
def reply (port : Nat) (status : String) (cause : Nat) (data : List Byte) : HostMsg := .completion port status cause data

/-- What an access to a cell of a run of granules of a P-die reads: the run's cells, and all others. -/
def ZeroedRun (s t : State) (die first count : Nat) : Prop :=
  (∀ k, 3145728 * first ≤ k → k < 3145728 * (first + count) → Memory.read t.mem (sharedKey die k) = some 0#8) ∧
  ∀ a, (∀ k, 3145728 * first ≤ k → k < 3145728 * (first + count) → a ≠ sharedKey die k) → Memory.read t.mem a = Memory.read s.mem a

end Sys2Proof.Claims

section
open Sys2Proof Sys2Proof.Machine Sys2Proof.Claims

/-- 05 R103, 25 R398, R399: memory requests of a port. A request whose pages pass has its effect at the homes and completes once, with
OK and what was read; a page that does not pass completes it with FAULT and the cause; an atomic outside a page with SA = 1
is refused, and so is every atomic of context 0, which has no pages, whatever its address (log 93). While a message of a port waits,
or is under way, the port's next message waits behind it, with no effect; so does a request under a key slot that is being flushed. -/
def Obligations.HostMemory : Prop := ∀ (s : State) (port ctx : Nat) (va : Word),
  (∀ n, s.portUp port = true → s.host.boot = none → (s.portStuck port = true ∨ ∃ x ∈ s.host.waiting, x.1 = port) →
    exec (.memrd port ctx va n) s = .next (waitsOn s port (.memrd port ctx va n))) ∧
  (PortFree s port →
  (∀ n, 0 < n → n ≤ 4096 →
    (s.hostParts port ctx va n .load = .wait → exec (.memrd port ctx va n) s = .next (waitsOn s port (.memrd port ctx va n))) ∧
    (∀ c s1, s.hostParts port ctx va n .load = .fault c s1 → s1.held = false → Answers s (.memrd port ctx va n) fun t =>
      Told s t [reply port "FAULT" c []] ∧ SameMemory s1 t) ∧
    (∀ l s1 bs s2, s.hostParts port ctx va n .load = .ok l s1 → s1.hostRead l = (some bs, s2) → s2.held = false →
      Answers s (.memrd port ctx va n) fun t => Told s t [reply port "OK" 0 bs] ∧ SameMemory s2 t)) ∧
  (∀ bs l s1 s2, 0 < bs.length → bs.length ≤ 4096 → s.hostParts port ctx va bs.length .store = .ok l s1 →
    s1.hostWrite port ctx (hostPieces l bs) = (true, s2) → s2.held = false →
    Answers s (.memwr port ctx va bs) fun t => Told s t [reply port "OK" 0 []] ∧ SameMemory s2 t) ∧
  (∀ bs kid, 0 < bs.length → va.toNat % 128 + bs.length ≤ 128 → pkgOf va.toNat = s.fab.pkg → Sound (s.stack (stackOf va.toNat)) →
    s.reaches (portDie port) (homeDie va.toNat) = true →
    s.keyId 0 = some kid → Answers s (.memwr port 0 va bs) fun t => Told s t [reply port "OK" 0 []] ∧ t.bytesUnder kid va.toNat bs.length = bs) ∧
  (∀ op wide y e,
    let n := if wide = true then 8 else 4
    let answers := fun (c : Nat) (m : HostMsg) (s1 : State) => Answers s (.hostAtomic port c va op wide y e) fun t => Told s t [m] ∧ SameMemory s1 t
    answers 0 (reply port "ATOMIC_REFUSED" 0 []) s ∧
    (ctx ≠ 0 → va.toNat % n ≠ 0 → answers ctx (reply port "FAULT" 0x006 []) s) ∧
    (ctx ≠ 0 → va.toNat % n = 0 →
      (∀ l s1, s.hostLook port ctx va n .atomic = .ok l s1 → s1.held = false → (∃ x ∈ l, x.attr.sysAtomic = false) →
        answers ctx (reply port "ATOMIC_REFUSED" 0 []) s1) ∧
      (∀ l s1 bs s2, s.hostAtomicParts port ctx va n = .ok l s1 → s1.hostRead l = (some bs, s2) →
        (op = .compareSwap → natOf bs ≠ e.toNat % 2 ^ (8 * n) → s2.held = false → answers ctx (reply port "OK" 0 bs) s2) ∧
        ∀ v s3, (op = .fetchAdd ∧ v = (natOf bs + y.toNat) % 2 ^ (8 * n) ∨ op = .swap ∧ v = y.toNat % 2 ^ (8 * n) ∨
            op = .compareSwap ∧ natOf bs = e.toNat % 2 ^ (8 * n) ∧ v = y.toNat % 2 ^ (8 * n)) →
          s2.hostWrite port ctx (hostPieces l (bytesOf n v)) = (true, s3) → s3.held = false → answers ctx (reply port "OK" 0 bs) s3))))

/-- 04 R75, 25 R400–R403: queues, contexts, pools, grants and keys. Every request completes once; a packet joins its queue, which holds
256; a queue is bound while it is empty; a context is what its descriptor says; a dropped context is gone, once its units stand at
command boundaries; pages added to a
pool are on its near list; a grant waits, for accesses held at the banks too, then its run is its context's and reads as zero; one that
meets a run granted, or on its way (log 94), is refused; a key's load or zap waits, then every
line under the slot has left the caches and fetch buffers (whether wrapped bytes pass is a free value, log 9). -/
def Obligations.HostSetup : Prop := ∀ (s : State) (port ctx die : Nat), PortFree s port →
  (∀ q pkt, q < 1024 → pkt.length = 64 → (alGet q s.host.queues).isSome = true →
    ((s.packetsOf q).length < 256 → Answers s (.qwrite port q pkt) fun t => Told s t [reply port "OK" 0 []] ∧
      t.packetsOf q = s.packetsOf q ++ [pkt] ∧ ∀ r, r ≠ q → t.packetsOf r = s.packetsOf r) ∧
    (256 ≤ (s.packetsOf q).length → Answers s (.qwrite port q pkt) fun t => Told s t [reply port "QUEUE_FULL" 0 []] ∧
      t.packetsOf q = s.packetsOf q)) ∧
  (∀ q, q < 1024 → (s.ctx? ctx).isSome = true →
    (s.packetsOf q = [] → Answers s (.qbind port q ctx) fun t => Told s t [reply port "OK" 0 []] ∧ alGet q t.host.queues = some ctx) ∧
    (s.packetsOf q ≠ [] → Answers s (.qbind port q ctx) fun t => Told s t [reply port "BUSY" 0 []] ∧ t.host.queues = s.host.queues)) ∧
  (∀ pa b s1, 0 < ctx → ctx < 65536 → s.ctx? ctx = none → pkgOf pa = s.fab.pkg → pkgOf (pa + 255) = s.fab.pkg →
    s.readHome pa {} true 256 = (.ok b, s1) → s1.held = false → (ctxOf b).fits b = true → Answers s (.ctxset port ctx pa) fun t =>
      Told s t [reply port "OK" 0 []] ∧ t.ctx? ctx = some (ctxOf b) ∧ SameMemory s1 t) ∧
  (∀ k s1 k1, s.ctx? ctx = some k → k.killed = false →
    (s.setCtx ctx { k with drop := some port }).putFatal ctx none 0x076 1 { packed := 0x076 } = (true, s1) → s1.held = false →
    s1.ctx? ctx = some k1 → k1.killed = false → k1.stopDue = none → k1.drop = some port →
    (s1.atBoundary ctx = true → (s1.killCtx ctx 0x076).held = false → Answers s (.ctxdrop port ctx) fun t => t.ctx? ctx = none ∧
      (∀ w ∈ t.head.sweeps, w.ctx ≠ ctx) ∧ ∃ l, t.host.out = l ++
        ([.event "CONTEXT_KILLED" 0 "OK" [ctx, 0x076], reply port "OK" 0 []] : List HostMsg).filterMap s.host.posted) ∧
    (s1.atBoundary ctx = false → Answers s (.ctxdrop port ctx) fun t => Told s t [] ∧ t.portStuck port = true ∧
      ∃ k2, t.ctx? ctx = some k2 ∧ k2.killed = false ∧ k2.stopDue = some { roll := false, cause := 0x076 })) ∧
  (∀ list n b s1, (s.ctx? ctx).isSome = true → isDDie die = true → s.dieAllowed ctx die = true → spaceOf list = 0 →
    list.toNat + 4 * n ≤ 2 ^ 57 → s.ctxRead (portDie port) ctx list.toNat (4 * n) = (.ok b, s1) → s1.held = false →
    let es := (List.range n).map fun i => natAt b (4 * i) 4
    es.eraseDups = es → (∀ e ∈ es, s.pageRec ctx e = none) → (s.pool ctx die).near.length + n < 128 →
    Answers s (.pooladd port ctx die list n) fun t => Told s t [reply port "OK" 0 []] ∧ SameMemory s1 t ∧
      (t.pool ctx die).near = es.reverse ++ (s.pool ctx die).near ∧
      ∀ e ∈ es, t.pageRec ctx e = some { ctx := ctx, page := e, home := die, place := .near }) ∧
  (∀ first count, isPDie die = true → (s.ctx? ctx).isSome = true → 0 < count → first + count ≤ 64 →
    ((s.die die).grantBusy ctx first count = false → Answers s (.spgrant port die (some ctx) first count) fun t => Told s t [] ∧
      (t.die die).handovers = (s.die die).handovers ++ [{ port := port, ctx := some ctx, first := first, count := count }] ∧ SameMemory s t) ∧
    ((s.die die).grantBusy ctx first count = true → Answers s (.spgrant port die (some ctx) first count) fun t =>
      Told s t [reply port "BUSY" 0 []] ∧ (t.die die).handovers = (s.die die).handovers)) ∧
  (∀ h rest, (s.die die).handovers = h :: rest → (s.die die).splitTo = [] → s.banksBusy die = false → s.host.waiting = [] →
    (∀ c, isPDie die = true → h.ctx = some c → h.first + h.count ≤ 64 → Answers s (.spgrantTakesEffect die) fun t =>
      Told s t [reply h.port "OK" 0 []] ∧ (t.die die).handovers = rest ∧ ZeroedRun s t die h.first h.count ∧
      (t.die die).grants = (s.die die).grants ++ [{ ctx := c, first := h.first, count := h.count }]) ∧
    (isPDie die = true → h.ctx = none → 0 < h.count → Answers s (.spgrantTakesEffect die) fun t =>
      Told s t [reply h.port "OK" 0 []] ∧ (t.die die).handovers = rest ∧
      ∀ g, g ∈ (t.die die).grants ↔ g ∈ (s.die die).grants ∧ rangesMeet g.first g.count h.first h.count = false) ∧
    (isPDie die = false → Answers s (.spgrantTakesEffect die) fun t => Told s t [reply h.port "OK" 0 []] ∧
      (t.die die).handovers = rest ∧ (t.die die).dgrant = h.ctx ∧
      ∀ k < (16 - (s.die die).split) * (24 * 2 ^ 20), Memory.read t.mem (sharedKey die k) = some 0#8)) ∧
  (s.banksBusy die = true → exec (.spgrantTakesEffect die) s = .next s) ∧
  (∀ slot w, 0 < slot → slot < 4096 →
    (Config.wrapValid w = true → Answers s (.keyload port slot w) fun t => Told s t [] ∧ t.keyBusy slot = true ∧ t.host.keySlots = s.host.keySlots) ∧
    (Config.wrapValid w = false → Answers s (.keyload port slot w) fun t => Told s t [reply port "KEY_DENIED" 0 []] ∧
      t.host.keySlots = s.host.keySlots ∧ t.host.keyWork = s.host.keyWork) ∧
    Answers s (.keyzap port slot) fun t => Told s t [] ∧ t.keyBusy slot = true) ∧
  (∀ slot p new, s.host.waiting = [] → (s.host.keyWork.find? fun x => x.1 = slot) = some (slot, p, new) → Answers s (.keySlotFlushDone slot) fun t =>
    Told s t [reply p "OK" 0 []] ∧ t.keyId slot = new ∧ t.host.keyWork = s.host.keyWork.erase (slot, p, new) ∧
    (∀ k, ∀ x ∈ (t.stack k).sram, x.key ≠ slot) ∧ ((s.keyId slot).isSome → ∀ u ∈ t.units, ∀ x ∈ u.2.fetchBuf, x.key ≠ slot))

/-- 12 R240, 16 R275, R281, R283, 25 R398, R404, Table 136: management registers. A read of one gives its value; a write that passes
completes with OK and is what a read gives from then on; PBUDGET below 4648 shares, and an entry of 0 in RAMPT, are refused and
change nothing; a ramp table is in force from the next boundary on. The model's choices: an address of no register completes with FAULT
(log 148); SENSCLR's layout, and that it clears only a sensor that a boot has found failed before (log 88); ELOGDATA reads the
stack whose ELOG was written last (log 89). -/
def Obligations.ManagementRegisters : Prop := ∀ (s : State) (port die stack : Nat) (v : Word), PortFree s port →
  let ok := fun (i : Instr) (P : State → Prop) => Answers s i fun t => Told s t [reply port "OK" 0 []] ∧ SameMemory s t ∧ P t
  let no := fun (i : Instr) => Answers s i fun t => Told s t [reply port "FAULT" 0 []] ∧ t.power = s.power ∧ t.dies = s.dies ∧ SameMemory s t
  let reads := fun (a v : Nat) => Answers s (.mgmtrd port a) fun t => Told s t [reply port "OK" 0 (bytesOf 8 v)] ∧ t.power = s.power ∧ SameMemory s t
  reads 0 s.power.pbudget ∧
  reads 0x200 (s.power.thot * 65536 + s.power.tcrit) ∧ reads 0x2610 0 ∧
  (die < 64 → isDie die = true → reads (0x2800 + 8 * die) (s.die die).rampt.toNat ∧ reads (0x2A00 + 8 * die) (s.die die).slrto) ∧
  (∀ a, a % 8 ≠ 0 ∨ 0x2C00 ≤ a → no (.mgmtrd port a) ∧ no (.mgmtwr port a v)) ∧
  (v.toNat < 2 ^ 32 → ok (.mgmtwr port 0x200 v) fun t => t.power.thot = v.toNat / 65536 ∧ t.power.tcrit = v.toNat % 65536) ∧
  (die < 64 → isDie die = true → v.toNat < 2 ^ 32 → ok (.mgmtwr port (0x2A00 + 8 * die) v) fun t => (t.die die).slrto = v.toNat) ∧
  (∀ i ∈ ([.pbudget port v, .mgmtwr port 0 v] : List Instr),
    (4648 ≤ v.toNat → v.toNat < 65536 → ok i fun t => t.power.pbudget = v.toNat) ∧ (v.toNat < 4648 → no i)) ∧
  (isDie die = true →
    ((∀ j < 16, v.toNat / 16 ^ j % 16 ≠ 0) → ok (.rampt port die v) fun t => (t.die die).rampt = v ∧ (∀ d, d ≠ die → t.die d = s.die d) ∧
        ∀ high, s.clk < ((s.die die).limiter high).opened + 4 → ((t.die die).limiter high).rampt = ((s.die die).limiter high).rampt) ∧
    ((∃ j < 16, v.toNat / 16 ^ j % 16 = 0) → no (.rampt port die v))) ∧
  (stack < 32 → ok (.elogSelect port stack v) fun t => t.power.elogLast = stack ∧ alGet stack t.power.elogSel = some (v.toNat % 4096)) ∧
  (v.toNat < 65536 → ok (.energySelect port v) fun t => t.power.energySel = v.toNat) ∧
  (v.toNat < 2 ^ 14 →
    (v.toNat ∈ s.power.clearable → ok (.sensclr port v) fun t => v.toNat ∉ t.power.failed) ∧
    (v.toNat ∉ s.power.clearable → ok (.sensclr port v) fun t => t.power = s.power))

/-- 24 R379, 25 R398, R405, R406: a record lands in a free slot of its trap queue and the write index moves on, or is lost and counted; a
port that loses its link is reported on the other one. A boot begins with no context and no queue; its stages follow step by step: a
bad signature halts, the cores the register test fails are out of service, memory and then the SRAM are zeroed; READY ends it, and
until then the part takes no packet (log 147). -/
def Sys2Proof.Claims.RecordsAndBoot : Prop := ∀ (s : State) (ctx port : Nat),
  (∀ c r g rest s1, s.ctx? ctx = some c → c.records = (r, g) :: rest →
    (s.slotState ctx (c.tq.toNat + 64 * c.tqw) = (some true, s1) → c.tqsig = 0#64 → Answers s (.trapRecordLand ctx) fun t =>
      ∃ k, t.ctx? ctx = some k ∧ k.tqw = (c.tqw + 1) % (c.tqn - 1) ∧ k.tqlost = 0 ∧ ∃ more, k.records = rest ++ more) ∧
    (s.slotState ctx (c.tq.toNat + 64 * c.tqw) = (some false, s1) → Answers s (.trapRecordLand ctx) fun t =>
      ∃ k, t.ctx? ctx = some k ∧ k.tqw = c.tqw ∧ k.tqlost = min 0xFFFF (c.tqlost + 1) ∧ SameMemory s1 t)) ∧
  (s.portUp port = true → s.host.chosen < 2 → Answers s (.portLosesLink port) fun t => t.portUp port = false ∧
    (∀ x ∈ t.host.waiting, x.1 ≠ port) ∧
    t.host.out = s.host.out ++ if s.portUp (1 - port) = true then [.event "LINK_DOWN" 0 "OK" [port] (1 - port)] else []) ∧
  (∀ i ok retired, i = .powerOn ok retired ∨ i = .resetPin → Answers s i fun t => t.ctxs = [] ∧ t.halted = false ∧ t.host.packets = [] ∧
    t.head.sweeps = [] ∧ t.head.streams = [] ∧ (∀ u ∈ t.units, u.2.unit.running = false) ∧ Told s t [] ∧
    ∃ b, t.host.boot = some b ∧ b.stage = 1 ∧ (i = .powerOn ok retired → b.signatureOk = ok ∧ ∀ r, isCoreRank r = true → (r ∈ b.retired ↔ r ∈ retired))) ∧
  (∀ b, s.host.boot = some b → (∀ q pkt, s.portUp port = true → exec (.qwrite port q pkt) s = .next s) ∧
    (s.halted = false → s.agenda = [] →
      (b.stage = 1 → b.signatureOk = false → ∃ t, step s = .next t ∧ t.halted = true) ∧
      (1 ≤ b.stage → b.stage ≤ 5 → (b.stage = 1 → b.signatureOk = true) → ∃ t, step s = .next t ∧ Told s t [] ∧
        t.host.boot = some { b with stage := b.stage + 1 } ∧
        (b.stage = 2 → ∀ r, (t.unitAt r).outOfService = decide (r ∈ b.retired)) ∧
        (b.stage = 3 → ∀ k < 2 ^ 56, Memory.read t.mem k = Memory.read [] k) ∧
        (b.stage = 4 → t.fab.failed = [] ∧ t.fab.linksDown = []) ∧
        (b.stage = 5 → t.host.keySlots = [(0, 0)] ∧ ∀ k, 2 ^ 56 ≤ k → k < 2 ^ 56 + 2 ^ 59 → Memory.read t.mem k = Memory.read [] k)) ∧
      (6 ≤ b.stage → ∃ t n, step s = .next t ∧ t.host.boot = none ∧ Told s t [.event "READY" 0 "OK" [b.retired.length, n]])))

end

section
open Sys2Proof Sys2Proof.Machine Sys2Proof.Claims

/-- 01 R9–R20, Tables 5 and 6: words of every encoding form, written out from the encoding tables, decode to the instruction they
stand for. -/
def Obligations.DecodeWords : Prop :=
  decode 0xD801461C#32 = .ok (.curadvG 5#6 6#6 7#6) ∧
  decode 0xD8124628#32 = .ok (.fracc 9#6 6#6 10#6) ∧
  decode 0xD880C420#32 = .ok (.slsend 3#6 4#6 8#6) ∧
  decode 0x0870C408#32 = .ok (.divw 7#6 3#6 4#6) ∧
  decode 0x9505C000#32 = .ok (.pushm 16#6 23#6) ∧
  decode 0x9A600006#32 = .ok (.fence 2#2 3#3 6#16) ∧
  decode 0xC011461C#32 = .ok (.ctrsig 5#6 6#6 7#6) ∧
  decode 0xDC103FC0#32 = .ok .trapRestartStep ∧
  decode 0xDC103FC4#32 = .ok .trapRollBack ∧
  decode 0xDC103FC8#32 = .ok .trapKillContext ∧
  decode 0xDC000000#32 = .ok .nop ∧
  decode 0x60940005#32 = .ok (.hwLoop 9#6 1#2 5#14) ∧
  decode 0xB8A50C91#32 = .ok (.casD 2#2 10#6 20#6 12#6 1#4) ∧
  decode 0xC0708900#32 = .ok (.tlwait 2#6 9#6 0#6 0#2) ∧
  decode 0xC0B24310#32 = .ok (.spawn 9#6 3#6 2#5 0#2) ∧
  decode 0xC4100A31#32 = .ok (.resume 10#6 6#5 1#1) ∧
  decode 0x0C91BFFF#32 = .ok (.addi 9#6 6#6 0x3FFF#14) ∧
  decode 0x28912345#32 = .ok (.lui 9#6 0x12345#20) ∧
  decode 0x44313FFE#32 = .ok (.bne 3#6 4#6 0x3FFE#14) ∧
  decode 0x581FFFFD#32 = .ok (.jal 1#6 0xFFFFD#20) ∧
  decode 0x74518C83#32 = .ok (.ldd 5#6 6#6 3#4 0#2 2#2 3#6) ∧
  decode 0x9CA19302#32 = .ok (.tdst 5#5 6#6 3#4 2#8) ∧
  decode 0xD0019070#32 = .ok (.vadd 3#5 4#5 7#6 0#2) ∧
  decode 0xC8018088#32 = .ok (.cpin 3#5 8#6 1#1) ∧
  decode 0xCC06428D#32 = .ok (.mma 3#5 4#5 5#5 6#6 1#1) ∧
  decode 0xFD2CFC05#32 = .ok (.dictionaryPair 300#10 5#10)

/-- 01 R9–R17: decoding the word of a well-formed instruction gives the instruction back, with every operand at every value its
encoding admits. -/
def Obligations.DecodeEncode : Prop := ∀ (i : Instr) (w : W32), i.wellFormed = true → encode i = some w → decode w = .ok i

/-- 01 R17: a word that decodes is the encoding of the well-formed instruction it decodes to, so no two instructions share a word. -/
def Obligations.EncodeDecode : Prop := ∀ (i : Instr) (w : W32), decode w = .ok i → encode i = some w ∧ i.wellFormed = true

/-- 01 R10, R17–R20: a step of the unit in focus, or of the unit the agenda names, where no earlier load or atomic is still out, runs
the word that decodes at its pc, or the half a pair has selected; a word that decodes to nothing raises ILLEGAL_INSTR; a word
that has not arrived waits; a step the agenda gives an event runs that event. Every context settles after the step. (The agenda
is the model's own choice, log 1; that a pair word and its half are two steps, log 16; ILLEGAL_INSTR at a pc with bit 1 on a
word that is no pair, log 36; that a step whose access is held is taken back, log 132.) -/
def Obligations.StepRunsDecoded : Prop := ∀ (s : State), s.halted = false → s.host.boot = none →
  let e := s.elapse
  (∀ i r, s.agenda = .event i :: r → step s = settled { e with agenda := r } (exec i { e with agenda := r })) ∧
  (∀ u, (s.agenda = [] ∧ s.core.idle = false ∧ s.turns < 256 ∧ u = { e with turns := s.turns + 1 }) ∨ (∃ k r, s.agenda = .unit k :: r ∧ u = State.focus { e with agenda := r } k) →
    u.core.unit.running = true → u.stopping u.ctx = false ∨ u.core.inWord = true → u.core.unit.fence = none → u.core.faultDue = false → u.core.loads = [] →
    (∀ w, u.core.sel = some w →
      (∀ i, decode w.word = .ok i → step s = settled u.blocked (exec i (u.begin w))) ∧
      ((∀ i, decode w.word ≠ .ok i) → step s = settled u.blocked ((u.begin w).illegal))) ∧
    (∀ w s1, u.core.sel = none → u.fetchWord u.core.wordAddr = .ok w s1 → s1.core.loads = [] →
      (∀ i, s1.core.pairMissing w = false → decode w = .ok i → step s = settled u.blocked (exec i (s1.begin { word := w }))) ∧
      (s1.core.pairMissing w = true ∨ (∀ i, decode w ≠ .ok i) → step s = settled u.blocked ((s1.begin { word := w }).illegal))) ∧
    (∀ s1, u.core.sel = none → u.fetchWord u.core.wordAddr = .wait s1 → step s = settled u.blocked (.next s1.stalled)) ∧
    (∀ c t s1, u.core.sel = none → u.fetchWord u.core.wordAddr = .fault c t s1 → step s = settled u.blocked (s1.raise c t)))

/-- 01 R17, 24 R371, R373, 25 R406: every instruction and every event answers a next state from every state, and a step stops only
where the part's firmware signature has failed and neither power-on nor the reset pin is next (that such a part stands still is
DEDUCED, log 100). -/
def Obligations.StepsGoOn : Prop :=
  (∀ (i : Instr) (s : State), ∃ t, exec i s = .next t) ∧
  (∀ s : State, s.halted = false ∨ (∃ b l r, s.agenda = .event (.powerOn b l) :: r) ∨ (∃ r, s.agenda = .event .resetPin :: r) → ∃ t, step s = .next t) ∧
  (∀ s : State, s.halted = true → s.agenda = [] → step s = .fault .halted)

/-- Every step keeps the memory's canonical form: addresses rise strictly, and no entry says what an unlisted cell reads as. (The
form, and what an unlisted cell of each memory reads as, is the model's own choice, log 7; R234 and R406 give the zeros.) -/
def Obligations.MemoryForm : Prop := ∀ (s t : State), Memory.wf s.mem = true → step s = .next t → Memory.wf t.mem = true

/-- 12 R231, 15 R269, 16 R275, R281, R282, 22 R357, 25 R405, R406: what reset leaves. No context is set up and no work runs; SHARED, LOCAL
and weight-buffer bytes read as zero; SPLIT is 16, PBUDGET 10 800 shares, THOT 95 °C, TCRIT 105 °C, and RAMPT the table of R269
on every die; READY has been sent, on port 0 and with no core retired and no lane swapped (the model's choices, logs 146 and 14);
the memory has its canonical form. -/
def Obligations.ResetState : Prop :=
  State.reset.ctxs = [] ∧ State.reset.head.sweeps = [] ∧ State.reset.head.streams = [] ∧ (∀ u ∈ State.reset.units, u.2.unit.running = false) ∧
  (∀ k, 2 ^ 56 ≤ k → Memory.read State.reset.mem k = some 0#8) ∧ (∀ d, (State.reset.die d).split = 16) ∧
  (∀ d, (State.reset.die d).rampt = 0x8888888444222111#64) ∧ State.reset.power.pbudget = 10800 ∧ State.reset.power.thot = 95 * 8 ∧
  State.reset.power.tcrit = 105 * 8 ∧ State.reset.host.out = [.event "READY" 0 "OK" [0, 0]] ∧ State.reset.halted = false ∧
  Memory.wf State.reset.mem = true

end

section
open Sys2Proof Sys2Proof.Machine Sys2Proof.Claims

/-- 24 R373, R375: a precise fault at trap level 2 is not entered. With an open interval the context is rolled back; with none it is
killed with TRAP_LEVEL, and the unit runs no longer. While another of its units is inside a word, the rollback or kill is due and
waits for the boundary (DEDUCED, log 149). -/
def Obligations.TrapAtLevelTwo : Prop := ∀ (s s1 : State) (cause : Nat) (tval ret : Word) (status : BitVec 32),
  s.core.ctl.tlevel = 2#2 → ¬DataFaultHere s cause →
  let t := s.raiseWith cause tval status ret
  let s0 : State := { s with core := { s.core with stall := .none } }
  (s.intervalOpen s.ctx = false →
    s0.putFatal s.ctx (some s.cur) 0x070 1 { packed := packedCause (tcauseOf cause true 0 false status), pos := s.core.pc, tval := tval } = (true, s1) →
    ∀ k, s1.ctx? s.ctx = some k → k.killed = false → (s.ctx? s.ctx).isSome = true →
    (s1.atBoundary s.ctx = true → k.drop = none → s.core.unit.running = true →
      ToldKilled t s.ctx 0x070 ∧ (t.unitAt s.cur).unit.running = false) ∧
    (s1.atBoundary s.ctx = false → k.killDue = false → (∃ c, t.ctx? s.ctx = some c ∧ c.stopDue = some { roll := false, cause := 0x070 }))) ∧
  (∀ k, s.intervalOpen s.ctx = true → s.ctx? s.ctx = some k → k.stopDue = none →
    (s0.atBoundary s.ctx = true → s0.fatalFull s.ctx = (false, s1) → (s1.ctx? s.ctx).isSome = true → IntervalClosed t s.ctx) ∧
    (s0.atBoundary s.ctx = false →
      ∃ c, t.ctx? s.ctx = some c ∧ c.stopDue = some { roll := true, cause := 0x070, rank := some s.cur, packed := 0x070, pos := s.core.pc, tval := tval }))

end

section
open Sys2Proof Sys2Proof.Machine Sys2Proof.Claims

/-- 02 R53, R56, R407, 05 R95, R96: a load, POPM or atomic may issue and perform later: the unit goes on behind it with every register
as it was. While an earlier one of its class, of its bytes or with acquire is out it does not perform. One that performs gives the
registers that no later word has written what its word reads there. A word that reads its destination, or that may not be
tentative, waits. (When an access performs is the agenda's choice, log 1; which words wait, and that an atomic performs after
every earlier access, are inferences, logs 3 and 131.) -/
def Sys2Proof.Claims.LateLoads : Prop := ∀ (s : State) (rank : Nat),
  (∀ r, s.halted = false → s.host.boot = none → s.agenda = .late rank :: r →
    let u := State.focus { s.elapse with agenda := r } rank
    ∀ w s1, u.core.unit.running = true → u.stopping u.ctx = false → u.core.unit.fence = none → u.core.faultDue = false → u.core.sel = none →
    u.fetchWord u.core.wordAddr = .ok w s1 → s1.core.pairMissing w = false →
    let s2 := s1.begin { word := w }
    (∀ i a p x more s3, u.core.loads = [] → s1.core.loads = [] → s1.core.inWord = false → decode w = .ok i → s2.access i = some a →
      a.ptr = some p → s2.locateParts a p = .ok (x :: more) s3 →
      (a.atomic = true → ∀ y ∈ x :: more, s3.ownWatch y.1 y.2.2 y.2.1 = none) → s3.core.loads = [] →
      ∃ t, step s = settled u.blocked (.next t) ∧ t.core.regs = s3.core.regs ∧ t.core.ssp = s3.core.ssp ∧ SameMemory s3 t ∧
        (NoLoopEnd s3 → t.core.pc = s3.core.nextPos) ∧
        ∃ l, t.core.loads = [l] ∧ l.parts = (x :: more).map (fun y => (y.2.2, y.2.1)) ∧ l.pc = s3.core.pc ∧ l.regs = s3.core.regs) ∧
    (s1.core.loads ≠ [] → s1.core.clearOf w = false ∨ fld w 26 6 ∈ ([0x18#6, 0x25#6, 0x30#6, 0x31#6, 0x36#6, 0x37#6] : List (BitVec 6)) →
      u.core.loads ≠ [] → step s = settled u.blocked (.next s1.stalled))) ∧
  (∀ k l, let u := s.unitAt rank
    u.loads[k]? = some l →
    (l.pend = none → (∃ x ∈ u.loads, x.seq < l.seq ∧ (x.cls = l.cls ∨ x.acq = true ∨ l.atomic = true ∨ x.meets l = true)) →
      exec (.scalarAccessPerform rank (u.stores.length + k)) s = .next s) ∧
    (∀ i a v, l.pend = none → (∀ x ∈ u.loads, x = l) → decode l.ir.word = .ok i →
      let s0 := (s.focus rank).modCore fun u => u.backTo l
      s0.access i = some a → a.run s0 = .next v → v.cur = rank → v.core.ctl.tlevel = u.ctl.tlevel → v.core.unit = u.unit → v.core.seq = l.seq + 1 →
      Answers s (.scalarAccessPerform rank (u.stores.length + k)) fun t => t.cur = s.cur ∧ SameMemory v t ∧ (t.unitAt rank).loads = [] ∧
        (t.unitAt rank).ssp = (if l.pops = true then v.core.ssp else u.ssp) ∧
        ∀ r : Fin 64, (t.unitAt rank).regs[r] = if BitVec.ofNat 6 r.val ∈ l.destsAt u.seq then v.core.regs[r] else u.regs[r]))

end


section
open Sys2Proof.Claims

/-- 02 R38, R39: the immediate words and the constant words. -/
def Obligations.ImmediateAndConstantResults : Prop := ImmediateResults ∧ ConstantResults

/-- 02 R41: the divide words, and their trap on a divisor of 0. -/
def Obligations.Division : Prop := DivideResults ∧ DivideByZeroTraps

/-- 02 R43, R44: the pointer words, and the addition they rest on. -/
def Obligations.PointerArithmetic : Prop := PointerWords ∧ PointerAddition

/-- 02 R45, R46, R48: branches and jumps. -/
def Obligations.TransferWords : Prop := BranchWords ∧ JumpWords

/-- 02 R47: LOOP, and the end of a loop's body. -/
def Obligations.HardwareLoops : Prop := LoopWord ∧ LoopStep

/-- 02 R50–R53: the load words; where the pointer names own LOCAL memory they complete with its bytes; and those that perform later. -/
def Obligations.Loads : Prop := LoadWords ∧ LocalLoads ∧ LateLoads

/-- 02 R54, R55: the store words, and the performing of their entries. -/
def Obligations.Stores : Prop := StoreWords ∧ StorePerforms

/-- 02 R58–R62: the atomic words; on own LOCAL memory they complete with the old value read and the new one written. -/
def Obligations.Atomics : Prop := AtomicWords ∧ LocalAtomics ∧ LocalCas2

/-- 02 R56, R57: PUSHM and POPM. -/
def Obligations.PushAndPopMultiple : Prop := PushMultiple ∧ PopMultiple

/-- 22 R352, Table 114: reads of control registers, and writes of read-only ones. -/
def Obligations.ControlReads : Prop := ReadControl ∧ ReadOnlyControl

/-- 01 R19, R20, 22 R353, R354: DICTLD and IFENCE, and dictionary pairs. -/
def Obligations.DictionaryAndPairs : Prop := DictionaryAndFetch ∧ DictionaryPair

/-- 22 R352, 24 R374, R377: TRAP, BREAK, NOP and TRET. -/
def Obligations.TrapWords : Prop := TrapBreakNop ∧ TrapReturn

/-- 10 R195–R200: counters, and waits on SYNC variables. -/
def Obligations.CounterAndVariableWaits : Prop := CounterWords ∧ VariableWaits

/-- 10 R197–R199: barriers. -/
def Obligations.Barriers : Prop := BarrierWords ∧ ArriveAndWait

/-- 10 R201, R202: timelines of engines and of sluice channels. -/
def Obligations.Timelines : Prop := TimelineWords ∧ ChannelTimelineWords

/-- 10 R212–R217: words on continuation objects, and SUSPEND. -/
def Obligations.ContinuationWords : Prop := ObjectWords ∧ SuspendWord

/-- 09 R170–R175: the vector words issue. -/
def Obligations.VectorIssues : Prop := ElementwiseIssue ∧ VectorIssue

/-- 07 R136–R143: the copy words issue, with and without an attached matrix word. -/
def Obligations.CopyIssues : Prop := CopyIssue ∧ AttachedIssue

/-- 17 R288–R298: the STRM words on a stream. -/
def Obligations.StreamWords : Prop := StreamCursorWords ∧ StreamPageWords

/-- 12 R231, 22 R358–R360: effects of control registers outside the front end. -/
def Obligations.RegisterEffects : Prop := SplitEvents ∧ RegisterEvents

/-- 04 R80–R86, 12 R229, R235–R239: the walker, and the stacks. -/
def Obligations.WalkerAndStackEvents : Prop := WalkerEvents ∧ StackEvents

/-- 07 R137–R143, R147, 05 R109, 08 R159–R163, 09 R173: beats of a copy, and the completion of engine commands. -/
def Obligations.CopyBeatsAndCompletion : Prop := CopyBeat ∧ EngineComplete

/-- 07 R132, R137, R139, 06 R125, 08 R159, R160, R164, R165: the bytes that a copy moves, and the tile that a matrix word leaves. -/
def Obligations.CopyAndMatrixResults : Prop := TileImage ∧ CopyMoves ∧ MatrixResults

/-- 07 R149–R151, 24 R376: the start of engine commands, and the trap of their faults. -/
def Obligations.EngineStartAndTrap : Prop := EngineStart ∧ EngineTrap

/-- 10 R204, 14 R252–R263: the queues, and the start of work on a core. -/
def Obligations.SchedulerEvents : Prop := QueueEvents ∧ WorkStarts

/-- 14 R250, R251, 17 R286–R295, 19 R308–R312: admission from the work queues. -/
def Obligations.QueueAdmission : Prop := QueuePackets ∧ BatchAndSnapshot

/-- 08 R164–R166, 07 R144, R146, 15 R270: paired matrix words, pushes and promotions, and the ramp limiter. -/
def Obligations.PairsPushesAndRamp : Prop := PairEvents ∧ PushAndRamp

/-- 24 R379, R383–R388, 25 R398, R406: packets that kill, save and restore a context; trap records; boot. -/
def Obligations.ContainmentAndBoot : Prop := ContainmentPackets ∧ RecordsAndBoot

end
end

