-- ==== Sys2Proof/Laws/State.lean ====
section
/-!
SUPPORT. What each update of a state leaves in each field, one lemma per field per update.
-/
namespace Sys2Proof.Machine

@[simp] theorem State.setReg_cur (s : State) (d : RegNo) (v : Word) : (s.setReg d v).cur = s.cur := rfl
@[simp] theorem State.setReg_others (s : State) (d : RegNo) (v : Word) : (s.setReg d v).others = s.others := rfl
@[simp] theorem State.setReg_agenda (s : State) (d : RegNo) (v : Word) : (s.setReg d v).agenda = s.agenda := rfl
@[simp] theorem State.setReg_turns (s : State) (d : RegNo) (v : Word) : (s.setReg d v).turns = s.turns := rfl
@[simp] theorem State.setReg_tick (s : State) (d : RegNo) (v : Word) : (s.setReg d v).tick = s.tick := rfl
@[simp] theorem State.setReg_clk (s : State) (d : RegNo) (v : Word) : (s.setReg d v).clk = s.clk := rfl
@[simp] theorem State.setReg_time (s : State) (d : RegNo) (v : Word) : (s.setReg d v).time = s.time := rfl
@[simp] theorem State.setReg_mem (s : State) (d : RegNo) (v : Word) : (s.setReg d v).mem = s.mem := rfl
@[simp] theorem State.setReg_tags (s : State) (d : RegNo) (v : Word) : (s.setReg d v).tags = s.tags := rfl
@[simp] theorem State.setReg_ctxs (s : State) (d : RegNo) (v : Word) : (s.setReg d v).ctxs = s.ctxs := rfl
@[simp] theorem State.setReg_dies (s : State) (d : RegNo) (v : Word) : (s.setReg d v).dies = s.dies := rfl
@[simp] theorem State.setReg_hbm (s : State) (d : RegNo) (v : Word) : (s.setReg d v).hbm = s.hbm := rfl
@[simp] theorem State.setReg_head (s : State) (d : RegNo) (v : Word) : (s.setReg d v).head = s.head := rfl
@[simp] theorem State.setReg_fab (s : State) (d : RegNo) (v : Word) : (s.setReg d v).fab = s.fab := rfl
@[simp] theorem State.setReg_power (s : State) (d : RegNo) (v : Word) : (s.setReg d v).power = s.power := rfl
@[simp] theorem State.setReg_host (s : State) (d : RegNo) (v : Word) : (s.setReg d v).host = s.host := rfl
@[simp] theorem State.setReg_spawns (s : State) (d : RegNo) (v : Word) : (s.setReg d v).spawns = s.spawns := rfl
@[simp] theorem State.setReg_pushes (s : State) (d : RegNo) (v : Word) : (s.setReg d v).pushes = s.pushes := rfl
@[simp] theorem State.setReg_parked (s : State) (d : RegNo) (v : Word) : (s.setReg d v).parked = s.parked := rfl
@[simp] theorem State.setReg_images (s : State) (d : RegNo) (v : Word) : (s.setReg d v).images = s.images := rfl
@[simp] theorem State.setReg_starts (s : State) (d : RegNo) (v : Word) : (s.setReg d v).starts = s.starts := rfl
@[simp] theorem State.setReg_stepUndo (s : State) (d : RegNo) (v : Word) : (s.setReg d v).stepUndo = s.stepUndo := rfl
@[simp] theorem State.setReg_halted (s : State) (d : RegNo) (v : Word) : (s.setReg d v).halted = s.halted := rfl
@[simp] theorem State.setReg_held (s : State) (d : RegNo) (v : Word) : (s.setReg d v).held = s.held := rfl

@[simp] theorem State.setReg_core (s : State) (d : RegNo) (v : Word) : (s.setReg d v).core = s.core.setReg d v := rfl

@[simp] theorem State.modCore_cur (s : State) (f : Core → Core) : (s.modCore f).cur = s.cur := rfl
@[simp] theorem State.modCore_others (s : State) (f : Core → Core) : (s.modCore f).others = s.others := rfl
@[simp] theorem State.modCore_agenda (s : State) (f : Core → Core) : (s.modCore f).agenda = s.agenda := rfl
@[simp] theorem State.modCore_turns (s : State) (f : Core → Core) : (s.modCore f).turns = s.turns := rfl
@[simp] theorem State.modCore_tick (s : State) (f : Core → Core) : (s.modCore f).tick = s.tick := rfl
@[simp] theorem State.modCore_clk (s : State) (f : Core → Core) : (s.modCore f).clk = s.clk := rfl
@[simp] theorem State.modCore_time (s : State) (f : Core → Core) : (s.modCore f).time = s.time := rfl
@[simp] theorem State.modCore_mem (s : State) (f : Core → Core) : (s.modCore f).mem = s.mem := rfl
@[simp] theorem State.modCore_tags (s : State) (f : Core → Core) : (s.modCore f).tags = s.tags := rfl
@[simp] theorem State.modCore_ctxs (s : State) (f : Core → Core) : (s.modCore f).ctxs = s.ctxs := rfl
@[simp] theorem State.modCore_dies (s : State) (f : Core → Core) : (s.modCore f).dies = s.dies := rfl
@[simp] theorem State.modCore_hbm (s : State) (f : Core → Core) : (s.modCore f).hbm = s.hbm := rfl
@[simp] theorem State.modCore_head (s : State) (f : Core → Core) : (s.modCore f).head = s.head := rfl
@[simp] theorem State.modCore_fab (s : State) (f : Core → Core) : (s.modCore f).fab = s.fab := rfl
@[simp] theorem State.modCore_power (s : State) (f : Core → Core) : (s.modCore f).power = s.power := rfl
@[simp] theorem State.modCore_host (s : State) (f : Core → Core) : (s.modCore f).host = s.host := rfl
@[simp] theorem State.modCore_spawns (s : State) (f : Core → Core) : (s.modCore f).spawns = s.spawns := rfl
@[simp] theorem State.modCore_pushes (s : State) (f : Core → Core) : (s.modCore f).pushes = s.pushes := rfl
@[simp] theorem State.modCore_parked (s : State) (f : Core → Core) : (s.modCore f).parked = s.parked := rfl
@[simp] theorem State.modCore_images (s : State) (f : Core → Core) : (s.modCore f).images = s.images := rfl
@[simp] theorem State.modCore_starts (s : State) (f : Core → Core) : (s.modCore f).starts = s.starts := rfl
@[simp] theorem State.modCore_stepUndo (s : State) (f : Core → Core) : (s.modCore f).stepUndo = s.stepUndo := rfl
@[simp] theorem State.modCore_halted (s : State) (f : Core → Core) : (s.modCore f).halted = s.halted := rfl
@[simp] theorem State.modCore_held (s : State) (f : Core → Core) : (s.modCore f).held = s.held := rfl

@[simp] theorem State.modCore_core (s : State) (f : Core → Core) : (s.modCore f).core = f s.core := rfl

@[simp] theorem State.modCtl_cur (s : State) (f : Ctl → Ctl) : (s.modCtl f).cur = s.cur := rfl
@[simp] theorem State.modCtl_others (s : State) (f : Ctl → Ctl) : (s.modCtl f).others = s.others := rfl
@[simp] theorem State.modCtl_agenda (s : State) (f : Ctl → Ctl) : (s.modCtl f).agenda = s.agenda := rfl
@[simp] theorem State.modCtl_turns (s : State) (f : Ctl → Ctl) : (s.modCtl f).turns = s.turns := rfl
@[simp] theorem State.modCtl_tick (s : State) (f : Ctl → Ctl) : (s.modCtl f).tick = s.tick := rfl
@[simp] theorem State.modCtl_clk (s : State) (f : Ctl → Ctl) : (s.modCtl f).clk = s.clk := rfl
@[simp] theorem State.modCtl_time (s : State) (f : Ctl → Ctl) : (s.modCtl f).time = s.time := rfl
@[simp] theorem State.modCtl_mem (s : State) (f : Ctl → Ctl) : (s.modCtl f).mem = s.mem := rfl
@[simp] theorem State.modCtl_tags (s : State) (f : Ctl → Ctl) : (s.modCtl f).tags = s.tags := rfl
@[simp] theorem State.modCtl_ctxs (s : State) (f : Ctl → Ctl) : (s.modCtl f).ctxs = s.ctxs := rfl
@[simp] theorem State.modCtl_dies (s : State) (f : Ctl → Ctl) : (s.modCtl f).dies = s.dies := rfl
@[simp] theorem State.modCtl_hbm (s : State) (f : Ctl → Ctl) : (s.modCtl f).hbm = s.hbm := rfl
@[simp] theorem State.modCtl_head (s : State) (f : Ctl → Ctl) : (s.modCtl f).head = s.head := rfl
@[simp] theorem State.modCtl_fab (s : State) (f : Ctl → Ctl) : (s.modCtl f).fab = s.fab := rfl
@[simp] theorem State.modCtl_power (s : State) (f : Ctl → Ctl) : (s.modCtl f).power = s.power := rfl
@[simp] theorem State.modCtl_host (s : State) (f : Ctl → Ctl) : (s.modCtl f).host = s.host := rfl
@[simp] theorem State.modCtl_spawns (s : State) (f : Ctl → Ctl) : (s.modCtl f).spawns = s.spawns := rfl
@[simp] theorem State.modCtl_pushes (s : State) (f : Ctl → Ctl) : (s.modCtl f).pushes = s.pushes := rfl
@[simp] theorem State.modCtl_parked (s : State) (f : Ctl → Ctl) : (s.modCtl f).parked = s.parked := rfl
@[simp] theorem State.modCtl_images (s : State) (f : Ctl → Ctl) : (s.modCtl f).images = s.images := rfl
@[simp] theorem State.modCtl_starts (s : State) (f : Ctl → Ctl) : (s.modCtl f).starts = s.starts := rfl
@[simp] theorem State.modCtl_stepUndo (s : State) (f : Ctl → Ctl) : (s.modCtl f).stepUndo = s.stepUndo := rfl
@[simp] theorem State.modCtl_halted (s : State) (f : Ctl → Ctl) : (s.modCtl f).halted = s.halted := rfl
@[simp] theorem State.modCtl_held (s : State) (f : Ctl → Ctl) : (s.modCtl f).held = s.held := rfl

@[simp] theorem State.modCtl_core (s : State) (f : Ctl → Ctl) : (s.modCtl f).core = { s.core with ctl := f s.core.ctl } := rfl

@[simp] theorem State.done_cur (s : State) : (s.done).cur = s.cur := rfl
@[simp] theorem State.done_others (s : State) : (s.done).others = s.others := rfl
@[simp] theorem State.done_agenda (s : State) : (s.done).agenda = s.agenda := rfl
@[simp] theorem State.done_turns (s : State) : (s.done).turns = s.turns := rfl
@[simp] theorem State.done_tick (s : State) : (s.done).tick = s.tick := rfl
@[simp] theorem State.done_clk (s : State) : (s.done).clk = s.clk := rfl
@[simp] theorem State.done_time (s : State) : (s.done).time = s.time := rfl
@[simp] theorem State.done_mem (s : State) : (s.done).mem = s.mem := rfl
@[simp] theorem State.done_tags (s : State) : (s.done).tags = s.tags := rfl
@[simp] theorem State.done_ctxs (s : State) : (s.done).ctxs = s.ctxs := rfl
@[simp] theorem State.done_dies (s : State) : (s.done).dies = s.dies := rfl
@[simp] theorem State.done_hbm (s : State) : (s.done).hbm = s.hbm := rfl
@[simp] theorem State.done_head (s : State) : (s.done).head = s.head := rfl
@[simp] theorem State.done_fab (s : State) : (s.done).fab = s.fab := rfl
@[simp] theorem State.done_power (s : State) : (s.done).power = s.power := rfl
@[simp] theorem State.done_host (s : State) : (s.done).host = s.host := rfl
@[simp] theorem State.done_spawns (s : State) : (s.done).spawns = s.spawns := rfl
@[simp] theorem State.done_pushes (s : State) : (s.done).pushes = s.pushes := rfl
@[simp] theorem State.done_parked (s : State) : (s.done).parked = s.parked := rfl
@[simp] theorem State.done_images (s : State) : (s.done).images = s.images := rfl
@[simp] theorem State.done_starts (s : State) : (s.done).starts = s.starts := rfl
@[simp] theorem State.done_stepUndo (s : State) : (s.done).stepUndo = s.stepUndo := rfl
@[simp] theorem State.done_halted (s : State) : (s.done).halted = s.halted := rfl
@[simp] theorem State.done_held (s : State) : (s.done).held = s.held := rfl

@[simp] theorem State.done_core (s : State) : s.done.core = s.core.done := rfl

@[simp] theorem State.transfer_cur (s : State) (t : Word) (call : Bool) : (s.transfer t call).cur = s.cur := rfl
@[simp] theorem State.transfer_others (s : State) (t : Word) (call : Bool) : (s.transfer t call).others = s.others := rfl
@[simp] theorem State.transfer_agenda (s : State) (t : Word) (call : Bool) : (s.transfer t call).agenda = s.agenda := rfl
@[simp] theorem State.transfer_turns (s : State) (t : Word) (call : Bool) : (s.transfer t call).turns = s.turns := rfl
@[simp] theorem State.transfer_tick (s : State) (t : Word) (call : Bool) : (s.transfer t call).tick = s.tick := rfl
@[simp] theorem State.transfer_clk (s : State) (t : Word) (call : Bool) : (s.transfer t call).clk = s.clk := rfl
@[simp] theorem State.transfer_time (s : State) (t : Word) (call : Bool) : (s.transfer t call).time = s.time := rfl
@[simp] theorem State.transfer_mem (s : State) (t : Word) (call : Bool) : (s.transfer t call).mem = s.mem := rfl
@[simp] theorem State.transfer_tags (s : State) (t : Word) (call : Bool) : (s.transfer t call).tags = s.tags := rfl
@[simp] theorem State.transfer_ctxs (s : State) (t : Word) (call : Bool) : (s.transfer t call).ctxs = s.ctxs := rfl
@[simp] theorem State.transfer_dies (s : State) (t : Word) (call : Bool) : (s.transfer t call).dies = s.dies := rfl
@[simp] theorem State.transfer_hbm (s : State) (t : Word) (call : Bool) : (s.transfer t call).hbm = s.hbm := rfl
@[simp] theorem State.transfer_head (s : State) (t : Word) (call : Bool) : (s.transfer t call).head = s.head := rfl
@[simp] theorem State.transfer_fab (s : State) (t : Word) (call : Bool) : (s.transfer t call).fab = s.fab := rfl
@[simp] theorem State.transfer_power (s : State) (t : Word) (call : Bool) : (s.transfer t call).power = s.power := rfl
@[simp] theorem State.transfer_host (s : State) (t : Word) (call : Bool) : (s.transfer t call).host = s.host := rfl
@[simp] theorem State.transfer_spawns (s : State) (t : Word) (call : Bool) : (s.transfer t call).spawns = s.spawns := rfl
@[simp] theorem State.transfer_pushes (s : State) (t : Word) (call : Bool) : (s.transfer t call).pushes = s.pushes := rfl
@[simp] theorem State.transfer_parked (s : State) (t : Word) (call : Bool) : (s.transfer t call).parked = s.parked := rfl
@[simp] theorem State.transfer_images (s : State) (t : Word) (call : Bool) : (s.transfer t call).images = s.images := rfl
@[simp] theorem State.transfer_starts (s : State) (t : Word) (call : Bool) : (s.transfer t call).starts = s.starts := rfl
@[simp] theorem State.transfer_stepUndo (s : State) (t : Word) (call : Bool) : (s.transfer t call).stepUndo = s.stepUndo := rfl
@[simp] theorem State.transfer_halted (s : State) (t : Word) (call : Bool) : (s.transfer t call).halted = s.halted := rfl
@[simp] theorem State.transfer_held (s : State) (t : Word) (call : Bool) : (s.transfer t call).held = s.held := rfl

@[simp] theorem State.transfer_core (s : State) (t : Word) (call : Bool) : (s.transfer t call).core = s.core.transfer t call := rfl

@[simp] theorem State.stalled_cur (s : State) (k : Stall) : (s.stalled k).cur = s.cur := rfl
@[simp] theorem State.stalled_others (s : State) (k : Stall) : (s.stalled k).others = s.others := rfl
@[simp] theorem State.stalled_agenda (s : State) (k : Stall) : (s.stalled k).agenda = s.agenda := rfl
@[simp] theorem State.stalled_turns (s : State) (k : Stall) : (s.stalled k).turns = s.turns := rfl
@[simp] theorem State.stalled_tick (s : State) (k : Stall) : (s.stalled k).tick = s.tick := rfl
@[simp] theorem State.stalled_clk (s : State) (k : Stall) : (s.stalled k).clk = s.clk := rfl
@[simp] theorem State.stalled_time (s : State) (k : Stall) : (s.stalled k).time = s.time := rfl
@[simp] theorem State.stalled_mem (s : State) (k : Stall) : (s.stalled k).mem = s.mem := rfl
@[simp] theorem State.stalled_tags (s : State) (k : Stall) : (s.stalled k).tags = s.tags := rfl
@[simp] theorem State.stalled_ctxs (s : State) (k : Stall) : (s.stalled k).ctxs = s.ctxs := rfl
@[simp] theorem State.stalled_dies (s : State) (k : Stall) : (s.stalled k).dies = s.dies := rfl
@[simp] theorem State.stalled_hbm (s : State) (k : Stall) : (s.stalled k).hbm = s.hbm := rfl
@[simp] theorem State.stalled_head (s : State) (k : Stall) : (s.stalled k).head = s.head := rfl
@[simp] theorem State.stalled_fab (s : State) (k : Stall) : (s.stalled k).fab = s.fab := rfl
@[simp] theorem State.stalled_power (s : State) (k : Stall) : (s.stalled k).power = s.power := rfl
@[simp] theorem State.stalled_host (s : State) (k : Stall) : (s.stalled k).host = s.host := rfl
@[simp] theorem State.stalled_spawns (s : State) (k : Stall) : (s.stalled k).spawns = s.spawns := rfl
@[simp] theorem State.stalled_pushes (s : State) (k : Stall) : (s.stalled k).pushes = s.pushes := rfl
@[simp] theorem State.stalled_parked (s : State) (k : Stall) : (s.stalled k).parked = s.parked := rfl
@[simp] theorem State.stalled_images (s : State) (k : Stall) : (s.stalled k).images = s.images := rfl
@[simp] theorem State.stalled_starts (s : State) (k : Stall) : (s.stalled k).starts = s.starts := rfl
@[simp] theorem State.stalled_stepUndo (s : State) (k : Stall) : (s.stalled k).stepUndo = s.stepUndo := rfl
@[simp] theorem State.stalled_halted (s : State) (k : Stall) : (s.stalled k).halted = s.halted := rfl
@[simp] theorem State.stalled_held (s : State) (k : Stall) : (s.stalled k).held = s.held := rfl

@[simp] theorem State.stalled_core (s : State) (k : Stall) : (s.stalled k).core = { s.core with stall := k } := rfl

@[simp] theorem State.begin_cur (s : State) (w : WordHere) : (s.begin w).cur = s.cur := rfl
@[simp] theorem State.begin_others (s : State) (w : WordHere) : (s.begin w).others = s.others := rfl
@[simp] theorem State.begin_agenda (s : State) (w : WordHere) : (s.begin w).agenda = s.agenda := rfl
@[simp] theorem State.begin_turns (s : State) (w : WordHere) : (s.begin w).turns = s.turns := rfl
@[simp] theorem State.begin_tick (s : State) (w : WordHere) : (s.begin w).tick = s.tick := rfl
@[simp] theorem State.begin_clk (s : State) (w : WordHere) : (s.begin w).clk = s.clk := rfl
@[simp] theorem State.begin_time (s : State) (w : WordHere) : (s.begin w).time = s.time := rfl
@[simp] theorem State.begin_mem (s : State) (w : WordHere) : (s.begin w).mem = s.mem := rfl
@[simp] theorem State.begin_tags (s : State) (w : WordHere) : (s.begin w).tags = s.tags := rfl
@[simp] theorem State.begin_ctxs (s : State) (w : WordHere) : (s.begin w).ctxs = s.ctxs := rfl
@[simp] theorem State.begin_dies (s : State) (w : WordHere) : (s.begin w).dies = s.dies := rfl
@[simp] theorem State.begin_hbm (s : State) (w : WordHere) : (s.begin w).hbm = s.hbm := rfl
@[simp] theorem State.begin_head (s : State) (w : WordHere) : (s.begin w).head = s.head := rfl
@[simp] theorem State.begin_fab (s : State) (w : WordHere) : (s.begin w).fab = s.fab := rfl
@[simp] theorem State.begin_power (s : State) (w : WordHere) : (s.begin w).power = s.power := rfl
@[simp] theorem State.begin_host (s : State) (w : WordHere) : (s.begin w).host = s.host := rfl
@[simp] theorem State.begin_spawns (s : State) (w : WordHere) : (s.begin w).spawns = s.spawns := rfl
@[simp] theorem State.begin_pushes (s : State) (w : WordHere) : (s.begin w).pushes = s.pushes := rfl
@[simp] theorem State.begin_parked (s : State) (w : WordHere) : (s.begin w).parked = s.parked := rfl
@[simp] theorem State.begin_images (s : State) (w : WordHere) : (s.begin w).images = s.images := rfl
@[simp] theorem State.begin_starts (s : State) (w : WordHere) : (s.begin w).starts = s.starts := rfl
@[simp] theorem State.begin_stepUndo (s : State) (w : WordHere) : (s.begin w).stepUndo = s.stepUndo := rfl
@[simp] theorem State.begin_halted (s : State) (w : WordHere) : (s.begin w).halted = s.halted := rfl
@[simp] theorem State.begin_held (s : State) (w : WordHere) : (s.begin w).held = s.held := rfl

@[simp] theorem State.begin_core (s : State) (w : WordHere) : (s.begin w).core = { s.core with ir := w } := rfl

@[simp] theorem State.setDie_core (s : State) (d : Nat) (x : Die) : (s.setDie d x).core = s.core := rfl
@[simp] theorem State.setDie_cur (s : State) (d : Nat) (x : Die) : (s.setDie d x).cur = s.cur := rfl
@[simp] theorem State.setDie_others (s : State) (d : Nat) (x : Die) : (s.setDie d x).others = s.others := rfl
@[simp] theorem State.setDie_agenda (s : State) (d : Nat) (x : Die) : (s.setDie d x).agenda = s.agenda := rfl
@[simp] theorem State.setDie_turns (s : State) (d : Nat) (x : Die) : (s.setDie d x).turns = s.turns := rfl
@[simp] theorem State.setDie_tick (s : State) (d : Nat) (x : Die) : (s.setDie d x).tick = s.tick := rfl
@[simp] theorem State.setDie_clk (s : State) (d : Nat) (x : Die) : (s.setDie d x).clk = s.clk := rfl
@[simp] theorem State.setDie_time (s : State) (d : Nat) (x : Die) : (s.setDie d x).time = s.time := rfl
@[simp] theorem State.setDie_mem (s : State) (d : Nat) (x : Die) : (s.setDie d x).mem = s.mem := rfl
@[simp] theorem State.setDie_tags (s : State) (d : Nat) (x : Die) : (s.setDie d x).tags = s.tags := rfl
@[simp] theorem State.setDie_ctxs (s : State) (d : Nat) (x : Die) : (s.setDie d x).ctxs = s.ctxs := rfl
@[simp] theorem State.setDie_hbm (s : State) (d : Nat) (x : Die) : (s.setDie d x).hbm = s.hbm := rfl
@[simp] theorem State.setDie_head (s : State) (d : Nat) (x : Die) : (s.setDie d x).head = s.head := rfl
@[simp] theorem State.setDie_fab (s : State) (d : Nat) (x : Die) : (s.setDie d x).fab = s.fab := rfl
@[simp] theorem State.setDie_power (s : State) (d : Nat) (x : Die) : (s.setDie d x).power = s.power := rfl
@[simp] theorem State.setDie_host (s : State) (d : Nat) (x : Die) : (s.setDie d x).host = s.host := rfl
@[simp] theorem State.setDie_spawns (s : State) (d : Nat) (x : Die) : (s.setDie d x).spawns = s.spawns := rfl
@[simp] theorem State.setDie_pushes (s : State) (d : Nat) (x : Die) : (s.setDie d x).pushes = s.pushes := rfl
@[simp] theorem State.setDie_parked (s : State) (d : Nat) (x : Die) : (s.setDie d x).parked = s.parked := rfl
@[simp] theorem State.setDie_images (s : State) (d : Nat) (x : Die) : (s.setDie d x).images = s.images := rfl
@[simp] theorem State.setDie_starts (s : State) (d : Nat) (x : Die) : (s.setDie d x).starts = s.starts := rfl
@[simp] theorem State.setDie_stepUndo (s : State) (d : Nat) (x : Die) : (s.setDie d x).stepUndo = s.stepUndo := rfl
@[simp] theorem State.setDie_halted (s : State) (d : Nat) (x : Die) : (s.setDie d x).halted = s.halted := rfl
@[simp] theorem State.setDie_held (s : State) (d : Nat) (x : Die) : (s.setDie d x).held = s.held := rfl

@[simp] theorem State.setDie_dies (s : State) (d : Nat) (x : Die) : (s.setDie d x).dies = alSet d x s.dies := rfl

@[simp] theorem State.modDie_core (s : State) (d : Nat) (f : Die → Die) : (s.modDie d f).core = s.core := rfl
@[simp] theorem State.modDie_cur (s : State) (d : Nat) (f : Die → Die) : (s.modDie d f).cur = s.cur := rfl
@[simp] theorem State.modDie_others (s : State) (d : Nat) (f : Die → Die) : (s.modDie d f).others = s.others := rfl
@[simp] theorem State.modDie_agenda (s : State) (d : Nat) (f : Die → Die) : (s.modDie d f).agenda = s.agenda := rfl
@[simp] theorem State.modDie_turns (s : State) (d : Nat) (f : Die → Die) : (s.modDie d f).turns = s.turns := rfl
@[simp] theorem State.modDie_tick (s : State) (d : Nat) (f : Die → Die) : (s.modDie d f).tick = s.tick := rfl
@[simp] theorem State.modDie_clk (s : State) (d : Nat) (f : Die → Die) : (s.modDie d f).clk = s.clk := rfl
@[simp] theorem State.modDie_time (s : State) (d : Nat) (f : Die → Die) : (s.modDie d f).time = s.time := rfl
@[simp] theorem State.modDie_mem (s : State) (d : Nat) (f : Die → Die) : (s.modDie d f).mem = s.mem := rfl
@[simp] theorem State.modDie_tags (s : State) (d : Nat) (f : Die → Die) : (s.modDie d f).tags = s.tags := rfl
@[simp] theorem State.modDie_ctxs (s : State) (d : Nat) (f : Die → Die) : (s.modDie d f).ctxs = s.ctxs := rfl
@[simp] theorem State.modDie_hbm (s : State) (d : Nat) (f : Die → Die) : (s.modDie d f).hbm = s.hbm := rfl
@[simp] theorem State.modDie_head (s : State) (d : Nat) (f : Die → Die) : (s.modDie d f).head = s.head := rfl
@[simp] theorem State.modDie_fab (s : State) (d : Nat) (f : Die → Die) : (s.modDie d f).fab = s.fab := rfl
@[simp] theorem State.modDie_power (s : State) (d : Nat) (f : Die → Die) : (s.modDie d f).power = s.power := rfl
@[simp] theorem State.modDie_host (s : State) (d : Nat) (f : Die → Die) : (s.modDie d f).host = s.host := rfl
@[simp] theorem State.modDie_spawns (s : State) (d : Nat) (f : Die → Die) : (s.modDie d f).spawns = s.spawns := rfl
@[simp] theorem State.modDie_pushes (s : State) (d : Nat) (f : Die → Die) : (s.modDie d f).pushes = s.pushes := rfl
@[simp] theorem State.modDie_parked (s : State) (d : Nat) (f : Die → Die) : (s.modDie d f).parked = s.parked := rfl
@[simp] theorem State.modDie_images (s : State) (d : Nat) (f : Die → Die) : (s.modDie d f).images = s.images := rfl
@[simp] theorem State.modDie_starts (s : State) (d : Nat) (f : Die → Die) : (s.modDie d f).starts = s.starts := rfl
@[simp] theorem State.modDie_stepUndo (s : State) (d : Nat) (f : Die → Die) : (s.modDie d f).stepUndo = s.stepUndo := rfl
@[simp] theorem State.modDie_halted (s : State) (d : Nat) (f : Die → Die) : (s.modDie d f).halted = s.halted := rfl
@[simp] theorem State.modDie_held (s : State) (d : Nat) (f : Die → Die) : (s.modDie d f).held = s.held := rfl

@[simp] theorem State.modDie_dies (s : State) (d : Nat) (f : Die → Die) : (s.modDie d f).dies = alSet d (f (s.die d)) s.dies := rfl

@[simp] theorem State.mapDies_core (s : State) (f : Die → Die) : (s.mapDies f).core = s.core := rfl
@[simp] theorem State.mapDies_cur (s : State) (f : Die → Die) : (s.mapDies f).cur = s.cur := rfl
@[simp] theorem State.mapDies_others (s : State) (f : Die → Die) : (s.mapDies f).others = s.others := rfl
@[simp] theorem State.mapDies_agenda (s : State) (f : Die → Die) : (s.mapDies f).agenda = s.agenda := rfl
@[simp] theorem State.mapDies_turns (s : State) (f : Die → Die) : (s.mapDies f).turns = s.turns := rfl
@[simp] theorem State.mapDies_tick (s : State) (f : Die → Die) : (s.mapDies f).tick = s.tick := rfl
@[simp] theorem State.mapDies_clk (s : State) (f : Die → Die) : (s.mapDies f).clk = s.clk := rfl
@[simp] theorem State.mapDies_time (s : State) (f : Die → Die) : (s.mapDies f).time = s.time := rfl
@[simp] theorem State.mapDies_mem (s : State) (f : Die → Die) : (s.mapDies f).mem = s.mem := rfl
@[simp] theorem State.mapDies_tags (s : State) (f : Die → Die) : (s.mapDies f).tags = s.tags := rfl
@[simp] theorem State.mapDies_ctxs (s : State) (f : Die → Die) : (s.mapDies f).ctxs = s.ctxs := rfl
@[simp] theorem State.mapDies_hbm (s : State) (f : Die → Die) : (s.mapDies f).hbm = s.hbm := rfl
@[simp] theorem State.mapDies_head (s : State) (f : Die → Die) : (s.mapDies f).head = s.head := rfl
@[simp] theorem State.mapDies_fab (s : State) (f : Die → Die) : (s.mapDies f).fab = s.fab := rfl
@[simp] theorem State.mapDies_power (s : State) (f : Die → Die) : (s.mapDies f).power = s.power := rfl
@[simp] theorem State.mapDies_host (s : State) (f : Die → Die) : (s.mapDies f).host = s.host := rfl
@[simp] theorem State.mapDies_spawns (s : State) (f : Die → Die) : (s.mapDies f).spawns = s.spawns := rfl
@[simp] theorem State.mapDies_pushes (s : State) (f : Die → Die) : (s.mapDies f).pushes = s.pushes := rfl
@[simp] theorem State.mapDies_parked (s : State) (f : Die → Die) : (s.mapDies f).parked = s.parked := rfl
@[simp] theorem State.mapDies_images (s : State) (f : Die → Die) : (s.mapDies f).images = s.images := rfl
@[simp] theorem State.mapDies_starts (s : State) (f : Die → Die) : (s.mapDies f).starts = s.starts := rfl
@[simp] theorem State.mapDies_stepUndo (s : State) (f : Die → Die) : (s.mapDies f).stepUndo = s.stepUndo := rfl
@[simp] theorem State.mapDies_halted (s : State) (f : Die → Die) : (s.mapDies f).halted = s.halted := rfl
@[simp] theorem State.mapDies_held (s : State) (f : Die → Die) : (s.mapDies f).held = s.held := rfl

@[simp] theorem State.setStack_core (s : State) (k : Nat) (x : Stack) : (s.setStack k x).core = s.core := rfl
@[simp] theorem State.setStack_cur (s : State) (k : Nat) (x : Stack) : (s.setStack k x).cur = s.cur := rfl
@[simp] theorem State.setStack_others (s : State) (k : Nat) (x : Stack) : (s.setStack k x).others = s.others := rfl
@[simp] theorem State.setStack_agenda (s : State) (k : Nat) (x : Stack) : (s.setStack k x).agenda = s.agenda := rfl
@[simp] theorem State.setStack_turns (s : State) (k : Nat) (x : Stack) : (s.setStack k x).turns = s.turns := rfl
@[simp] theorem State.setStack_tick (s : State) (k : Nat) (x : Stack) : (s.setStack k x).tick = s.tick := rfl
@[simp] theorem State.setStack_clk (s : State) (k : Nat) (x : Stack) : (s.setStack k x).clk = s.clk := rfl
@[simp] theorem State.setStack_time (s : State) (k : Nat) (x : Stack) : (s.setStack k x).time = s.time := rfl
@[simp] theorem State.setStack_mem (s : State) (k : Nat) (x : Stack) : (s.setStack k x).mem = s.mem := rfl
@[simp] theorem State.setStack_tags (s : State) (k : Nat) (x : Stack) : (s.setStack k x).tags = s.tags := rfl
@[simp] theorem State.setStack_ctxs (s : State) (k : Nat) (x : Stack) : (s.setStack k x).ctxs = s.ctxs := rfl
@[simp] theorem State.setStack_dies (s : State) (k : Nat) (x : Stack) : (s.setStack k x).dies = s.dies := rfl
@[simp] theorem State.setStack_head (s : State) (k : Nat) (x : Stack) : (s.setStack k x).head = s.head := rfl
@[simp] theorem State.setStack_fab (s : State) (k : Nat) (x : Stack) : (s.setStack k x).fab = s.fab := rfl
@[simp] theorem State.setStack_power (s : State) (k : Nat) (x : Stack) : (s.setStack k x).power = s.power := rfl
@[simp] theorem State.setStack_host (s : State) (k : Nat) (x : Stack) : (s.setStack k x).host = s.host := rfl
@[simp] theorem State.setStack_spawns (s : State) (k : Nat) (x : Stack) : (s.setStack k x).spawns = s.spawns := rfl
@[simp] theorem State.setStack_pushes (s : State) (k : Nat) (x : Stack) : (s.setStack k x).pushes = s.pushes := rfl
@[simp] theorem State.setStack_parked (s : State) (k : Nat) (x : Stack) : (s.setStack k x).parked = s.parked := rfl
@[simp] theorem State.setStack_images (s : State) (k : Nat) (x : Stack) : (s.setStack k x).images = s.images := rfl
@[simp] theorem State.setStack_starts (s : State) (k : Nat) (x : Stack) : (s.setStack k x).starts = s.starts := rfl
@[simp] theorem State.setStack_stepUndo (s : State) (k : Nat) (x : Stack) : (s.setStack k x).stepUndo = s.stepUndo := rfl
@[simp] theorem State.setStack_halted (s : State) (k : Nat) (x : Stack) : (s.setStack k x).halted = s.halted := rfl
@[simp] theorem State.setStack_held (s : State) (k : Nat) (x : Stack) : (s.setStack k x).held = s.held := rfl

@[simp] theorem State.setStack_hbm (s : State) (k : Nat) (x : Stack) : (s.setStack k x).hbm = alSet k x s.hbm := rfl

@[simp] theorem State.modStack_core (s : State) (k : Nat) (f : Stack → Stack) : (s.modStack k f).core = s.core := rfl
@[simp] theorem State.modStack_cur (s : State) (k : Nat) (f : Stack → Stack) : (s.modStack k f).cur = s.cur := rfl
@[simp] theorem State.modStack_others (s : State) (k : Nat) (f : Stack → Stack) : (s.modStack k f).others = s.others := rfl
@[simp] theorem State.modStack_agenda (s : State) (k : Nat) (f : Stack → Stack) : (s.modStack k f).agenda = s.agenda := rfl
@[simp] theorem State.modStack_turns (s : State) (k : Nat) (f : Stack → Stack) : (s.modStack k f).turns = s.turns := rfl
@[simp] theorem State.modStack_tick (s : State) (k : Nat) (f : Stack → Stack) : (s.modStack k f).tick = s.tick := rfl
@[simp] theorem State.modStack_clk (s : State) (k : Nat) (f : Stack → Stack) : (s.modStack k f).clk = s.clk := rfl
@[simp] theorem State.modStack_time (s : State) (k : Nat) (f : Stack → Stack) : (s.modStack k f).time = s.time := rfl
@[simp] theorem State.modStack_mem (s : State) (k : Nat) (f : Stack → Stack) : (s.modStack k f).mem = s.mem := rfl
@[simp] theorem State.modStack_tags (s : State) (k : Nat) (f : Stack → Stack) : (s.modStack k f).tags = s.tags := rfl
@[simp] theorem State.modStack_ctxs (s : State) (k : Nat) (f : Stack → Stack) : (s.modStack k f).ctxs = s.ctxs := rfl
@[simp] theorem State.modStack_dies (s : State) (k : Nat) (f : Stack → Stack) : (s.modStack k f).dies = s.dies := rfl
@[simp] theorem State.modStack_head (s : State) (k : Nat) (f : Stack → Stack) : (s.modStack k f).head = s.head := rfl
@[simp] theorem State.modStack_fab (s : State) (k : Nat) (f : Stack → Stack) : (s.modStack k f).fab = s.fab := rfl
@[simp] theorem State.modStack_power (s : State) (k : Nat) (f : Stack → Stack) : (s.modStack k f).power = s.power := rfl
@[simp] theorem State.modStack_host (s : State) (k : Nat) (f : Stack → Stack) : (s.modStack k f).host = s.host := rfl
@[simp] theorem State.modStack_spawns (s : State) (k : Nat) (f : Stack → Stack) : (s.modStack k f).spawns = s.spawns := rfl
@[simp] theorem State.modStack_pushes (s : State) (k : Nat) (f : Stack → Stack) : (s.modStack k f).pushes = s.pushes := rfl
@[simp] theorem State.modStack_parked (s : State) (k : Nat) (f : Stack → Stack) : (s.modStack k f).parked = s.parked := rfl
@[simp] theorem State.modStack_images (s : State) (k : Nat) (f : Stack → Stack) : (s.modStack k f).images = s.images := rfl
@[simp] theorem State.modStack_starts (s : State) (k : Nat) (f : Stack → Stack) : (s.modStack k f).starts = s.starts := rfl
@[simp] theorem State.modStack_stepUndo (s : State) (k : Nat) (f : Stack → Stack) : (s.modStack k f).stepUndo = s.stepUndo := rfl
@[simp] theorem State.modStack_halted (s : State) (k : Nat) (f : Stack → Stack) : (s.modStack k f).halted = s.halted := rfl
@[simp] theorem State.modStack_held (s : State) (k : Nat) (f : Stack → Stack) : (s.modStack k f).held = s.held := rfl

@[simp] theorem State.setCtx_core (s : State) (c : Nat) (x : Ctx) : (s.setCtx c x).core = s.core := rfl
@[simp] theorem State.setCtx_cur (s : State) (c : Nat) (x : Ctx) : (s.setCtx c x).cur = s.cur := rfl
@[simp] theorem State.setCtx_others (s : State) (c : Nat) (x : Ctx) : (s.setCtx c x).others = s.others := rfl
@[simp] theorem State.setCtx_agenda (s : State) (c : Nat) (x : Ctx) : (s.setCtx c x).agenda = s.agenda := rfl
@[simp] theorem State.setCtx_turns (s : State) (c : Nat) (x : Ctx) : (s.setCtx c x).turns = s.turns := rfl
@[simp] theorem State.setCtx_tick (s : State) (c : Nat) (x : Ctx) : (s.setCtx c x).tick = s.tick := rfl
@[simp] theorem State.setCtx_clk (s : State) (c : Nat) (x : Ctx) : (s.setCtx c x).clk = s.clk := rfl
@[simp] theorem State.setCtx_time (s : State) (c : Nat) (x : Ctx) : (s.setCtx c x).time = s.time := rfl
@[simp] theorem State.setCtx_mem (s : State) (c : Nat) (x : Ctx) : (s.setCtx c x).mem = s.mem := rfl
@[simp] theorem State.setCtx_tags (s : State) (c : Nat) (x : Ctx) : (s.setCtx c x).tags = s.tags := rfl
@[simp] theorem State.setCtx_dies (s : State) (c : Nat) (x : Ctx) : (s.setCtx c x).dies = s.dies := rfl
@[simp] theorem State.setCtx_hbm (s : State) (c : Nat) (x : Ctx) : (s.setCtx c x).hbm = s.hbm := rfl
@[simp] theorem State.setCtx_head (s : State) (c : Nat) (x : Ctx) : (s.setCtx c x).head = s.head := rfl
@[simp] theorem State.setCtx_fab (s : State) (c : Nat) (x : Ctx) : (s.setCtx c x).fab = s.fab := rfl
@[simp] theorem State.setCtx_power (s : State) (c : Nat) (x : Ctx) : (s.setCtx c x).power = s.power := rfl
@[simp] theorem State.setCtx_host (s : State) (c : Nat) (x : Ctx) : (s.setCtx c x).host = s.host := rfl
@[simp] theorem State.setCtx_spawns (s : State) (c : Nat) (x : Ctx) : (s.setCtx c x).spawns = s.spawns := rfl
@[simp] theorem State.setCtx_pushes (s : State) (c : Nat) (x : Ctx) : (s.setCtx c x).pushes = s.pushes := rfl
@[simp] theorem State.setCtx_parked (s : State) (c : Nat) (x : Ctx) : (s.setCtx c x).parked = s.parked := rfl
@[simp] theorem State.setCtx_images (s : State) (c : Nat) (x : Ctx) : (s.setCtx c x).images = s.images := rfl
@[simp] theorem State.setCtx_starts (s : State) (c : Nat) (x : Ctx) : (s.setCtx c x).starts = s.starts := rfl
@[simp] theorem State.setCtx_stepUndo (s : State) (c : Nat) (x : Ctx) : (s.setCtx c x).stepUndo = s.stepUndo := rfl
@[simp] theorem State.setCtx_halted (s : State) (c : Nat) (x : Ctx) : (s.setCtx c x).halted = s.halted := rfl
@[simp] theorem State.setCtx_held (s : State) (c : Nat) (x : Ctx) : (s.setCtx c x).held = s.held := rfl

@[simp] theorem State.setCtx_ctxs (s : State) (c : Nat) (x : Ctx) : (s.setCtx c x).ctxs = alSet c x s.ctxs := rfl

@[simp] theorem State.modCtx_core (s : State) (c : Nat) (f : Ctx → Ctx) : (s.modCtx c f).core = s.core := by unfold State.modCtx; split <;> rfl
@[simp] theorem State.modCtx_cur (s : State) (c : Nat) (f : Ctx → Ctx) : (s.modCtx c f).cur = s.cur := by unfold State.modCtx; split <;> rfl
@[simp] theorem State.modCtx_others (s : State) (c : Nat) (f : Ctx → Ctx) : (s.modCtx c f).others = s.others := by unfold State.modCtx; split <;> rfl
@[simp] theorem State.modCtx_agenda (s : State) (c : Nat) (f : Ctx → Ctx) : (s.modCtx c f).agenda = s.agenda := by unfold State.modCtx; split <;> rfl
@[simp] theorem State.modCtx_turns (s : State) (c : Nat) (f : Ctx → Ctx) : (s.modCtx c f).turns = s.turns := by unfold State.modCtx; split <;> rfl
@[simp] theorem State.modCtx_tick (s : State) (c : Nat) (f : Ctx → Ctx) : (s.modCtx c f).tick = s.tick := by unfold State.modCtx; split <;> rfl
@[simp] theorem State.modCtx_clk (s : State) (c : Nat) (f : Ctx → Ctx) : (s.modCtx c f).clk = s.clk := by unfold State.modCtx; split <;> rfl
@[simp] theorem State.modCtx_time (s : State) (c : Nat) (f : Ctx → Ctx) : (s.modCtx c f).time = s.time := by unfold State.modCtx; split <;> rfl
@[simp] theorem State.modCtx_mem (s : State) (c : Nat) (f : Ctx → Ctx) : (s.modCtx c f).mem = s.mem := by unfold State.modCtx; split <;> rfl
@[simp] theorem State.modCtx_tags (s : State) (c : Nat) (f : Ctx → Ctx) : (s.modCtx c f).tags = s.tags := by unfold State.modCtx; split <;> rfl
@[simp] theorem State.modCtx_dies (s : State) (c : Nat) (f : Ctx → Ctx) : (s.modCtx c f).dies = s.dies := by unfold State.modCtx; split <;> rfl
@[simp] theorem State.modCtx_hbm (s : State) (c : Nat) (f : Ctx → Ctx) : (s.modCtx c f).hbm = s.hbm := by unfold State.modCtx; split <;> rfl
@[simp] theorem State.modCtx_head (s : State) (c : Nat) (f : Ctx → Ctx) : (s.modCtx c f).head = s.head := by unfold State.modCtx; split <;> rfl
@[simp] theorem State.modCtx_fab (s : State) (c : Nat) (f : Ctx → Ctx) : (s.modCtx c f).fab = s.fab := by unfold State.modCtx; split <;> rfl
@[simp] theorem State.modCtx_power (s : State) (c : Nat) (f : Ctx → Ctx) : (s.modCtx c f).power = s.power := by unfold State.modCtx; split <;> rfl
@[simp] theorem State.modCtx_host (s : State) (c : Nat) (f : Ctx → Ctx) : (s.modCtx c f).host = s.host := by unfold State.modCtx; split <;> rfl
@[simp] theorem State.modCtx_spawns (s : State) (c : Nat) (f : Ctx → Ctx) : (s.modCtx c f).spawns = s.spawns := by unfold State.modCtx; split <;> rfl
@[simp] theorem State.modCtx_pushes (s : State) (c : Nat) (f : Ctx → Ctx) : (s.modCtx c f).pushes = s.pushes := by unfold State.modCtx; split <;> rfl
@[simp] theorem State.modCtx_parked (s : State) (c : Nat) (f : Ctx → Ctx) : (s.modCtx c f).parked = s.parked := by unfold State.modCtx; split <;> rfl
@[simp] theorem State.modCtx_images (s : State) (c : Nat) (f : Ctx → Ctx) : (s.modCtx c f).images = s.images := by unfold State.modCtx; split <;> rfl
@[simp] theorem State.modCtx_starts (s : State) (c : Nat) (f : Ctx → Ctx) : (s.modCtx c f).starts = s.starts := by unfold State.modCtx; split <;> rfl
@[simp] theorem State.modCtx_stepUndo (s : State) (c : Nat) (f : Ctx → Ctx) : (s.modCtx c f).stepUndo = s.stepUndo := by unfold State.modCtx; split <;> rfl
@[simp] theorem State.modCtx_halted (s : State) (c : Nat) (f : Ctx → Ctx) : (s.modCtx c f).halted = s.halted := by unfold State.modCtx; split <;> rfl
@[simp] theorem State.modCtx_held (s : State) (c : Nat) (f : Ctx → Ctx) : (s.modCtx c f).held = s.held := by unfold State.modCtx; split <;> rfl

@[simp] theorem State.setUnit_cur (s : State) (r : Nat) (c : Core) : (s.setUnit r c).cur = s.cur := by unfold State.setUnit; split <;> rfl
@[simp] theorem State.setUnit_agenda (s : State) (r : Nat) (c : Core) : (s.setUnit r c).agenda = s.agenda := by unfold State.setUnit; split <;> rfl
@[simp] theorem State.setUnit_turns (s : State) (r : Nat) (c : Core) : (s.setUnit r c).turns = s.turns := by unfold State.setUnit; split <;> rfl
@[simp] theorem State.setUnit_tick (s : State) (r : Nat) (c : Core) : (s.setUnit r c).tick = s.tick := by unfold State.setUnit; split <;> rfl
@[simp] theorem State.setUnit_clk (s : State) (r : Nat) (c : Core) : (s.setUnit r c).clk = s.clk := by unfold State.setUnit; split <;> rfl
@[simp] theorem State.setUnit_time (s : State) (r : Nat) (c : Core) : (s.setUnit r c).time = s.time := by unfold State.setUnit; split <;> rfl
@[simp] theorem State.setUnit_mem (s : State) (r : Nat) (c : Core) : (s.setUnit r c).mem = s.mem := by unfold State.setUnit; split <;> rfl
@[simp] theorem State.setUnit_tags (s : State) (r : Nat) (c : Core) : (s.setUnit r c).tags = s.tags := by unfold State.setUnit; split <;> rfl
@[simp] theorem State.setUnit_ctxs (s : State) (r : Nat) (c : Core) : (s.setUnit r c).ctxs = s.ctxs := by unfold State.setUnit; split <;> rfl
@[simp] theorem State.setUnit_dies (s : State) (r : Nat) (c : Core) : (s.setUnit r c).dies = s.dies := by unfold State.setUnit; split <;> rfl
@[simp] theorem State.setUnit_hbm (s : State) (r : Nat) (c : Core) : (s.setUnit r c).hbm = s.hbm := by unfold State.setUnit; split <;> rfl
@[simp] theorem State.setUnit_head (s : State) (r : Nat) (c : Core) : (s.setUnit r c).head = s.head := by unfold State.setUnit; split <;> rfl
@[simp] theorem State.setUnit_fab (s : State) (r : Nat) (c : Core) : (s.setUnit r c).fab = s.fab := by unfold State.setUnit; split <;> rfl
@[simp] theorem State.setUnit_power (s : State) (r : Nat) (c : Core) : (s.setUnit r c).power = s.power := by unfold State.setUnit; split <;> rfl
@[simp] theorem State.setUnit_host (s : State) (r : Nat) (c : Core) : (s.setUnit r c).host = s.host := by unfold State.setUnit; split <;> rfl
@[simp] theorem State.setUnit_spawns (s : State) (r : Nat) (c : Core) : (s.setUnit r c).spawns = s.spawns := by unfold State.setUnit; split <;> rfl
@[simp] theorem State.setUnit_pushes (s : State) (r : Nat) (c : Core) : (s.setUnit r c).pushes = s.pushes := by unfold State.setUnit; split <;> rfl
@[simp] theorem State.setUnit_parked (s : State) (r : Nat) (c : Core) : (s.setUnit r c).parked = s.parked := by unfold State.setUnit; split <;> rfl
@[simp] theorem State.setUnit_images (s : State) (r : Nat) (c : Core) : (s.setUnit r c).images = s.images := by unfold State.setUnit; split <;> rfl
@[simp] theorem State.setUnit_starts (s : State) (r : Nat) (c : Core) : (s.setUnit r c).starts = s.starts := by unfold State.setUnit; split <;> rfl
@[simp] theorem State.setUnit_stepUndo (s : State) (r : Nat) (c : Core) : (s.setUnit r c).stepUndo = s.stepUndo := by unfold State.setUnit; split <;> rfl
@[simp] theorem State.setUnit_halted (s : State) (r : Nat) (c : Core) : (s.setUnit r c).halted = s.halted := by unfold State.setUnit; split <;> rfl
@[simp] theorem State.setUnit_held (s : State) (r : Nat) (c : Core) : (s.setUnit r c).held = s.held := by unfold State.setUnit; split <;> rfl

@[simp] theorem State.modUnit_cur (s : State) (r : Nat) (f : Core → Core) : (s.modUnit r f).cur = s.cur := by unfold State.modUnit; simp
@[simp] theorem State.modUnit_agenda (s : State) (r : Nat) (f : Core → Core) : (s.modUnit r f).agenda = s.agenda := by unfold State.modUnit; simp
@[simp] theorem State.modUnit_turns (s : State) (r : Nat) (f : Core → Core) : (s.modUnit r f).turns = s.turns := by unfold State.modUnit; simp
@[simp] theorem State.modUnit_tick (s : State) (r : Nat) (f : Core → Core) : (s.modUnit r f).tick = s.tick := by unfold State.modUnit; simp
@[simp] theorem State.modUnit_clk (s : State) (r : Nat) (f : Core → Core) : (s.modUnit r f).clk = s.clk := by unfold State.modUnit; simp
@[simp] theorem State.modUnit_time (s : State) (r : Nat) (f : Core → Core) : (s.modUnit r f).time = s.time := by unfold State.modUnit; simp
@[simp] theorem State.modUnit_mem (s : State) (r : Nat) (f : Core → Core) : (s.modUnit r f).mem = s.mem := by unfold State.modUnit; simp
@[simp] theorem State.modUnit_tags (s : State) (r : Nat) (f : Core → Core) : (s.modUnit r f).tags = s.tags := by unfold State.modUnit; simp
@[simp] theorem State.modUnit_ctxs (s : State) (r : Nat) (f : Core → Core) : (s.modUnit r f).ctxs = s.ctxs := by unfold State.modUnit; simp
@[simp] theorem State.modUnit_dies (s : State) (r : Nat) (f : Core → Core) : (s.modUnit r f).dies = s.dies := by unfold State.modUnit; simp
@[simp] theorem State.modUnit_hbm (s : State) (r : Nat) (f : Core → Core) : (s.modUnit r f).hbm = s.hbm := by unfold State.modUnit; simp
@[simp] theorem State.modUnit_head (s : State) (r : Nat) (f : Core → Core) : (s.modUnit r f).head = s.head := by unfold State.modUnit; simp
@[simp] theorem State.modUnit_fab (s : State) (r : Nat) (f : Core → Core) : (s.modUnit r f).fab = s.fab := by unfold State.modUnit; simp
@[simp] theorem State.modUnit_power (s : State) (r : Nat) (f : Core → Core) : (s.modUnit r f).power = s.power := by unfold State.modUnit; simp
@[simp] theorem State.modUnit_host (s : State) (r : Nat) (f : Core → Core) : (s.modUnit r f).host = s.host := by unfold State.modUnit; simp
@[simp] theorem State.modUnit_spawns (s : State) (r : Nat) (f : Core → Core) : (s.modUnit r f).spawns = s.spawns := by unfold State.modUnit; simp
@[simp] theorem State.modUnit_pushes (s : State) (r : Nat) (f : Core → Core) : (s.modUnit r f).pushes = s.pushes := by unfold State.modUnit; simp
@[simp] theorem State.modUnit_parked (s : State) (r : Nat) (f : Core → Core) : (s.modUnit r f).parked = s.parked := by unfold State.modUnit; simp
@[simp] theorem State.modUnit_images (s : State) (r : Nat) (f : Core → Core) : (s.modUnit r f).images = s.images := by unfold State.modUnit; simp
@[simp] theorem State.modUnit_starts (s : State) (r : Nat) (f : Core → Core) : (s.modUnit r f).starts = s.starts := by unfold State.modUnit; simp
@[simp] theorem State.modUnit_stepUndo (s : State) (r : Nat) (f : Core → Core) : (s.modUnit r f).stepUndo = s.stepUndo := by unfold State.modUnit; simp
@[simp] theorem State.modUnit_halted (s : State) (r : Nat) (f : Core → Core) : (s.modUnit r f).halted = s.halted := by unfold State.modUnit; simp
@[simp] theorem State.modUnit_held (s : State) (r : Nat) (f : Core → Core) : (s.modUnit r f).held = s.held := by unfold State.modUnit; simp

@[simp] theorem State.mapUnits_cur (s : State) (f : Core → Core) : (s.mapUnits f).cur = s.cur := rfl
@[simp] theorem State.mapUnits_agenda (s : State) (f : Core → Core) : (s.mapUnits f).agenda = s.agenda := rfl
@[simp] theorem State.mapUnits_turns (s : State) (f : Core → Core) : (s.mapUnits f).turns = s.turns := rfl
@[simp] theorem State.mapUnits_tick (s : State) (f : Core → Core) : (s.mapUnits f).tick = s.tick := rfl
@[simp] theorem State.mapUnits_clk (s : State) (f : Core → Core) : (s.mapUnits f).clk = s.clk := rfl
@[simp] theorem State.mapUnits_time (s : State) (f : Core → Core) : (s.mapUnits f).time = s.time := rfl
@[simp] theorem State.mapUnits_mem (s : State) (f : Core → Core) : (s.mapUnits f).mem = s.mem := rfl
@[simp] theorem State.mapUnits_tags (s : State) (f : Core → Core) : (s.mapUnits f).tags = s.tags := rfl
@[simp] theorem State.mapUnits_ctxs (s : State) (f : Core → Core) : (s.mapUnits f).ctxs = s.ctxs := rfl
@[simp] theorem State.mapUnits_dies (s : State) (f : Core → Core) : (s.mapUnits f).dies = s.dies := rfl
@[simp] theorem State.mapUnits_hbm (s : State) (f : Core → Core) : (s.mapUnits f).hbm = s.hbm := rfl
@[simp] theorem State.mapUnits_head (s : State) (f : Core → Core) : (s.mapUnits f).head = s.head := rfl
@[simp] theorem State.mapUnits_fab (s : State) (f : Core → Core) : (s.mapUnits f).fab = s.fab := rfl
@[simp] theorem State.mapUnits_power (s : State) (f : Core → Core) : (s.mapUnits f).power = s.power := rfl
@[simp] theorem State.mapUnits_host (s : State) (f : Core → Core) : (s.mapUnits f).host = s.host := rfl
@[simp] theorem State.mapUnits_spawns (s : State) (f : Core → Core) : (s.mapUnits f).spawns = s.spawns := rfl
@[simp] theorem State.mapUnits_pushes (s : State) (f : Core → Core) : (s.mapUnits f).pushes = s.pushes := rfl
@[simp] theorem State.mapUnits_parked (s : State) (f : Core → Core) : (s.mapUnits f).parked = s.parked := rfl
@[simp] theorem State.mapUnits_images (s : State) (f : Core → Core) : (s.mapUnits f).images = s.images := rfl
@[simp] theorem State.mapUnits_starts (s : State) (f : Core → Core) : (s.mapUnits f).starts = s.starts := rfl
@[simp] theorem State.mapUnits_stepUndo (s : State) (f : Core → Core) : (s.mapUnits f).stepUndo = s.stepUndo := rfl
@[simp] theorem State.mapUnits_halted (s : State) (f : Core → Core) : (s.mapUnits f).halted = s.halted := rfl
@[simp] theorem State.mapUnits_held (s : State) (f : Core → Core) : (s.mapUnits f).held = s.held := rfl

@[simp] theorem State.send_core (s : State) (m : HostMsg) : (s.send m).core = s.core := rfl
@[simp] theorem State.send_cur (s : State) (m : HostMsg) : (s.send m).cur = s.cur := rfl
@[simp] theorem State.send_others (s : State) (m : HostMsg) : (s.send m).others = s.others := rfl
@[simp] theorem State.send_agenda (s : State) (m : HostMsg) : (s.send m).agenda = s.agenda := rfl
@[simp] theorem State.send_turns (s : State) (m : HostMsg) : (s.send m).turns = s.turns := rfl
@[simp] theorem State.send_tick (s : State) (m : HostMsg) : (s.send m).tick = s.tick := rfl
@[simp] theorem State.send_clk (s : State) (m : HostMsg) : (s.send m).clk = s.clk := rfl
@[simp] theorem State.send_time (s : State) (m : HostMsg) : (s.send m).time = s.time := rfl
@[simp] theorem State.send_mem (s : State) (m : HostMsg) : (s.send m).mem = s.mem := rfl
@[simp] theorem State.send_tags (s : State) (m : HostMsg) : (s.send m).tags = s.tags := rfl
@[simp] theorem State.send_ctxs (s : State) (m : HostMsg) : (s.send m).ctxs = s.ctxs := rfl
@[simp] theorem State.send_dies (s : State) (m : HostMsg) : (s.send m).dies = s.dies := rfl
@[simp] theorem State.send_hbm (s : State) (m : HostMsg) : (s.send m).hbm = s.hbm := rfl
@[simp] theorem State.send_head (s : State) (m : HostMsg) : (s.send m).head = s.head := rfl
@[simp] theorem State.send_fab (s : State) (m : HostMsg) : (s.send m).fab = s.fab := rfl
@[simp] theorem State.send_power (s : State) (m : HostMsg) : (s.send m).power = s.power := rfl
@[simp] theorem State.send_spawns (s : State) (m : HostMsg) : (s.send m).spawns = s.spawns := rfl
@[simp] theorem State.send_pushes (s : State) (m : HostMsg) : (s.send m).pushes = s.pushes := rfl
@[simp] theorem State.send_parked (s : State) (m : HostMsg) : (s.send m).parked = s.parked := rfl
@[simp] theorem State.send_images (s : State) (m : HostMsg) : (s.send m).images = s.images := rfl
@[simp] theorem State.send_starts (s : State) (m : HostMsg) : (s.send m).starts = s.starts := rfl
@[simp] theorem State.send_stepUndo (s : State) (m : HostMsg) : (s.send m).stepUndo = s.stepUndo := rfl
@[simp] theorem State.send_halted (s : State) (m : HostMsg) : (s.send m).halted = s.halted := rfl
@[simp] theorem State.send_held (s : State) (m : HostMsg) : (s.send m).held = s.held := rfl

@[simp] theorem State.dieEvent_core (s : State) (d code n : Nat) : (s.dieEvent d code n).core = s.core := rfl
@[simp] theorem State.dieEvent_cur (s : State) (d code n : Nat) : (s.dieEvent d code n).cur = s.cur := rfl
@[simp] theorem State.dieEvent_others (s : State) (d code n : Nat) : (s.dieEvent d code n).others = s.others := rfl
@[simp] theorem State.dieEvent_agenda (s : State) (d code n : Nat) : (s.dieEvent d code n).agenda = s.agenda := rfl
@[simp] theorem State.dieEvent_turns (s : State) (d code n : Nat) : (s.dieEvent d code n).turns = s.turns := rfl
@[simp] theorem State.dieEvent_tick (s : State) (d code n : Nat) : (s.dieEvent d code n).tick = s.tick := rfl
@[simp] theorem State.dieEvent_clk (s : State) (d code n : Nat) : (s.dieEvent d code n).clk = s.clk := rfl
@[simp] theorem State.dieEvent_time (s : State) (d code n : Nat) : (s.dieEvent d code n).time = s.time := rfl
@[simp] theorem State.dieEvent_mem (s : State) (d code n : Nat) : (s.dieEvent d code n).mem = s.mem := rfl
@[simp] theorem State.dieEvent_tags (s : State) (d code n : Nat) : (s.dieEvent d code n).tags = s.tags := rfl
@[simp] theorem State.dieEvent_ctxs (s : State) (d code n : Nat) : (s.dieEvent d code n).ctxs = s.ctxs := rfl
@[simp] theorem State.dieEvent_hbm (s : State) (d code n : Nat) : (s.dieEvent d code n).hbm = s.hbm := rfl
@[simp] theorem State.dieEvent_head (s : State) (d code n : Nat) : (s.dieEvent d code n).head = s.head := rfl
@[simp] theorem State.dieEvent_fab (s : State) (d code n : Nat) : (s.dieEvent d code n).fab = s.fab := rfl
@[simp] theorem State.dieEvent_power (s : State) (d code n : Nat) : (s.dieEvent d code n).power = s.power := rfl
@[simp] theorem State.dieEvent_host (s : State) (d code n : Nat) : (s.dieEvent d code n).host = s.host := rfl
@[simp] theorem State.dieEvent_spawns (s : State) (d code n : Nat) : (s.dieEvent d code n).spawns = s.spawns := rfl
@[simp] theorem State.dieEvent_pushes (s : State) (d code n : Nat) : (s.dieEvent d code n).pushes = s.pushes := rfl
@[simp] theorem State.dieEvent_parked (s : State) (d code n : Nat) : (s.dieEvent d code n).parked = s.parked := rfl
@[simp] theorem State.dieEvent_images (s : State) (d code n : Nat) : (s.dieEvent d code n).images = s.images := rfl
@[simp] theorem State.dieEvent_starts (s : State) (d code n : Nat) : (s.dieEvent d code n).starts = s.starts := rfl
@[simp] theorem State.dieEvent_stepUndo (s : State) (d code n : Nat) : (s.dieEvent d code n).stepUndo = s.stepUndo := rfl
@[simp] theorem State.dieEvent_halted (s : State) (d code n : Nat) : (s.dieEvent d code n).halted = s.halted := rfl
@[simp] theorem State.dieEvent_held (s : State) (d code n : Nat) : (s.dieEvent d code n).held = s.held := rfl

@[simp] theorem State.focus_agenda (s : State) (r : Nat) : (s.focus r).agenda = s.agenda := by unfold State.focus; split <;> rfl
@[simp] theorem State.focus_turns (s : State) (r : Nat) : (s.focus r).turns = s.turns := by unfold State.focus; split <;> rfl
@[simp] theorem State.focus_tick (s : State) (r : Nat) : (s.focus r).tick = s.tick := by unfold State.focus; split <;> rfl
@[simp] theorem State.focus_clk (s : State) (r : Nat) : (s.focus r).clk = s.clk := by unfold State.focus; split <;> rfl
@[simp] theorem State.focus_time (s : State) (r : Nat) : (s.focus r).time = s.time := by unfold State.focus; split <;> rfl
@[simp] theorem State.focus_mem (s : State) (r : Nat) : (s.focus r).mem = s.mem := by unfold State.focus; split <;> rfl
@[simp] theorem State.focus_tags (s : State) (r : Nat) : (s.focus r).tags = s.tags := by unfold State.focus; split <;> rfl
@[simp] theorem State.focus_ctxs (s : State) (r : Nat) : (s.focus r).ctxs = s.ctxs := by unfold State.focus; split <;> rfl
@[simp] theorem State.focus_dies (s : State) (r : Nat) : (s.focus r).dies = s.dies := by unfold State.focus; split <;> rfl
@[simp] theorem State.focus_hbm (s : State) (r : Nat) : (s.focus r).hbm = s.hbm := by unfold State.focus; split <;> rfl
@[simp] theorem State.focus_head (s : State) (r : Nat) : (s.focus r).head = s.head := by unfold State.focus; split <;> rfl
@[simp] theorem State.focus_fab (s : State) (r : Nat) : (s.focus r).fab = s.fab := by unfold State.focus; split <;> rfl
@[simp] theorem State.focus_power (s : State) (r : Nat) : (s.focus r).power = s.power := by unfold State.focus; split <;> rfl
@[simp] theorem State.focus_host (s : State) (r : Nat) : (s.focus r).host = s.host := by unfold State.focus; split <;> rfl
@[simp] theorem State.focus_spawns (s : State) (r : Nat) : (s.focus r).spawns = s.spawns := by unfold State.focus; split <;> rfl
@[simp] theorem State.focus_pushes (s : State) (r : Nat) : (s.focus r).pushes = s.pushes := by unfold State.focus; split <;> rfl
@[simp] theorem State.focus_parked (s : State) (r : Nat) : (s.focus r).parked = s.parked := by unfold State.focus; split <;> rfl
@[simp] theorem State.focus_images (s : State) (r : Nat) : (s.focus r).images = s.images := by unfold State.focus; split <;> rfl
@[simp] theorem State.focus_starts (s : State) (r : Nat) : (s.focus r).starts = s.starts := by unfold State.focus; split <;> rfl
@[simp] theorem State.focus_stepUndo (s : State) (r : Nat) : (s.focus r).stepUndo = s.stepUndo := by unfold State.focus; split <;> rfl
@[simp] theorem State.focus_halted (s : State) (r : Nat) : (s.focus r).halted = s.halted := by unfold State.focus; split <;> rfl
@[simp] theorem State.focus_held (s : State) (r : Nat) : (s.focus r).held = s.held := by unfold State.focus; split <;> rfl

@[simp] theorem State.elapse_cur (s : State) : (s.elapse).cur = s.cur := rfl
@[simp] theorem State.elapse_agenda (s : State) : (s.elapse).agenda = s.agenda := rfl
@[simp] theorem State.elapse_turns (s : State) : (s.elapse).turns = s.turns := rfl
@[simp] theorem State.elapse_mem (s : State) : (s.elapse).mem = s.mem := rfl
@[simp] theorem State.elapse_tags (s : State) : (s.elapse).tags = s.tags := rfl
@[simp] theorem State.elapse_ctxs (s : State) : (s.elapse).ctxs = s.ctxs := rfl
@[simp] theorem State.elapse_hbm (s : State) : (s.elapse).hbm = s.hbm := rfl
@[simp] theorem State.elapse_head (s : State) : (s.elapse).head = s.head := rfl
@[simp] theorem State.elapse_fab (s : State) : (s.elapse).fab = s.fab := rfl
@[simp] theorem State.elapse_power (s : State) : (s.elapse).power = s.power := rfl
@[simp] theorem State.elapse_host (s : State) : (s.elapse).host = s.host := rfl
@[simp] theorem State.elapse_spawns (s : State) : (s.elapse).spawns = s.spawns := rfl
@[simp] theorem State.elapse_pushes (s : State) : (s.elapse).pushes = s.pushes := rfl
@[simp] theorem State.elapse_parked (s : State) : (s.elapse).parked = s.parked := rfl
@[simp] theorem State.elapse_images (s : State) : (s.elapse).images = s.images := rfl
@[simp] theorem State.elapse_starts (s : State) : (s.elapse).starts = s.starts := rfl
@[simp] theorem State.elapse_stepUndo (s : State) : (s.elapse).stepUndo = s.stepUndo := rfl
@[simp] theorem State.elapse_halted (s : State) : (s.elapse).halted = s.halted := rfl

@[simp] theorem Core.setReg_pc (u : Core) (d : RegNo) (v : Word) : (u.setReg d v).pc = u.pc := by unfold Core.setReg; split <;> rfl
@[simp] theorem Core.setReg_ssp (u : Core) (d : RegNo) (v : Word) : (u.setReg d v).ssp = u.ssp := by unfold Core.setReg; split <;> rfl
@[simp] theorem Core.setReg_ir (u : Core) (d : RegNo) (v : Word) : (u.setReg d v).ir = u.ir := by unfold Core.setReg; split <;> rfl
@[simp] theorem Core.setReg_sel (u : Core) (d : RegNo) (v : Word) : (u.setReg d v).sel = u.sel := by unfold Core.setReg; split <;> rfl
@[simp] theorem Core.setReg_loops (u : Core) (d : RegNo) (v : Word) : (u.setReg d v).loops = u.loops := by unfold Core.setReg; split <;> rfl
@[simp] theorem Core.setReg_ctl (u : Core) (d : RegNo) (v : Word) : (u.setReg d v).ctl = u.ctl := by unfold Core.setReg; split <;> rfl
@[simp] theorem Core.setReg_tds (u : Core) (d : RegNo) (v : Word) : (u.setReg d v).tds = u.tds := by unfold Core.setReg; split <;> rfl
@[simp] theorem Core.setReg_xs (u : Core) (d : RegNo) (v : Word) : (u.setReg d v).xs = u.xs := by unfold Core.setReg; split <;> rfl
@[simp] theorem Core.setReg_cpe (u : Core) (d : RegNo) (v : Word) : (u.setReg d v).cpe = u.cpe := by unfold Core.setReg; split <;> rfl
@[simp] theorem Core.setReg_mat (u : Core) (d : RegNo) (v : Word) : (u.setReg d v).mat = u.mat := by unfold Core.setReg; split <;> rfl
@[simp] theorem Core.setReg_vec (u : Core) (d : RegNo) (v : Word) : (u.setReg d v).vec = u.vec := by unfold Core.setReg; split <;> rfl
@[simp] theorem Core.setReg_outgoing (u : Core) (d : RegNo) (v : Word) : (u.setReg d v).outgoing = u.outgoing := by unfold Core.setReg; split <;> rfl
@[simp] theorem Core.setReg_codebook (u : Core) (d : RegNo) (v : Word) : (u.setReg d v).codebook = u.codebook := by unfold Core.setReg; split <;> rfl
@[simp] theorem Core.setReg_seq (u : Core) (d : RegNo) (v : Word) : (u.setReg d v).seq = u.seq := by unfold Core.setReg; split <;> rfl
@[simp] theorem Core.setReg_cmds (u : Core) (d : RegNo) (v : Word) : (u.setReg d v).cmds = u.cmds := by unfold Core.setReg; split <;> rfl
@[simp] theorem Core.setReg_stores (u : Core) (d : RegNo) (v : Word) : (u.setReg d v).stores = u.stores := by unfold Core.setReg; split <;> rfl
@[simp] theorem Core.setReg_pend (u : Core) (d : RegNo) (v : Word) : (u.setReg d v).pend = u.pend := by unfold Core.setReg; split <;> rfl
@[simp] theorem Core.setReg_loads (u : Core) (d : RegNo) (v : Word) : (u.setReg d v).loads = u.loads := by unfold Core.setReg; split <;> rfl
@[simp] theorem Core.setReg_l1 (u : Core) (d : RegNo) (v : Word) : (u.setReg d v).l1 = u.l1 := by unfold Core.setReg; split <;> rfl
@[simp] theorem Core.setReg_fetchBuf (u : Core) (d : RegNo) (v : Word) : (u.setReg d v).fetchBuf = u.fetchBuf := by unfold Core.setReg; split <;> rfl
@[simp] theorem Core.setReg_dict (u : Core) (d : RegNo) (v : Word) : (u.setReg d v).dict = u.dict := by unfold Core.setReg; split <;> rfl
@[simp] theorem Core.setReg_tcache (u : Core) (d : RegNo) (v : Word) : (u.setReg d v).tcache = u.tcache := by unfold Core.setReg; split <;> rfl
@[simp] theorem Core.setReg_cpeTcache (u : Core) (d : RegNo) (v : Word) : (u.setReg d v).cpeTcache = u.cpeTcache := by unfold Core.setReg; split <;> rfl
@[simp] theorem Core.setReg_stall (u : Core) (d : RegNo) (v : Word) : (u.setReg d v).stall = u.stall := by unfold Core.setReg; split <;> rfl
@[simp] theorem Core.setReg_unit (u : Core) (d : RegNo) (v : Word) : (u.setReg d v).unit = u.unit := by unfold Core.setReg; split <;> rfl
@[simp] theorem Core.setReg_lastCtx (u : Core) (d : RegNo) (v : Word) : (u.setReg d v).lastCtx = u.lastCtx := by unfold Core.setReg; split <;> rfl
@[simp] theorem Core.setReg_reached (u : Core) (d : RegNo) (v : Word) : (u.setReg d v).reached = u.reached := by unfold Core.setReg; split <;> rfl
@[simp] theorem Core.setReg_faults (u : Core) (d : RegNo) (v : Word) : (u.setReg d v).faults = u.faults := by unfold Core.setReg; split <;> rfl
@[simp] theorem Core.setReg_outOfService (u : Core) (d : RegNo) (v : Word) : (u.setReg d v).outOfService = u.outOfService := by unfold Core.setReg; split <;> rfl
@[simp] theorem Core.setReg_heldFor (u : Core) (d : RegNo) (v : Word) : (u.setReg d v).heldFor = u.heldFor := by unfold Core.setReg; split <;> rfl
@[simp] theorem Core.setReg_starting (u : Core) (d : RegNo) (v : Word) : (u.setReg d v).starting = u.starting := by unfold Core.setReg; split <;> rfl
@[simp] theorem Core.setReg_badLocal (u : Core) (d : RegNo) (v : Word) : (u.setReg d v).badLocal = u.badLocal := by unfold Core.setReg; split <;> rfl
@[simp] theorem Core.setReg_badWb (u : Core) (d : RegNo) (v : Word) : (u.setReg d v).badWb = u.badWb := by unfold Core.setReg; split <;> rfl

@[simp] theorem Core.setBank_regs (u : Core) (l : BitVec 2) (b : Vector LoopLevel 4) : (u.setBank l b).regs = u.regs := rfl
@[simp] theorem Core.setBank_pc (u : Core) (l : BitVec 2) (b : Vector LoopLevel 4) : (u.setBank l b).pc = u.pc := rfl
@[simp] theorem Core.setBank_ssp (u : Core) (l : BitVec 2) (b : Vector LoopLevel 4) : (u.setBank l b).ssp = u.ssp := rfl
@[simp] theorem Core.setBank_ir (u : Core) (l : BitVec 2) (b : Vector LoopLevel 4) : (u.setBank l b).ir = u.ir := rfl
@[simp] theorem Core.setBank_sel (u : Core) (l : BitVec 2) (b : Vector LoopLevel 4) : (u.setBank l b).sel = u.sel := rfl
@[simp] theorem Core.setBank_ctl (u : Core) (l : BitVec 2) (b : Vector LoopLevel 4) : (u.setBank l b).ctl = u.ctl := rfl
@[simp] theorem Core.setBank_tds (u : Core) (l : BitVec 2) (b : Vector LoopLevel 4) : (u.setBank l b).tds = u.tds := rfl
@[simp] theorem Core.setBank_xs (u : Core) (l : BitVec 2) (b : Vector LoopLevel 4) : (u.setBank l b).xs = u.xs := rfl
@[simp] theorem Core.setBank_cpe (u : Core) (l : BitVec 2) (b : Vector LoopLevel 4) : (u.setBank l b).cpe = u.cpe := rfl
@[simp] theorem Core.setBank_mat (u : Core) (l : BitVec 2) (b : Vector LoopLevel 4) : (u.setBank l b).mat = u.mat := rfl
@[simp] theorem Core.setBank_vec (u : Core) (l : BitVec 2) (b : Vector LoopLevel 4) : (u.setBank l b).vec = u.vec := rfl
@[simp] theorem Core.setBank_outgoing (u : Core) (l : BitVec 2) (b : Vector LoopLevel 4) : (u.setBank l b).outgoing = u.outgoing := rfl
@[simp] theorem Core.setBank_codebook (u : Core) (l : BitVec 2) (b : Vector LoopLevel 4) : (u.setBank l b).codebook = u.codebook := rfl
@[simp] theorem Core.setBank_seq (u : Core) (l : BitVec 2) (b : Vector LoopLevel 4) : (u.setBank l b).seq = u.seq := rfl
@[simp] theorem Core.setBank_cmds (u : Core) (l : BitVec 2) (b : Vector LoopLevel 4) : (u.setBank l b).cmds = u.cmds := rfl
@[simp] theorem Core.setBank_stores (u : Core) (l : BitVec 2) (b : Vector LoopLevel 4) : (u.setBank l b).stores = u.stores := rfl
@[simp] theorem Core.setBank_pend (u : Core) (l : BitVec 2) (b : Vector LoopLevel 4) : (u.setBank l b).pend = u.pend := rfl
@[simp] theorem Core.setBank_loads (u : Core) (l : BitVec 2) (b : Vector LoopLevel 4) : (u.setBank l b).loads = u.loads := rfl
@[simp] theorem Core.setBank_l1 (u : Core) (l : BitVec 2) (b : Vector LoopLevel 4) : (u.setBank l b).l1 = u.l1 := rfl
@[simp] theorem Core.setBank_fetchBuf (u : Core) (l : BitVec 2) (b : Vector LoopLevel 4) : (u.setBank l b).fetchBuf = u.fetchBuf := rfl
@[simp] theorem Core.setBank_dict (u : Core) (l : BitVec 2) (b : Vector LoopLevel 4) : (u.setBank l b).dict = u.dict := rfl
@[simp] theorem Core.setBank_tcache (u : Core) (l : BitVec 2) (b : Vector LoopLevel 4) : (u.setBank l b).tcache = u.tcache := rfl
@[simp] theorem Core.setBank_cpeTcache (u : Core) (l : BitVec 2) (b : Vector LoopLevel 4) : (u.setBank l b).cpeTcache = u.cpeTcache := rfl
@[simp] theorem Core.setBank_stall (u : Core) (l : BitVec 2) (b : Vector LoopLevel 4) : (u.setBank l b).stall = u.stall := rfl
@[simp] theorem Core.setBank_unit (u : Core) (l : BitVec 2) (b : Vector LoopLevel 4) : (u.setBank l b).unit = u.unit := rfl
@[simp] theorem Core.setBank_lastCtx (u : Core) (l : BitVec 2) (b : Vector LoopLevel 4) : (u.setBank l b).lastCtx = u.lastCtx := rfl
@[simp] theorem Core.setBank_reached (u : Core) (l : BitVec 2) (b : Vector LoopLevel 4) : (u.setBank l b).reached = u.reached := rfl
@[simp] theorem Core.setBank_faults (u : Core) (l : BitVec 2) (b : Vector LoopLevel 4) : (u.setBank l b).faults = u.faults := rfl
@[simp] theorem Core.setBank_outOfService (u : Core) (l : BitVec 2) (b : Vector LoopLevel 4) : (u.setBank l b).outOfService = u.outOfService := rfl
@[simp] theorem Core.setBank_heldFor (u : Core) (l : BitVec 2) (b : Vector LoopLevel 4) : (u.setBank l b).heldFor = u.heldFor := rfl
@[simp] theorem Core.setBank_starting (u : Core) (l : BitVec 2) (b : Vector LoopLevel 4) : (u.setBank l b).starting = u.starting := rfl
@[simp] theorem Core.setBank_badLocal (u : Core) (l : BitVec 2) (b : Vector LoopLevel 4) : (u.setBank l b).badLocal = u.badLocal := rfl
@[simp] theorem Core.setBank_badWb (u : Core) (l : BitVec 2) (b : Vector LoopLevel 4) : (u.setBank l b).badWb = u.badWb := rfl

@[simp] theorem Core.countEvent_regs (u : Core) (code n : Nat) : (u.countEvent code n).regs = u.regs := rfl
@[simp] theorem Core.countEvent_pc (u : Core) (code n : Nat) : (u.countEvent code n).pc = u.pc := rfl
@[simp] theorem Core.countEvent_ssp (u : Core) (code n : Nat) : (u.countEvent code n).ssp = u.ssp := rfl
@[simp] theorem Core.countEvent_ir (u : Core) (code n : Nat) : (u.countEvent code n).ir = u.ir := rfl
@[simp] theorem Core.countEvent_sel (u : Core) (code n : Nat) : (u.countEvent code n).sel = u.sel := rfl
@[simp] theorem Core.countEvent_loops (u : Core) (code n : Nat) : (u.countEvent code n).loops = u.loops := rfl
@[simp] theorem Core.countEvent_tds (u : Core) (code n : Nat) : (u.countEvent code n).tds = u.tds := rfl
@[simp] theorem Core.countEvent_xs (u : Core) (code n : Nat) : (u.countEvent code n).xs = u.xs := rfl
@[simp] theorem Core.countEvent_cpe (u : Core) (code n : Nat) : (u.countEvent code n).cpe = u.cpe := rfl
@[simp] theorem Core.countEvent_mat (u : Core) (code n : Nat) : (u.countEvent code n).mat = u.mat := rfl
@[simp] theorem Core.countEvent_vec (u : Core) (code n : Nat) : (u.countEvent code n).vec = u.vec := rfl
@[simp] theorem Core.countEvent_outgoing (u : Core) (code n : Nat) : (u.countEvent code n).outgoing = u.outgoing := rfl
@[simp] theorem Core.countEvent_codebook (u : Core) (code n : Nat) : (u.countEvent code n).codebook = u.codebook := rfl
@[simp] theorem Core.countEvent_seq (u : Core) (code n : Nat) : (u.countEvent code n).seq = u.seq := rfl
@[simp] theorem Core.countEvent_cmds (u : Core) (code n : Nat) : (u.countEvent code n).cmds = u.cmds := rfl
@[simp] theorem Core.countEvent_stores (u : Core) (code n : Nat) : (u.countEvent code n).stores = u.stores := rfl
@[simp] theorem Core.countEvent_pend (u : Core) (code n : Nat) : (u.countEvent code n).pend = u.pend := rfl
@[simp] theorem Core.countEvent_loads (u : Core) (code n : Nat) : (u.countEvent code n).loads = u.loads := rfl
@[simp] theorem Core.countEvent_l1 (u : Core) (code n : Nat) : (u.countEvent code n).l1 = u.l1 := rfl
@[simp] theorem Core.countEvent_fetchBuf (u : Core) (code n : Nat) : (u.countEvent code n).fetchBuf = u.fetchBuf := rfl
@[simp] theorem Core.countEvent_dict (u : Core) (code n : Nat) : (u.countEvent code n).dict = u.dict := rfl
@[simp] theorem Core.countEvent_tcache (u : Core) (code n : Nat) : (u.countEvent code n).tcache = u.tcache := rfl
@[simp] theorem Core.countEvent_cpeTcache (u : Core) (code n : Nat) : (u.countEvent code n).cpeTcache = u.cpeTcache := rfl
@[simp] theorem Core.countEvent_stall (u : Core) (code n : Nat) : (u.countEvent code n).stall = u.stall := rfl
@[simp] theorem Core.countEvent_unit (u : Core) (code n : Nat) : (u.countEvent code n).unit = u.unit := rfl
@[simp] theorem Core.countEvent_lastCtx (u : Core) (code n : Nat) : (u.countEvent code n).lastCtx = u.lastCtx := rfl
@[simp] theorem Core.countEvent_reached (u : Core) (code n : Nat) : (u.countEvent code n).reached = u.reached := rfl
@[simp] theorem Core.countEvent_faults (u : Core) (code n : Nat) : (u.countEvent code n).faults = u.faults := rfl
@[simp] theorem Core.countEvent_outOfService (u : Core) (code n : Nat) : (u.countEvent code n).outOfService = u.outOfService := rfl
@[simp] theorem Core.countEvent_heldFor (u : Core) (code n : Nat) : (u.countEvent code n).heldFor = u.heldFor := rfl
@[simp] theorem Core.countEvent_starting (u : Core) (code n : Nat) : (u.countEvent code n).starting = u.starting := rfl
@[simp] theorem Core.countEvent_badLocal (u : Core) (code n : Nat) : (u.countEvent code n).badLocal = u.badLocal := rfl
@[simp] theorem Core.countEvent_badWb (u : Core) (code n : Nat) : (u.countEvent code n).badWb = u.badWb := rfl

@[simp] theorem Core.countEvent_ctl (u : Core) (code n : Nat) : (u.countEvent code n).ctl = u.ctl.countEvent code n := rfl

@[simp] theorem Core.done_regs (u : Core) : (u.done).regs = u.regs := by unfold Core.done; simp only []; split <;> rfl
@[simp] theorem Core.done_ssp (u : Core) : (u.done).ssp = u.ssp := by unfold Core.done; simp only []; split <;> rfl
@[simp] theorem Core.done_ir (u : Core) : (u.done).ir = u.ir := by unfold Core.done; simp only []; split <;> rfl
@[simp] theorem Core.done_tds (u : Core) : (u.done).tds = u.tds := by unfold Core.done; simp only []; split <;> rfl
@[simp] theorem Core.done_xs (u : Core) : (u.done).xs = u.xs := by unfold Core.done; simp only []; split <;> rfl
@[simp] theorem Core.done_cpe (u : Core) : (u.done).cpe = u.cpe := by unfold Core.done; simp only []; split <;> rfl
@[simp] theorem Core.done_mat (u : Core) : (u.done).mat = u.mat := by unfold Core.done; simp only []; split <;> rfl
@[simp] theorem Core.done_vec (u : Core) : (u.done).vec = u.vec := by unfold Core.done; simp only []; split <;> rfl
@[simp] theorem Core.done_outgoing (u : Core) : (u.done).outgoing = u.outgoing := by unfold Core.done; simp only []; split <;> rfl
@[simp] theorem Core.done_codebook (u : Core) : (u.done).codebook = u.codebook := by unfold Core.done; simp only []; split <;> rfl
@[simp] theorem Core.done_seq (u : Core) : (u.done).seq = u.seq := by unfold Core.done; simp only []; split <;> rfl
@[simp] theorem Core.done_cmds (u : Core) : (u.done).cmds = u.cmds := by unfold Core.done; simp only []; split <;> rfl
@[simp] theorem Core.done_stores (u : Core) : (u.done).stores = u.stores := by unfold Core.done; simp only []; split <;> rfl
@[simp] theorem Core.done_loads (u : Core) : (u.done).loads = u.loads := by unfold Core.done; simp only []; split <;> rfl
@[simp] theorem Core.done_l1 (u : Core) : (u.done).l1 = u.l1 := by unfold Core.done; simp only []; split <;> rfl
@[simp] theorem Core.done_fetchBuf (u : Core) : (u.done).fetchBuf = u.fetchBuf := by unfold Core.done; simp only []; split <;> rfl
@[simp] theorem Core.done_dict (u : Core) : (u.done).dict = u.dict := by unfold Core.done; simp only []; split <;> rfl
@[simp] theorem Core.done_tcache (u : Core) : (u.done).tcache = u.tcache := by unfold Core.done; simp only []; split <;> rfl
@[simp] theorem Core.done_cpeTcache (u : Core) : (u.done).cpeTcache = u.cpeTcache := by unfold Core.done; simp only []; split <;> rfl
@[simp] theorem Core.done_unit (u : Core) : (u.done).unit = u.unit := by unfold Core.done; simp only []; split <;> rfl
@[simp] theorem Core.done_lastCtx (u : Core) : (u.done).lastCtx = u.lastCtx := by unfold Core.done; simp only []; split <;> rfl
@[simp] theorem Core.done_reached (u : Core) : (u.done).reached = u.reached := by unfold Core.done; simp only []; split <;> rfl
@[simp] theorem Core.done_faults (u : Core) : (u.done).faults = u.faults := by unfold Core.done; simp only []; split <;> rfl
@[simp] theorem Core.done_outOfService (u : Core) : (u.done).outOfService = u.outOfService := by unfold Core.done; simp only []; split <;> rfl
@[simp] theorem Core.done_heldFor (u : Core) : (u.done).heldFor = u.heldFor := by unfold Core.done; simp only []; split <;> rfl
@[simp] theorem Core.done_starting (u : Core) : (u.done).starting = u.starting := by unfold Core.done; simp only []; split <;> rfl
@[simp] theorem Core.done_badLocal (u : Core) : (u.done).badLocal = u.badLocal := by unfold Core.done; simp only []; split <;> rfl
@[simp] theorem Core.done_badWb (u : Core) : (u.done).badWb = u.badWb := by unfold Core.done; simp only []; split <;> rfl

@[simp] theorem Core.done_ctl (u : Core) : u.done.ctl = u.ctl.countEvent 2 1 := by unfold Core.done; simp only []; split <;> rfl
@[simp] theorem Core.done_sel (u : Core) : u.done.sel = none := by unfold Core.done; simp only []; split <;> rfl
@[simp] theorem Core.done_stall (u : Core) : u.done.stall = .none := by unfold Core.done; simp only []; split <;> rfl
@[simp] theorem Core.done_pend (u : Core) : u.done.pend = none := by unfold Core.done; simp only []; split <;> rfl

@[simp] theorem Core.transfer_regs (u : Core) (t : Word) (call : Bool) : (u.transfer t call).regs = u.regs := rfl
@[simp] theorem Core.transfer_ssp (u : Core) (t : Word) (call : Bool) : (u.transfer t call).ssp = u.ssp := rfl
@[simp] theorem Core.transfer_ir (u : Core) (t : Word) (call : Bool) : (u.transfer t call).ir = u.ir := rfl
@[simp] theorem Core.transfer_tds (u : Core) (t : Word) (call : Bool) : (u.transfer t call).tds = u.tds := rfl
@[simp] theorem Core.transfer_xs (u : Core) (t : Word) (call : Bool) : (u.transfer t call).xs = u.xs := rfl
@[simp] theorem Core.transfer_cpe (u : Core) (t : Word) (call : Bool) : (u.transfer t call).cpe = u.cpe := rfl
@[simp] theorem Core.transfer_mat (u : Core) (t : Word) (call : Bool) : (u.transfer t call).mat = u.mat := rfl
@[simp] theorem Core.transfer_vec (u : Core) (t : Word) (call : Bool) : (u.transfer t call).vec = u.vec := rfl
@[simp] theorem Core.transfer_outgoing (u : Core) (t : Word) (call : Bool) : (u.transfer t call).outgoing = u.outgoing := rfl
@[simp] theorem Core.transfer_codebook (u : Core) (t : Word) (call : Bool) : (u.transfer t call).codebook = u.codebook := rfl
@[simp] theorem Core.transfer_seq (u : Core) (t : Word) (call : Bool) : (u.transfer t call).seq = u.seq := rfl
@[simp] theorem Core.transfer_cmds (u : Core) (t : Word) (call : Bool) : (u.transfer t call).cmds = u.cmds := rfl
@[simp] theorem Core.transfer_stores (u : Core) (t : Word) (call : Bool) : (u.transfer t call).stores = u.stores := rfl
@[simp] theorem Core.transfer_loads (u : Core) (t : Word) (call : Bool) : (u.transfer t call).loads = u.loads := rfl
@[simp] theorem Core.transfer_l1 (u : Core) (t : Word) (call : Bool) : (u.transfer t call).l1 = u.l1 := rfl
@[simp] theorem Core.transfer_fetchBuf (u : Core) (t : Word) (call : Bool) : (u.transfer t call).fetchBuf = u.fetchBuf := rfl
@[simp] theorem Core.transfer_dict (u : Core) (t : Word) (call : Bool) : (u.transfer t call).dict = u.dict := rfl
@[simp] theorem Core.transfer_tcache (u : Core) (t : Word) (call : Bool) : (u.transfer t call).tcache = u.tcache := rfl
@[simp] theorem Core.transfer_cpeTcache (u : Core) (t : Word) (call : Bool) : (u.transfer t call).cpeTcache = u.cpeTcache := rfl
@[simp] theorem Core.transfer_unit (u : Core) (t : Word) (call : Bool) : (u.transfer t call).unit = u.unit := rfl
@[simp] theorem Core.transfer_lastCtx (u : Core) (t : Word) (call : Bool) : (u.transfer t call).lastCtx = u.lastCtx := rfl
@[simp] theorem Core.transfer_reached (u : Core) (t : Word) (call : Bool) : (u.transfer t call).reached = u.reached := rfl
@[simp] theorem Core.transfer_faults (u : Core) (t : Word) (call : Bool) : (u.transfer t call).faults = u.faults := rfl
@[simp] theorem Core.transfer_outOfService (u : Core) (t : Word) (call : Bool) : (u.transfer t call).outOfService = u.outOfService := rfl
@[simp] theorem Core.transfer_heldFor (u : Core) (t : Word) (call : Bool) : (u.transfer t call).heldFor = u.heldFor := rfl
@[simp] theorem Core.transfer_starting (u : Core) (t : Word) (call : Bool) : (u.transfer t call).starting = u.starting := rfl
@[simp] theorem Core.transfer_badLocal (u : Core) (t : Word) (call : Bool) : (u.transfer t call).badLocal = u.badLocal := rfl
@[simp] theorem Core.transfer_badWb (u : Core) (t : Word) (call : Bool) : (u.transfer t call).badWb = u.badWb := rfl

@[simp] theorem Core.transfer_pc (u : Core) (t : Word) (call : Bool) : (u.transfer t call).pc = t := rfl
@[simp] theorem Core.transfer_ctl (u : Core) (t : Word) (call : Bool) : (u.transfer t call).ctl = u.ctl.countEvent 2 1 := rfl

@[simp] theorem Core.enterTrap_regs (u : Core) (tc ret tval : Word) : (u.enterTrap tc ret tval).regs = u.regs := rfl
@[simp] theorem Core.enterTrap_ssp (u : Core) (tc ret tval : Word) : (u.enterTrap tc ret tval).ssp = u.ssp := rfl
@[simp] theorem Core.enterTrap_ir (u : Core) (tc ret tval : Word) : (u.enterTrap tc ret tval).ir = u.ir := rfl
@[simp] theorem Core.enterTrap_tds (u : Core) (tc ret tval : Word) : (u.enterTrap tc ret tval).tds = u.tds := rfl
@[simp] theorem Core.enterTrap_xs (u : Core) (tc ret tval : Word) : (u.enterTrap tc ret tval).xs = u.xs := rfl
@[simp] theorem Core.enterTrap_cpe (u : Core) (tc ret tval : Word) : (u.enterTrap tc ret tval).cpe = u.cpe := rfl
@[simp] theorem Core.enterTrap_mat (u : Core) (tc ret tval : Word) : (u.enterTrap tc ret tval).mat = u.mat := rfl
@[simp] theorem Core.enterTrap_vec (u : Core) (tc ret tval : Word) : (u.enterTrap tc ret tval).vec = u.vec := rfl
@[simp] theorem Core.enterTrap_outgoing (u : Core) (tc ret tval : Word) : (u.enterTrap tc ret tval).outgoing = u.outgoing := rfl
@[simp] theorem Core.enterTrap_codebook (u : Core) (tc ret tval : Word) : (u.enterTrap tc ret tval).codebook = u.codebook := rfl
@[simp] theorem Core.enterTrap_seq (u : Core) (tc ret tval : Word) : (u.enterTrap tc ret tval).seq = u.seq := rfl
@[simp] theorem Core.enterTrap_cmds (u : Core) (tc ret tval : Word) : (u.enterTrap tc ret tval).cmds = u.cmds := rfl
@[simp] theorem Core.enterTrap_stores (u : Core) (tc ret tval : Word) : (u.enterTrap tc ret tval).stores = u.stores := rfl
@[simp] theorem Core.enterTrap_loads (u : Core) (tc ret tval : Word) : (u.enterTrap tc ret tval).loads = u.loads := rfl
@[simp] theorem Core.enterTrap_l1 (u : Core) (tc ret tval : Word) : (u.enterTrap tc ret tval).l1 = u.l1 := rfl
@[simp] theorem Core.enterTrap_fetchBuf (u : Core) (tc ret tval : Word) : (u.enterTrap tc ret tval).fetchBuf = u.fetchBuf := rfl
@[simp] theorem Core.enterTrap_dict (u : Core) (tc ret tval : Word) : (u.enterTrap tc ret tval).dict = u.dict := rfl
@[simp] theorem Core.enterTrap_tcache (u : Core) (tc ret tval : Word) : (u.enterTrap tc ret tval).tcache = u.tcache := rfl
@[simp] theorem Core.enterTrap_cpeTcache (u : Core) (tc ret tval : Word) : (u.enterTrap tc ret tval).cpeTcache = u.cpeTcache := rfl
@[simp] theorem Core.enterTrap_unit (u : Core) (tc ret tval : Word) : (u.enterTrap tc ret tval).unit = u.unit := rfl
@[simp] theorem Core.enterTrap_lastCtx (u : Core) (tc ret tval : Word) : (u.enterTrap tc ret tval).lastCtx = u.lastCtx := rfl
@[simp] theorem Core.enterTrap_reached (u : Core) (tc ret tval : Word) : (u.enterTrap tc ret tval).reached = u.reached := rfl
@[simp] theorem Core.enterTrap_faults (u : Core) (tc ret tval : Word) : (u.enterTrap tc ret tval).faults = u.faults := rfl
@[simp] theorem Core.enterTrap_outOfService (u : Core) (tc ret tval : Word) : (u.enterTrap tc ret tval).outOfService = u.outOfService := rfl
@[simp] theorem Core.enterTrap_heldFor (u : Core) (tc ret tval : Word) : (u.enterTrap tc ret tval).heldFor = u.heldFor := rfl
@[simp] theorem Core.enterTrap_starting (u : Core) (tc ret tval : Word) : (u.enterTrap tc ret tval).starting = u.starting := rfl
@[simp] theorem Core.enterTrap_badLocal (u : Core) (tc ret tval : Word) : (u.enterTrap tc ret tval).badLocal = u.badLocal := rfl
@[simp] theorem Core.enterTrap_badWb (u : Core) (tc ret tval : Word) : (u.enterTrap tc ret tval).badWb = u.badWb := rfl

@[simp] theorem Core.enterTrap_pc (u : Core) (tc ret tval : Word) : (u.enterTrap tc ret tval).pc = u.ctl.tvec := rfl

@[simp] theorem Core.leaveTrap_regs (u : Core) (t : Word) : (u.leaveTrap t).regs = u.regs := rfl
@[simp] theorem Core.leaveTrap_ssp (u : Core) (t : Word) : (u.leaveTrap t).ssp = u.ssp := rfl
@[simp] theorem Core.leaveTrap_ir (u : Core) (t : Word) : (u.leaveTrap t).ir = u.ir := rfl
@[simp] theorem Core.leaveTrap_loops (u : Core) (t : Word) : (u.leaveTrap t).loops = u.loops := rfl
@[simp] theorem Core.leaveTrap_tds (u : Core) (t : Word) : (u.leaveTrap t).tds = u.tds := rfl
@[simp] theorem Core.leaveTrap_xs (u : Core) (t : Word) : (u.leaveTrap t).xs = u.xs := rfl
@[simp] theorem Core.leaveTrap_outgoing (u : Core) (t : Word) : (u.leaveTrap t).outgoing = u.outgoing := rfl
@[simp] theorem Core.leaveTrap_codebook (u : Core) (t : Word) : (u.leaveTrap t).codebook = u.codebook := rfl
@[simp] theorem Core.leaveTrap_seq (u : Core) (t : Word) : (u.leaveTrap t).seq = u.seq := rfl
@[simp] theorem Core.leaveTrap_cmds (u : Core) (t : Word) : (u.leaveTrap t).cmds = u.cmds := rfl
@[simp] theorem Core.leaveTrap_stores (u : Core) (t : Word) : (u.leaveTrap t).stores = u.stores := rfl
@[simp] theorem Core.leaveTrap_loads (u : Core) (t : Word) : (u.leaveTrap t).loads = u.loads := rfl
@[simp] theorem Core.leaveTrap_l1 (u : Core) (t : Word) : (u.leaveTrap t).l1 = u.l1 := rfl
@[simp] theorem Core.leaveTrap_dict (u : Core) (t : Word) : (u.leaveTrap t).dict = u.dict := rfl
@[simp] theorem Core.leaveTrap_tcache (u : Core) (t : Word) : (u.leaveTrap t).tcache = u.tcache := rfl
@[simp] theorem Core.leaveTrap_cpeTcache (u : Core) (t : Word) : (u.leaveTrap t).cpeTcache = u.cpeTcache := rfl
@[simp] theorem Core.leaveTrap_unit (u : Core) (t : Word) : (u.leaveTrap t).unit = u.unit := rfl
@[simp] theorem Core.leaveTrap_lastCtx (u : Core) (t : Word) : (u.leaveTrap t).lastCtx = u.lastCtx := rfl
@[simp] theorem Core.leaveTrap_reached (u : Core) (t : Word) : (u.leaveTrap t).reached = u.reached := rfl
@[simp] theorem Core.leaveTrap_faults (u : Core) (t : Word) : (u.leaveTrap t).faults = u.faults := rfl
@[simp] theorem Core.leaveTrap_outOfService (u : Core) (t : Word) : (u.leaveTrap t).outOfService = u.outOfService := rfl
@[simp] theorem Core.leaveTrap_heldFor (u : Core) (t : Word) : (u.leaveTrap t).heldFor = u.heldFor := rfl
@[simp] theorem Core.leaveTrap_starting (u : Core) (t : Word) : (u.leaveTrap t).starting = u.starting := rfl
@[simp] theorem Core.leaveTrap_badLocal (u : Core) (t : Word) : (u.leaveTrap t).badLocal = u.badLocal := rfl
@[simp] theorem Core.leaveTrap_badWb (u : Core) (t : Word) : (u.leaveTrap t).badWb = u.badWb := rfl

@[simp] theorem Core.pushStore_regs (u : Core) (p : Word) (loc : Loc) (bs : List Byte) (cls pol : Nat) : (u.pushStore p loc bs cls pol).regs = u.regs := rfl
@[simp] theorem Core.pushStore_pc (u : Core) (p : Word) (loc : Loc) (bs : List Byte) (cls pol : Nat) : (u.pushStore p loc bs cls pol).pc = u.pc := rfl
@[simp] theorem Core.pushStore_ssp (u : Core) (p : Word) (loc : Loc) (bs : List Byte) (cls pol : Nat) : (u.pushStore p loc bs cls pol).ssp = u.ssp := rfl
@[simp] theorem Core.pushStore_ir (u : Core) (p : Word) (loc : Loc) (bs : List Byte) (cls pol : Nat) : (u.pushStore p loc bs cls pol).ir = u.ir := rfl
@[simp] theorem Core.pushStore_sel (u : Core) (p : Word) (loc : Loc) (bs : List Byte) (cls pol : Nat) : (u.pushStore p loc bs cls pol).sel = u.sel := rfl
@[simp] theorem Core.pushStore_loops (u : Core) (p : Word) (loc : Loc) (bs : List Byte) (cls pol : Nat) : (u.pushStore p loc bs cls pol).loops = u.loops := rfl
@[simp] theorem Core.pushStore_ctl (u : Core) (p : Word) (loc : Loc) (bs : List Byte) (cls pol : Nat) : (u.pushStore p loc bs cls pol).ctl = u.ctl := rfl
@[simp] theorem Core.pushStore_tds (u : Core) (p : Word) (loc : Loc) (bs : List Byte) (cls pol : Nat) : (u.pushStore p loc bs cls pol).tds = u.tds := rfl
@[simp] theorem Core.pushStore_xs (u : Core) (p : Word) (loc : Loc) (bs : List Byte) (cls pol : Nat) : (u.pushStore p loc bs cls pol).xs = u.xs := rfl
@[simp] theorem Core.pushStore_cpe (u : Core) (p : Word) (loc : Loc) (bs : List Byte) (cls pol : Nat) : (u.pushStore p loc bs cls pol).cpe = u.cpe := rfl
@[simp] theorem Core.pushStore_mat (u : Core) (p : Word) (loc : Loc) (bs : List Byte) (cls pol : Nat) : (u.pushStore p loc bs cls pol).mat = u.mat := rfl
@[simp] theorem Core.pushStore_vec (u : Core) (p : Word) (loc : Loc) (bs : List Byte) (cls pol : Nat) : (u.pushStore p loc bs cls pol).vec = u.vec := rfl
@[simp] theorem Core.pushStore_outgoing (u : Core) (p : Word) (loc : Loc) (bs : List Byte) (cls pol : Nat) : (u.pushStore p loc bs cls pol).outgoing = u.outgoing := rfl
@[simp] theorem Core.pushStore_codebook (u : Core) (p : Word) (loc : Loc) (bs : List Byte) (cls pol : Nat) : (u.pushStore p loc bs cls pol).codebook = u.codebook := rfl
@[simp] theorem Core.pushStore_cmds (u : Core) (p : Word) (loc : Loc) (bs : List Byte) (cls pol : Nat) : (u.pushStore p loc bs cls pol).cmds = u.cmds := rfl
@[simp] theorem Core.pushStore_pend (u : Core) (p : Word) (loc : Loc) (bs : List Byte) (cls pol : Nat) : (u.pushStore p loc bs cls pol).pend = u.pend := rfl
@[simp] theorem Core.pushStore_loads (u : Core) (p : Word) (loc : Loc) (bs : List Byte) (cls pol : Nat) : (u.pushStore p loc bs cls pol).loads = u.loads := rfl
@[simp] theorem Core.pushStore_l1 (u : Core) (p : Word) (loc : Loc) (bs : List Byte) (cls pol : Nat) : (u.pushStore p loc bs cls pol).l1 = u.l1 := rfl
@[simp] theorem Core.pushStore_fetchBuf (u : Core) (p : Word) (loc : Loc) (bs : List Byte) (cls pol : Nat) : (u.pushStore p loc bs cls pol).fetchBuf = u.fetchBuf := rfl
@[simp] theorem Core.pushStore_dict (u : Core) (p : Word) (loc : Loc) (bs : List Byte) (cls pol : Nat) : (u.pushStore p loc bs cls pol).dict = u.dict := rfl
@[simp] theorem Core.pushStore_tcache (u : Core) (p : Word) (loc : Loc) (bs : List Byte) (cls pol : Nat) : (u.pushStore p loc bs cls pol).tcache = u.tcache := rfl
@[simp] theorem Core.pushStore_cpeTcache (u : Core) (p : Word) (loc : Loc) (bs : List Byte) (cls pol : Nat) : (u.pushStore p loc bs cls pol).cpeTcache = u.cpeTcache := rfl
@[simp] theorem Core.pushStore_stall (u : Core) (p : Word) (loc : Loc) (bs : List Byte) (cls pol : Nat) : (u.pushStore p loc bs cls pol).stall = u.stall := rfl
@[simp] theorem Core.pushStore_unit (u : Core) (p : Word) (loc : Loc) (bs : List Byte) (cls pol : Nat) : (u.pushStore p loc bs cls pol).unit = u.unit := rfl
@[simp] theorem Core.pushStore_lastCtx (u : Core) (p : Word) (loc : Loc) (bs : List Byte) (cls pol : Nat) : (u.pushStore p loc bs cls pol).lastCtx = u.lastCtx := rfl
@[simp] theorem Core.pushStore_reached (u : Core) (p : Word) (loc : Loc) (bs : List Byte) (cls pol : Nat) : (u.pushStore p loc bs cls pol).reached = u.reached := rfl
@[simp] theorem Core.pushStore_faults (u : Core) (p : Word) (loc : Loc) (bs : List Byte) (cls pol : Nat) : (u.pushStore p loc bs cls pol).faults = u.faults := rfl
@[simp] theorem Core.pushStore_outOfService (u : Core) (p : Word) (loc : Loc) (bs : List Byte) (cls pol : Nat) : (u.pushStore p loc bs cls pol).outOfService = u.outOfService := rfl
@[simp] theorem Core.pushStore_heldFor (u : Core) (p : Word) (loc : Loc) (bs : List Byte) (cls pol : Nat) : (u.pushStore p loc bs cls pol).heldFor = u.heldFor := rfl
@[simp] theorem Core.pushStore_starting (u : Core) (p : Word) (loc : Loc) (bs : List Byte) (cls pol : Nat) : (u.pushStore p loc bs cls pol).starting = u.starting := rfl
@[simp] theorem Core.pushStore_badLocal (u : Core) (p : Word) (loc : Loc) (bs : List Byte) (cls pol : Nat) : (u.pushStore p loc bs cls pol).badLocal = u.badLocal := rfl
@[simp] theorem Core.pushStore_badWb (u : Core) (p : Word) (loc : Loc) (bs : List Byte) (cls pol : Nat) : (u.pushStore p loc bs cls pol).badWb = u.badWb := rfl

@[simp] theorem Core.setEngine_regs (u : Core) (e : EngId) (x : Engine) : (u.setEngine e x).regs = u.regs := by cases e <;> rfl
@[simp] theorem Core.setEngine_pc (u : Core) (e : EngId) (x : Engine) : (u.setEngine e x).pc = u.pc := by cases e <;> rfl
@[simp] theorem Core.setEngine_ssp (u : Core) (e : EngId) (x : Engine) : (u.setEngine e x).ssp = u.ssp := by cases e <;> rfl
@[simp] theorem Core.setEngine_ir (u : Core) (e : EngId) (x : Engine) : (u.setEngine e x).ir = u.ir := by cases e <;> rfl
@[simp] theorem Core.setEngine_sel (u : Core) (e : EngId) (x : Engine) : (u.setEngine e x).sel = u.sel := by cases e <;> rfl
@[simp] theorem Core.setEngine_loops (u : Core) (e : EngId) (x : Engine) : (u.setEngine e x).loops = u.loops := by cases e <;> rfl
@[simp] theorem Core.setEngine_ctl (u : Core) (e : EngId) (x : Engine) : (u.setEngine e x).ctl = u.ctl := by cases e <;> rfl
@[simp] theorem Core.setEngine_tds (u : Core) (e : EngId) (x : Engine) : (u.setEngine e x).tds = u.tds := by cases e <;> rfl
@[simp] theorem Core.setEngine_xs (u : Core) (e : EngId) (x : Engine) : (u.setEngine e x).xs = u.xs := by cases e <;> rfl
@[simp] theorem Core.setEngine_outgoing (u : Core) (e : EngId) (x : Engine) : (u.setEngine e x).outgoing = u.outgoing := by cases e <;> rfl
@[simp] theorem Core.setEngine_codebook (u : Core) (e : EngId) (x : Engine) : (u.setEngine e x).codebook = u.codebook := by cases e <;> rfl
@[simp] theorem Core.setEngine_seq (u : Core) (e : EngId) (x : Engine) : (u.setEngine e x).seq = u.seq := by cases e <;> rfl
@[simp] theorem Core.setEngine_cmds (u : Core) (e : EngId) (x : Engine) : (u.setEngine e x).cmds = u.cmds := by cases e <;> rfl
@[simp] theorem Core.setEngine_stores (u : Core) (e : EngId) (x : Engine) : (u.setEngine e x).stores = u.stores := by cases e <;> rfl
@[simp] theorem Core.setEngine_pend (u : Core) (e : EngId) (x : Engine) : (u.setEngine e x).pend = u.pend := by cases e <;> rfl
@[simp] theorem Core.setEngine_loads (u : Core) (e : EngId) (x : Engine) : (u.setEngine e x).loads = u.loads := by cases e <;> rfl
@[simp] theorem Core.setEngine_l1 (u : Core) (e : EngId) (x : Engine) : (u.setEngine e x).l1 = u.l1 := by cases e <;> rfl
@[simp] theorem Core.setEngine_fetchBuf (u : Core) (e : EngId) (x : Engine) : (u.setEngine e x).fetchBuf = u.fetchBuf := by cases e <;> rfl
@[simp] theorem Core.setEngine_dict (u : Core) (e : EngId) (x : Engine) : (u.setEngine e x).dict = u.dict := by cases e <;> rfl
@[simp] theorem Core.setEngine_tcache (u : Core) (e : EngId) (x : Engine) : (u.setEngine e x).tcache = u.tcache := by cases e <;> rfl
@[simp] theorem Core.setEngine_cpeTcache (u : Core) (e : EngId) (x : Engine) : (u.setEngine e x).cpeTcache = u.cpeTcache := by cases e <;> rfl
@[simp] theorem Core.setEngine_stall (u : Core) (e : EngId) (x : Engine) : (u.setEngine e x).stall = u.stall := by cases e <;> rfl
@[simp] theorem Core.setEngine_unit (u : Core) (e : EngId) (x : Engine) : (u.setEngine e x).unit = u.unit := by cases e <;> rfl
@[simp] theorem Core.setEngine_lastCtx (u : Core) (e : EngId) (x : Engine) : (u.setEngine e x).lastCtx = u.lastCtx := by cases e <;> rfl
@[simp] theorem Core.setEngine_reached (u : Core) (e : EngId) (x : Engine) : (u.setEngine e x).reached = u.reached := by cases e <;> rfl
@[simp] theorem Core.setEngine_faults (u : Core) (e : EngId) (x : Engine) : (u.setEngine e x).faults = u.faults := by cases e <;> rfl
@[simp] theorem Core.setEngine_outOfService (u : Core) (e : EngId) (x : Engine) : (u.setEngine e x).outOfService = u.outOfService := by cases e <;> rfl
@[simp] theorem Core.setEngine_heldFor (u : Core) (e : EngId) (x : Engine) : (u.setEngine e x).heldFor = u.heldFor := by cases e <;> rfl
@[simp] theorem Core.setEngine_starting (u : Core) (e : EngId) (x : Engine) : (u.setEngine e x).starting = u.starting := by cases e <;> rfl
@[simp] theorem Core.setEngine_badLocal (u : Core) (e : EngId) (x : Engine) : (u.setEngine e x).badLocal = u.badLocal := by cases e <;> rfl
@[simp] theorem Core.setEngine_badWb (u : Core) (e : EngId) (x : Engine) : (u.setEngine e x).badWb = u.badWb := by cases e <;> rfl

@[simp] theorem Core.modEngine_regs (u : Core) (e : EngId) (f : Engine → Engine) : (u.modEngine e f).regs = u.regs := by cases e <;> rfl
@[simp] theorem Core.modEngine_pc (u : Core) (e : EngId) (f : Engine → Engine) : (u.modEngine e f).pc = u.pc := by cases e <;> rfl
@[simp] theorem Core.modEngine_ssp (u : Core) (e : EngId) (f : Engine → Engine) : (u.modEngine e f).ssp = u.ssp := by cases e <;> rfl
@[simp] theorem Core.modEngine_ir (u : Core) (e : EngId) (f : Engine → Engine) : (u.modEngine e f).ir = u.ir := by cases e <;> rfl
@[simp] theorem Core.modEngine_sel (u : Core) (e : EngId) (f : Engine → Engine) : (u.modEngine e f).sel = u.sel := by cases e <;> rfl
@[simp] theorem Core.modEngine_loops (u : Core) (e : EngId) (f : Engine → Engine) : (u.modEngine e f).loops = u.loops := by cases e <;> rfl
@[simp] theorem Core.modEngine_ctl (u : Core) (e : EngId) (f : Engine → Engine) : (u.modEngine e f).ctl = u.ctl := by cases e <;> rfl
@[simp] theorem Core.modEngine_tds (u : Core) (e : EngId) (f : Engine → Engine) : (u.modEngine e f).tds = u.tds := by cases e <;> rfl
@[simp] theorem Core.modEngine_xs (u : Core) (e : EngId) (f : Engine → Engine) : (u.modEngine e f).xs = u.xs := by cases e <;> rfl
@[simp] theorem Core.modEngine_outgoing (u : Core) (e : EngId) (f : Engine → Engine) : (u.modEngine e f).outgoing = u.outgoing := by cases e <;> rfl
@[simp] theorem Core.modEngine_codebook (u : Core) (e : EngId) (f : Engine → Engine) : (u.modEngine e f).codebook = u.codebook := by cases e <;> rfl
@[simp] theorem Core.modEngine_seq (u : Core) (e : EngId) (f : Engine → Engine) : (u.modEngine e f).seq = u.seq := by cases e <;> rfl
@[simp] theorem Core.modEngine_cmds (u : Core) (e : EngId) (f : Engine → Engine) : (u.modEngine e f).cmds = u.cmds := by cases e <;> rfl
@[simp] theorem Core.modEngine_stores (u : Core) (e : EngId) (f : Engine → Engine) : (u.modEngine e f).stores = u.stores := by cases e <;> rfl
@[simp] theorem Core.modEngine_pend (u : Core) (e : EngId) (f : Engine → Engine) : (u.modEngine e f).pend = u.pend := by cases e <;> rfl
@[simp] theorem Core.modEngine_loads (u : Core) (e : EngId) (f : Engine → Engine) : (u.modEngine e f).loads = u.loads := by cases e <;> rfl
@[simp] theorem Core.modEngine_l1 (u : Core) (e : EngId) (f : Engine → Engine) : (u.modEngine e f).l1 = u.l1 := by cases e <;> rfl
@[simp] theorem Core.modEngine_fetchBuf (u : Core) (e : EngId) (f : Engine → Engine) : (u.modEngine e f).fetchBuf = u.fetchBuf := by cases e <;> rfl
@[simp] theorem Core.modEngine_dict (u : Core) (e : EngId) (f : Engine → Engine) : (u.modEngine e f).dict = u.dict := by cases e <;> rfl
@[simp] theorem Core.modEngine_tcache (u : Core) (e : EngId) (f : Engine → Engine) : (u.modEngine e f).tcache = u.tcache := by cases e <;> rfl
@[simp] theorem Core.modEngine_cpeTcache (u : Core) (e : EngId) (f : Engine → Engine) : (u.modEngine e f).cpeTcache = u.cpeTcache := by cases e <;> rfl
@[simp] theorem Core.modEngine_stall (u : Core) (e : EngId) (f : Engine → Engine) : (u.modEngine e f).stall = u.stall := by cases e <;> rfl
@[simp] theorem Core.modEngine_unit (u : Core) (e : EngId) (f : Engine → Engine) : (u.modEngine e f).unit = u.unit := by cases e <;> rfl
@[simp] theorem Core.modEngine_lastCtx (u : Core) (e : EngId) (f : Engine → Engine) : (u.modEngine e f).lastCtx = u.lastCtx := by cases e <;> rfl
@[simp] theorem Core.modEngine_reached (u : Core) (e : EngId) (f : Engine → Engine) : (u.modEngine e f).reached = u.reached := by cases e <;> rfl
@[simp] theorem Core.modEngine_faults (u : Core) (e : EngId) (f : Engine → Engine) : (u.modEngine e f).faults = u.faults := by cases e <;> rfl
@[simp] theorem Core.modEngine_outOfService (u : Core) (e : EngId) (f : Engine → Engine) : (u.modEngine e f).outOfService = u.outOfService := by cases e <;> rfl
@[simp] theorem Core.modEngine_heldFor (u : Core) (e : EngId) (f : Engine → Engine) : (u.modEngine e f).heldFor = u.heldFor := by cases e <;> rfl
@[simp] theorem Core.modEngine_starting (u : Core) (e : EngId) (f : Engine → Engine) : (u.modEngine e f).starting = u.starting := by cases e <;> rfl
@[simp] theorem Core.modEngine_badLocal (u : Core) (e : EngId) (f : Engine → Engine) : (u.modEngine e f).badLocal = u.badLocal := by cases e <;> rfl
@[simp] theorem Core.modEngine_badWb (u : Core) (e : EngId) (f : Engine → Engine) : (u.modEngine e f).badWb = u.badWb := by cases e <;> rfl

@[simp] theorem Core.queueCmd_regs (u : Core) (e : EngId) (c : Cmd) : (u.queueCmd e c).regs = u.regs := by cases e <;> rfl
@[simp] theorem Core.queueCmd_pc (u : Core) (e : EngId) (c : Cmd) : (u.queueCmd e c).pc = u.pc := by cases e <;> rfl
@[simp] theorem Core.queueCmd_ssp (u : Core) (e : EngId) (c : Cmd) : (u.queueCmd e c).ssp = u.ssp := by cases e <;> rfl
@[simp] theorem Core.queueCmd_ir (u : Core) (e : EngId) (c : Cmd) : (u.queueCmd e c).ir = u.ir := by cases e <;> rfl
@[simp] theorem Core.queueCmd_sel (u : Core) (e : EngId) (c : Cmd) : (u.queueCmd e c).sel = u.sel := by cases e <;> rfl
@[simp] theorem Core.queueCmd_loops (u : Core) (e : EngId) (c : Cmd) : (u.queueCmd e c).loops = u.loops := by cases e <;> rfl
@[simp] theorem Core.queueCmd_ctl (u : Core) (e : EngId) (c : Cmd) : (u.queueCmd e c).ctl = u.ctl := by cases e <;> rfl
@[simp] theorem Core.queueCmd_tds (u : Core) (e : EngId) (c : Cmd) : (u.queueCmd e c).tds = u.tds := by cases e <;> rfl
@[simp] theorem Core.queueCmd_xs (u : Core) (e : EngId) (c : Cmd) : (u.queueCmd e c).xs = u.xs := by cases e <;> rfl
@[simp] theorem Core.queueCmd_outgoing (u : Core) (e : EngId) (c : Cmd) : (u.queueCmd e c).outgoing = u.outgoing := by cases e <;> rfl
@[simp] theorem Core.queueCmd_codebook (u : Core) (e : EngId) (c : Cmd) : (u.queueCmd e c).codebook = u.codebook := by cases e <;> rfl
@[simp] theorem Core.queueCmd_stores (u : Core) (e : EngId) (c : Cmd) : (u.queueCmd e c).stores = u.stores := by cases e <;> rfl
@[simp] theorem Core.queueCmd_pend (u : Core) (e : EngId) (c : Cmd) : (u.queueCmd e c).pend = u.pend := by cases e <;> rfl
@[simp] theorem Core.queueCmd_loads (u : Core) (e : EngId) (c : Cmd) : (u.queueCmd e c).loads = u.loads := by cases e <;> rfl
@[simp] theorem Core.queueCmd_l1 (u : Core) (e : EngId) (c : Cmd) : (u.queueCmd e c).l1 = u.l1 := by cases e <;> rfl
@[simp] theorem Core.queueCmd_fetchBuf (u : Core) (e : EngId) (c : Cmd) : (u.queueCmd e c).fetchBuf = u.fetchBuf := by cases e <;> rfl
@[simp] theorem Core.queueCmd_dict (u : Core) (e : EngId) (c : Cmd) : (u.queueCmd e c).dict = u.dict := by cases e <;> rfl
@[simp] theorem Core.queueCmd_tcache (u : Core) (e : EngId) (c : Cmd) : (u.queueCmd e c).tcache = u.tcache := by cases e <;> rfl
@[simp] theorem Core.queueCmd_cpeTcache (u : Core) (e : EngId) (c : Cmd) : (u.queueCmd e c).cpeTcache = u.cpeTcache := by cases e <;> rfl
@[simp] theorem Core.queueCmd_stall (u : Core) (e : EngId) (c : Cmd) : (u.queueCmd e c).stall = u.stall := by cases e <;> rfl
@[simp] theorem Core.queueCmd_unit (u : Core) (e : EngId) (c : Cmd) : (u.queueCmd e c).unit = u.unit := by cases e <;> rfl
@[simp] theorem Core.queueCmd_lastCtx (u : Core) (e : EngId) (c : Cmd) : (u.queueCmd e c).lastCtx = u.lastCtx := by cases e <;> rfl
@[simp] theorem Core.queueCmd_reached (u : Core) (e : EngId) (c : Cmd) : (u.queueCmd e c).reached = u.reached := by cases e <;> rfl
@[simp] theorem Core.queueCmd_faults (u : Core) (e : EngId) (c : Cmd) : (u.queueCmd e c).faults = u.faults := by cases e <;> rfl
@[simp] theorem Core.queueCmd_outOfService (u : Core) (e : EngId) (c : Cmd) : (u.queueCmd e c).outOfService = u.outOfService := by cases e <;> rfl
@[simp] theorem Core.queueCmd_heldFor (u : Core) (e : EngId) (c : Cmd) : (u.queueCmd e c).heldFor = u.heldFor := by cases e <;> rfl
@[simp] theorem Core.queueCmd_starting (u : Core) (e : EngId) (c : Cmd) : (u.queueCmd e c).starting = u.starting := by cases e <;> rfl
@[simp] theorem Core.queueCmd_badLocal (u : Core) (e : EngId) (c : Cmd) : (u.queueCmd e c).badLocal = u.badLocal := by cases e <;> rfl
@[simp] theorem Core.queueCmd_badWb (u : Core) (e : EngId) (c : Cmd) : (u.queueCmd e c).badWb = u.badWb := by cases e <;> rfl

@[simp] theorem Ctl.countEvent_tlevel (u : Ctl) (code n : Nat) : (u.countEvent code n).tlevel = u.tlevel := by unfold Ctl.countEvent; split <;> rfl
@[simp] theorem Ctl.countEvent_tcause1 (u : Ctl) (code n : Nat) : (u.countEvent code n).tcause1 = u.tcause1 := by unfold Ctl.countEvent; split <;> rfl
@[simp] theorem Ctl.countEvent_tcause2 (u : Ctl) (code n : Nat) : (u.countEvent code n).tcause2 = u.tcause2 := by unfold Ctl.countEvent; split <;> rfl
@[simp] theorem Ctl.countEvent_tret1 (u : Ctl) (code n : Nat) : (u.countEvent code n).tret1 = u.tret1 := by unfold Ctl.countEvent; split <;> rfl
@[simp] theorem Ctl.countEvent_tret2 (u : Ctl) (code n : Nat) : (u.countEvent code n).tret2 = u.tret2 := by unfold Ctl.countEvent; split <;> rfl
@[simp] theorem Ctl.countEvent_tval1 (u : Ctl) (code n : Nat) : (u.countEvent code n).tval1 = u.tval1 := by unfold Ctl.countEvent; split <;> rfl
@[simp] theorem Ctl.countEvent_tval2 (u : Ctl) (code n : Nat) : (u.countEvent code n).tval2 = u.tval2 := by unfold Ctl.countEvent; split <;> rfl
@[simp] theorem Ctl.countEvent_tscr1 (u : Ctl) (code n : Nat) : (u.countEvent code n).tscr1 = u.tscr1 := by unfold Ctl.countEvent; split <;> rfl
@[simp] theorem Ctl.countEvent_tscr2 (u : Ctl) (code n : Nat) : (u.countEvent code n).tscr2 = u.tscr2 := by unfold Ctl.countEvent; split <;> rfl
@[simp] theorem Ctl.countEvent_tvec (u : Ctl) (code n : Nat) : (u.countEvent code n).tvec = u.tvec := by unfold Ctl.countEvent; split <;> rfl
@[simp] theorem Ctl.countEvent_dzt (u : Ctl) (code n : Nat) : (u.countEvent code n).dzt = u.dzt := by unfold Ctl.countEvent; split <;> rfl
@[simp] theorem Ctl.countEvent_spinl (u : Ctl) (code n : Nat) : (u.countEvent code n).spinl = u.spinl := by unfold Ctl.countEvent; split <;> rfl
@[simp] theorem Ctl.countEvent_lkeep (u : Ctl) (code n : Nat) : (u.countEvent code n).lkeep = u.lkeep := by unfold Ctl.countEvent; split <;> rfl
@[simp] theorem Ctl.countEvent_whw (u : Ctl) (code n : Nat) : (u.countEvent code n).whw = u.whw := by unfold Ctl.countEvent; split <;> rfl
@[simp] theorem Ctl.countEvent_prq (u : Ctl) (code n : Nat) : (u.countEvent code n).prq = u.prq := by unfold Ctl.countEvent; split <;> rfl
@[simp] theorem Ctl.countEvent_pdl (u : Ctl) (code n : Nat) : (u.countEvent code n).pdl = u.pdl := by unfold Ctl.countEvent; split <;> rfl
@[simp] theorem Ctl.countEvent_stgno (u : Ctl) (code n : Nat) : (u.countEvent code n).stgno = u.stgno := by unfold Ctl.countEvent; split <;> rfl
@[simp] theorem Ctl.countEvent_stgnext (u : Ctl) (code n : Nat) : (u.countEvent code n).stgnext = u.stgnext := by unfold Ctl.countEvent; split <;> rfl
@[simp] theorem Ctl.countEvent_stgprev (u : Ctl) (code n : Nat) : (u.countEvent code n).stgprev = u.stgprev := by unfold Ctl.countEvent; split <;> rfl
@[simp] theorem Ctl.countEvent_cycle (u : Ctl) (code n : Nat) : (u.countEvent code n).cycle = u.cycle := by unfold Ctl.countEvent; split <;> rfl
@[simp] theorem Ctl.countEvent_wpaddr (u : Ctl) (code n : Nat) : (u.countEvent code n).wpaddr = u.wpaddr := by unfold Ctl.countEvent; split <;> rfl
@[simp] theorem Ctl.countEvent_wpctl (u : Ctl) (code n : Nat) : (u.countEvent code n).wpctl = u.wpctl := by unfold Ctl.countEvent; split <;> rfl
@[simp] theorem Ctl.countEvent_evsel (u : Ctl) (code n : Nat) : (u.countEvent code n).evsel = u.evsel := by unfold Ctl.countEvent; split <;> rfl

/-! ## Registers -/

@[simp] theorem State.reg_zero (s : State) : s.reg 0#6 = 0#64 := rfl

theorem State.reg_of_regs {s t : State} (h : t.core.regs = s.core.regs) (r : RegNo) : t.reg r = s.reg r := by
  unfold State.reg; rw [h]

/-- A write to a register: its value if it is not g0, every other register kept. -/
theorem State.reg_setReg (s : State) (d r : RegNo) (v : Word) :
    (s.setReg d v).reg r = if r = d ∧ d ≠ 0#6 then v else s.reg r := by
  unfold State.reg State.setReg Core.setReg
  by_cases hd : d = 0#6
  · subst hd; simp
  · by_cases hr : r = 0#6
    · subst hr; simp [Ne.symm hd]
    · by_cases h : r = d
      · subst h; simp [hd]
      · have : d.toNat ≠ r.toNat := fun e => h (BitVec.eq_of_toNat_eq e.symm)
        simp [hd, hr, h, this]

theorem State.reg_setReg_same (s : State) (d : RegNo) (v : Word) : (s.setReg d v).reg d = if d = 0#6 then 0#64 else v := by
  rw [State.reg_setReg]; by_cases h : d = 0#6 <;> simp [h]

theorem State.reg_setReg_other (s : State) {d r : RegNo} (v : Word) (h : r ≠ d) : (s.setReg d v).reg r = s.reg r := by
  rw [State.reg_setReg]; simp [h]

@[simp] theorem State.reg_done (s : State) (r : RegNo) : s.done.reg r = s.reg r := State.reg_of_regs (by simp) r

@[simp] theorem State.reg_transfer (s : State) (t : Word) (call : Bool) (r : RegNo) : (s.transfer t call).reg r = s.reg r := rfl

end Sys2Proof.Machine
end

