-- ==== Sys2Proof/Laws/Front.lean ====
section
/-!
SUPPORT. The end of a word and taking a trap: one lemma per shared operation that says what it leaves.
-/
namespace Sys2Proof.Machine

/-- No level ends at an address: the loop step does nothing. -/
theorem loopStep_none (b : Vector LoopLevel 4) (addr next : Word) (h : ∀ l ∈ b.toList, l.active = true → l.stop ≠ addr) :
    ∀ n, loopStep b addr next n = (b, next)
  | 0 => rfl
  | n + 1 => by
    unfold loopStep
    split
    · next l hl =>
      have hm : l ∈ b.toList := by
        obtain ⟨hn, rfl⟩ := Vector.getElem?_eq_some_iff.mp hl
        exact Vector.mem_toList_iff.mpr (Vector.getElem_mem hn)
      have : (l.active && l.stop == addr) = false := by
        by_cases ha : l.active = true
        · simp [ha, h l hm ha]
        · simp [ha]
      simp only [this, Bool.false_eq_true, if_false]
      exact loopStep_none b addr next h n
    · exact loopStep_none b addr next h n

/-- Setting a loop bank to what it is changes nothing. -/
theorem Core.setBank_self (u : Core) (l : BitVec 2) : (u.setBank l (bankOf u l)).loops = u.loops := by
  unfold Core.setBank bankOf
  apply Vector.toArray_inj.mp
  simp only [Vector.set!, Array.set!_eq_setIfInBounds, Vector.getElem?_toList, List.getD_eq_getElem?_getD]
  apply Array.ext
  · simp
  · intro i h1 h2
    rw [Array.getElem_setIfInBounds]
    split
    · next e =>
      subst e
      have : l.toNat < 3 := by simpa using h2
      simp [this]
    · rfl

/-- A word that ends with no active loop's end goes on to the position after it. -/
theorem Core.done_goes (u : Core) (h : ∀ l ∈ (bankOf u u.ctl.tlevel).toList, l.active = true → l.stop ≠ u.loopAddr) :
    u.done.pc = u.nextPos ∧ u.done.loops = u.loops := by
  unfold Core.done
  simp only []
  split
  · exact ⟨rfl, rfl⟩
  · rw [loopStep_none _ _ _ (by simpa [Core.loopAddr] using h)]
    exact ⟨rfl, Core.setBank_self u _⟩

/-- What the end of a word leaves of the unit. -/
theorem Core.done_frame (u : Core) : u.done = { u with
    pc := u.done.pc, loops := u.done.loops, ctl := u.ctl.countEvent 2 1, sel := none, stall := .none, pend := none } := by
  unfold Core.done
  simp only []
  split <;> rfl

theorem Ctl.countEvent_frame (c : Ctl) (code n : Nat) : c.countEvent code n = { c with evcnt := (c.countEvent code n).evcnt } := by
  unfold Ctl.countEvent; split <;> rfl

theorem SameMemory.of_mem {s t : State} (h : t.mem = s.mem) : SameMemory s t := fun k => by rw [h]

/-- A change of general registers before the end of a word keeps the frame. -/
theorem frontFrame_done (s : State) (r : Vector Word 64) : FrontFrame s ({ s with core := { s.core with regs := r } } : State).done := by
  refine ⟨SameMemory.of_mem rfl, ?_⟩
  unfold State.done
  simp only [Core.done_regs, Core.done_ctl]
  rw [Core.done_frame]
  simp only [← Ctl.countEvent_frame]

theorem Core.setReg_eq (u : Core) (d : RegNo) (v : Word) : u.setReg d v = { u with regs := (u.setReg d v).regs } := by
  unfold Core.setReg; split <;> rfl

theorem State.setReg_eq (s : State) (d : RegNo) (v : Word) : s.setReg d v = { s with core := { s.core with regs := (s.core.setReg d v).regs } } := by
  unfold State.setReg; rw [Core.setReg_eq]

theorem goesOn_done (s t : State) (hp : t.core.pc = s.core.pc) (hl : t.core.loops = s.core.loops) (hi : t.core.ir = s.core.ir)
    (ht : t.core.ctl.tlevel = s.core.ctl.tlevel) : GoesOn s t.done := by
  intro h
  have hb : bankOf t.core t.core.ctl.tlevel = bankOf s.core s.core.ctl.tlevel := by unfold bankOf; rw [hl, ht]
  have hx : t.core.nextPos = s.core.nextPos := by unfold Core.nextPos; rw [hi, hp]
  have ha : t.core.loopAddr = s.core.loopAddr := by unfold Core.loopAddr; rw [hi, hp]
  have := Core.done_goes t.core (by rw [hb, ha]; exact h)
  rw [hx, hl] at this
  exact this

/-- A register result completes its word. -/
theorem State.writes_spec (s : State) (d : RegNo) (v : Word) : ∃ t, s.writes d v = .next t ∧ WritesReg s t d v := by
  refine ⟨(s.setReg d v).done, rfl, ?_, ?_, ?_, ?_⟩
  · rw [State.setReg_eq]; exact frontFrame_done s _
  · exact goesOn_done s _ (by simp) (by simp) (by simp) (by simp)
  · rw [State.reg_done, State.reg_setReg_same]
  · intro r h; rw [State.reg_done, State.reg_setReg_other s v h]

end Sys2Proof.Machine
end

