-- ==== Sys2Proof/Laws/Memory.lean ====
section
/-!
SUPPORT. The flat memory: what a read finds after each operation, and that each keeps the canonical form.
-/
namespace Sys2Proof.Machine

/-! ## Association lists -/

theorem alGet_alSet {α : Type} (k j : Nat) (v : α) : ∀ l : List (Nat × α), alGet k (alSet j v l) = if k = j then some v else alGet k l
  | [] => by
    simp only [alSet, alGet]
    by_cases h : k = j
    · simp [h]
    · have h' : ¬j = k := fun e => h e.symm
      simp [h, h']
  | (i, w) :: r => by
    unfold alSet
    by_cases hk : k = j
    · subst hk
      by_cases h1 : k < i
      · simp [h1, alGet]
      · by_cases h2 : i = k
        · simp [h2, alGet]
        · simp only [h1, h2, if_false, alGet, if_true]
          rw [alGet_alSet k k v r]; simp
    · have hk' : ¬j = k := fun e => hk e.symm
      by_cases h1 : j < i
      · simp [h1, alGet, hk, hk']
      · by_cases h2 : i = j
        · subst h2; simp [alGet, hk, hk']
        · simp only [h1, h2, if_false, alGet, hk]
          rw [alGet_alSet k j v r]; simp [hk]

theorem alGet_alDel {α : Type} (k j : Nat) : ∀ l : List (Nat × α), alGet k (alDel j l) = if k = j then none else alGet k l
  | [] => by simp [alDel, alGet]
  | (i, w) :: r => by
    unfold alDel
    split
    · next h =>
      subst h; rw [alGet_alDel k i r]
      by_cases e : k = i
      · simp [e]
      · have : ¬i = k := fun h => e h.symm
        simp [alGet, e, this]
    · next h =>
      simp only [alGet]; rw [alGet_alDel k j r]
      by_cases e : i = k
      · subst e; simp [h]
      · simp [e]

/-! ## Read after write -/

/-- A byte written is read back, and every other byte reads as before. -/
theorem Memory.read_write (m : List Host.Cell) (j k : Nat) (b : Byte) :
    Memory.read (Memory.write m j b) k = if k = j then some b else Memory.read m k := by
  unfold Memory.write
  by_cases h : Memory.unlisted j = some b
  · rw [if_pos h]; unfold Memory.read; rw [alGet_alDel]
    by_cases e : k = j
    · subst e; simp [h]
    · simp [e]
  · rw [if_neg h]; unfold Memory.read; rw [alGet_alSet]
    by_cases e : k = j <;> simp [e]

theorem Memory.read_erase (m : List Host.Cell) (j k : Nat) :
    Memory.read (Memory.erase m j) k = if k = j then Memory.unlisted k else Memory.read m k := by
  unfold Memory.erase Memory.read
  rw [alGet_alDel]
  by_cases e : k = j <;> simp [e]

/-- Bytes written read back, and every byte outside them reads as before. -/
theorem Memory.read_writeBytes (bs : List Byte) : ∀ (m : List Host.Cell) (j k : Nat),
    Memory.read (Memory.writeBytes m j bs) k = if j ≤ k then (match bs[k - j]? with
      | some b => some b
      | none => Memory.read m k) else Memory.read m k := by
  induction bs with
  | nil => intro m j k; simp [Memory.writeBytes]
  | cons b r ih =>
    intro m j k
    unfold Memory.writeBytes
    rw [ih, Memory.read_write]
    by_cases h1 : j ≤ k
    · by_cases h2 : j = k
      · subst h2
        have h : ¬ j + 1 ≤ j := by omega
        simp [h]
      · have h3 : j + 1 ≤ k := by omega
        have h4 : k - j = (k - (j + 1)) + 1 := by omega
        have h5 : ¬ k = j := fun e => h2 e.symm
        simp [h1, h3, h4, h5]
    · have h3 : ¬ j + 1 ≤ k := by omega
      have h5 : ¬ k = j := by omega
      simp [h1, h3, h5]

theorem Memory.readZero_length (m : List Host.Cell) : ∀ (n key : Nat), (Memory.readZero m key n).length = n
  | 0, _ => rfl
  | n + 1, key => by simp [Memory.readZero, Memory.readZero_length m n (key + 1)]

theorem Memory.readZero_get (m : List Host.Cell) : ∀ (n key i : Nat), i < n →
    (Memory.readZero m key n)[i]? = some ((Memory.read m (key + i)).getD 0#8)
  | 0, _, _, h => by omega
  | n + 1, key, 0, _ => by simp [Memory.readZero]
  | n + 1, key, i + 1, h => by
    simp only [Memory.readZero, List.getElem?_cons_succ]
    rw [Memory.readZero_get m n (key + 1) i (by omega), show key + 1 + i = key + (i + 1) by omega]

/-! ## The canonical form -/

theorem Memory.rising_cons {c : Host.Cell} {m : List Host.Cell} :
    Memory.rising (c :: m) = true ↔ Memory.rising m = true ∧ ∀ x ∈ m, c.1 < x.1 := by
  induction m generalizing c with
  | nil => simp [Memory.rising]
  | cons d r ih =>
    simp only [Memory.rising, Bool.and_eq_true, decide_eq_true_eq]
    constructor
    · rintro ⟨h1, h2⟩
      refine ⟨h2, ?_⟩
      intro x hx
      rcases List.mem_cons.mp hx with rfl | hx
      · exact h1
      · exact Nat.lt_trans h1 ((ih.mp h2).2 x hx)
    · rintro ⟨h1, h2⟩
      exact ⟨h2 d (List.mem_cons_self ..), h1⟩

theorem Memory.wf_iff (m : List Host.Cell) : Memory.wf m = true ↔ Memory.rising m = true ∧ ∀ c ∈ m, Memory.unlisted c.1 ≠ some c.2 := by
  simp [Memory.wf, Memory.noDefault]

theorem mem_alSet {α : Type} {k : Nat} {v : α} {l : List (Nat × α)} {x : Nat × α} (h : x ∈ alSet k v l) : x = (k, v) ∨ x ∈ l := by
  induction l with
  | nil => simp only [alSet, List.mem_singleton] at h; exact .inl h
  | cons c r ih =>
    obtain ⟨j, w⟩ := c
    unfold alSet at h
    split at h
    · rcases List.mem_cons.mp h with h | h
      · exact .inl h
      · exact .inr h
    · split at h
      · rcases List.mem_cons.mp h with h | h
        · exact .inl h
        · exact .inr (List.mem_cons_of_mem _ h)
      · rcases List.mem_cons.mp h with h | h
        · exact .inr (h ▸ List.mem_cons_self ..)
        · rcases ih h with h | h
          · exact .inl h
          · exact .inr (List.mem_cons_of_mem _ h)

theorem Memory.rising_alSet (k : Nat) (v : Byte) : ∀ m : List Host.Cell, Memory.rising m = true → Memory.rising (alSet k v m) = true
  | [], _ => rfl
  | (j, w) :: r, h => by
    have hc := Memory.rising_cons.mp h
    unfold alSet
    split
    · next hk =>
      refine Memory.rising_cons.mpr ⟨h, ?_⟩
      intro x hx
      rcases List.mem_cons.mp hx with rfl | hx
      · exact hk
      · exact Nat.lt_trans hk (hc.2 x hx)
    · split
      · next hk => subst hk; exact Memory.rising_cons.mpr hc
      · next h1 h2 =>
        refine Memory.rising_cons.mpr ⟨Memory.rising_alSet k v r hc.1, ?_⟩
        intro x hx
        rcases mem_alSet hx with rfl | hx
        · show j < k; omega
        · exact hc.2 x hx

theorem alDel_eq_filter {α : Type} (k : Nat) : ∀ l : List (Nat × α), alDel k l = l.filter fun c => c.1 ≠ k
  | [] => rfl
  | (j, w) :: r => by
    unfold alDel
    rw [alDel_eq_filter k r]
    by_cases h : j = k <;> simp [h]

theorem Memory.rising_filter (p : Host.Cell → Bool) : ∀ m : List Host.Cell, Memory.rising m = true → Memory.rising (m.filter p) = true
  | [], _ => rfl
  | c :: r, h => by
    have hc := Memory.rising_cons.mp h
    rw [List.filter_cons]
    split
    · refine Memory.rising_cons.mpr ⟨Memory.rising_filter p r hc.1, ?_⟩
      intro x hx
      exact hc.2 x (List.mem_filter.mp hx).1
    · exact Memory.rising_filter p r hc.1

/-- Dropping cells keeps the form. -/
theorem Memory.wf_filter {m : List Host.Cell} (p : Host.Cell → Bool) (h : Memory.wf m = true) : Memory.wf (m.filter p) = true := by
  rw [Memory.wf_iff] at h ⊢
  exact ⟨Memory.rising_filter p m h.1, fun c hc => h.2 c (List.mem_filter.mp hc).1⟩

theorem Memory.wf_erase {m : List Host.Cell} (k : Nat) (h : Memory.wf m = true) : Memory.wf (Memory.erase m k) = true := by
  unfold Memory.erase; rw [alDel_eq_filter]; exact Memory.wf_filter _ h

theorem Memory.wf_write {m : List Host.Cell} (k : Nat) (b : Byte) (h : Memory.wf m = true) : Memory.wf (Memory.write m k b) = true := by
  unfold Memory.write
  split
  · exact Memory.wf_erase k h
  · next hn =>
    rw [Memory.wf_iff] at h ⊢
    refine ⟨Memory.rising_alSet k b m h.1, ?_⟩
    intro c hc
    rcases mem_alSet hc with rfl | hc
    · exact hn
    · exact h.2 c hc

theorem Memory.wf_writeBytes (bs : List Byte) : ∀ {m : List Host.Cell} (k : Nat), Memory.wf m = true → Memory.wf (Memory.writeBytes m k bs) = true := by
  induction bs with
  | nil => intro m k h; exact h
  | cons b r ih => intro m k h; exact ih (k + 1) (Memory.wf_write k b h)

theorem Memory.wf_clear {m : List Host.Cell} (lo n : Nat) (h : Memory.wf m = true) : Memory.wf (Memory.clear m lo n) = true :=
  Memory.wf_filter _ h

theorem Memory.wf_foldl_write {α : Type} (key : α → Nat) (val : α → Byte) (l : List α) : ∀ {m : List Host.Cell}, Memory.wf m = true →
    Memory.wf (l.foldl (fun m c => Memory.write m (key c) (val c)) m) = true := by
  induction l with
  | nil => intro m h; exact h
  | cons c r ih => intro m h; exact ih (Memory.wf_write _ _ h)

theorem retagBytes_wf (s : State) (kid base : Nat) : ∀ (n : Nat) {m : List Host.Cell}, Memory.wf m = true → Memory.wf (retagBytes s kid base n m) = true
  | 0, _, h => h
  | n + 1, _, h => Memory.wf_write _ _ (retagBytes_wf s kid base n h)

/-- Storing under another key keeps the form. -/
theorem State.wf_retag {s : State} (kid unit n : Nat) (h : Memory.wf s.mem = true) : Memory.wf (s.retag kid unit n).mem = true := by
  unfold State.retag
  dsimp only
  split
  · exact h
  · exact retagBytes_wf s kid _ _ h

theorem State.wf_putGlobal (kid : Nat) (bs : List Byte) : ∀ {s : State} (pa : Nat), Memory.wf s.mem = true → Memory.wf (s.putGlobal kid pa bs).mem = true := by
  induction bs with
  | nil => intro s pa h; exact h
  | cons b r ih => intro s pa h; exact ih (pa + 1) (Memory.wf_write _ _ (State.wf_retag kid _ 1 h))

theorem State.wf_revertLine {s : State} (k line : Nat) (x : SramLine) (h : Memory.wf s.mem = true) :
    Memory.wf (s.revertLine k line x).mem = true :=
  Memory.wf_foldl_write (fun c : Host.Cell => c.1) (fun c => c.2) x.behind (Memory.wf_filter _ h)

/-- The memory after reset is canonical. -/
theorem State.reset_wf : Memory.wf State.reset.mem = true := rfl

end Sys2Proof.Machine
end

