-- ==== Sys2Proof/Laws/Access.lean ====
section
/-!
SUPPORT. Scalar accesses, releases, control transfers and traps: what each shared operation answers.
-/
namespace Sys2Proof.Machine

/-! ## Values of bytes (00 R8) -/

theorem natOf_nil : natOf [] = 0 := rfl

theorem natOf_cons (b : Byte) (r : List Byte) : natOf (b :: r) = b.toNat + 256 * natOf r := by
  simp [natOf]

/-- A little-endian value of n bytes is below 256^n. -/
theorem natOf_lt (bs : List Byte) : natOf bs < 256 ^ bs.length := by
  induction bs with
  | nil => simp [natOf]
  | cons b r ih =>
    have := b.isLt
    rw [natOf_cons]
    simp only [List.length_cons, Nat.pow_succ] at *
    omega

/-! ## Releases (02 R63) -/

theorem State.unitAt_cur (s : State) : s.unitAt s.cur = s.core := by simp [State.unitAt]

/-- With an empty store buffer a release completes at once and changes nothing. -/
theorem State.drain_of_no_stores (s : State) (m : Nat → Bool) (h : s.core.stores = []) : s.drain s.cur m = s := by
  unfold State.drain
  simp only [State.unitAt_cur, h, drainSet, List.foldr, List.foldl, State.modUnit, State.setUnit, if_true, List.filter_nil]
  rw [show ([] : List StoreEntry) = s.core.stores from h.symm]

theorem State.release_of_no_stores (s : State) (m : Nat → Bool) (h : s.core.stores = []) : s.release m = .ok s := by
  unfold State.release
  simp [State.drain_of_no_stores s m h, State.drained, State.unitAt_cur, h]

theorem State.orderBefore_of_no_stores (s : State) (c : Nat) (u : Option (Loc × Nat)) (h : s.core.stores = []) :
    s.orderBefore c u = .ok s := State.release_of_no_stores s _ h

theorem State.afterRelease_of_no_stores (s : State) (f : State → Out) (h : s.core.stores = []) : s.afterRelease f = f s := by
  unfold State.afterRelease; rw [State.release_of_no_stores s _ h]

/-- A completed release leaves no store of its classes in the buffer. -/
theorem State.release_drained (s s1 : State) (m : Nat → Bool) (h : s.release m = .ok s1) : s1.drained s.cur m = true := by
  unfold State.release at h
  simp only at h
  split at h
  · next hd => cases h; exact hd
  · cases h

theorem State.release_ok (s s1 : State) (m : Nat → Bool) (h : s.release m = .ok s1) : s1 = s.drain s.cur m := by
  unfold State.release at h
  simp only at h
  split at h
  · cases h; rfl
  · cases h

theorem State.release_waits (s s1 : State) (m : Nat → Bool) (h : s.release m = .error s1) : s1 = s.drain s.cur m := by
  unfold State.release at h
  simp only at h
  split at h
  · cases h
  · cases h; rfl

/-! ## Accesses of the own LOCAL memory (04 R72, 02 R50) -/

/-- A pointer to the own LOCAL memory that passes 04 R72 is located there, without a translation. -/
theorem State.locate_own_local (s : State) (p : Word) (n : Nat) (k : AccKind) (hs : spaceOf p = 2)
    (hr : resolveRank s.cur 2 (rankField p) = s.cur) (hc : isCoreRank s.cur = true) (hd : s.dieAllowed s.ctx (dieOf s.cur) = true)
    (ho : offOf p + n ≤ localSize s.cur) (ha : p.toNat % n = 0) : s.locate p n n k = .ok (.lcl s.cur (offOf p)) s := by
  have hf : spaceFault p k = none := by simp [spaceFault, hs]
  have hi : isDie (dieOf s.cur) = true := by
    simp only [isCoreRank, Bool.and_eq_true] at hc; exact hc.1.1
  unfold State.locate
  simp only [hf, ha, hs, hr]
  have : s.rankFault s.ctx s.cur 2 (rankField p) (offOf p) n = none := by
    unfold State.rankFault
    simp [hr, hi, hc, hd]; omega
  simp [this]

theorem Core.holdsLocal_of_no_cmds (u : Core) (rank sq off n : Nat) (w : Bool) (h : u.cmdsAll = []) :
    u.holdsLocal rank sq off n w = false := by
  unfold Core.holdsLocal; rw [h]; rfl

/-- A die reaches itself, whatever links are down. -/
@[simp] theorem State.reaches_self (s : State) (d : Nat) : s.reaches d d = true := by simp [State.reaches, route, routeLinks]

/-- No dead link cuts a unit off from its own LOCAL memory. -/
@[simp] theorem State.cutOff_local (s : State) (rank off : Nat) : s.cutOff rank (.lcl rank off) = false := by simp [State.cutOff]

/-- A read of the own LOCAL memory with nothing of the core on its way gives the bytes that stand there. -/
theorem State.readLoc_own_local (s : State) (p : Word) (off n pol : Nat) (h1 : s.core.stores = []) (h2 : s.core.cmdsAll = [])
    (h3 : s.core.badLocal = []) : s.readLoc p (.lcl s.cur off) n pol = .ok (Memory.readZero s.mem (localKey s.cur off) n) s := by
  unfold State.readLoc
  simp [Core.holdsLocal_of_no_cmds _ _ _ _ _ _ h2, State.loadAt, State.portAllows, State.unitAt_cur, Core.localBad, h3, forward, h1]

/-- A load of the own LOCAL memory: its bytes, and one more access counted. -/
theorem State.loadBytes_own_local (s : State) (p : Word) (n c pol : Nat) (hs : spaceOf p = 2)
    (hr : resolveRank s.cur 2 (rankField p) = s.cur) (hc : isCoreRank s.cur = true) (hd : s.dieAllowed s.ctx (dieOf s.cur) = true)
    (ho : offOf p + n ≤ localSize s.cur) (ha : p.toNat % n = 0) (h1 : s.core.stores = []) (h2 : s.core.cmdsAll = [])
    (h3 : s.core.badLocal = []) : s.loadBytes p n c pol =
      .ok (Memory.readZero s.mem (localKey s.cur (offOf p)) n) (s.modCore fun u => { u with seq := u.seq + 1 }) := by
  unfold State.loadBytes
  simp [State.locate_own_local s p n .load hs hr hc hd ho ha, State.l1Line, State.remoteGate, State.remoteGates, State.isRemote, State.orderBefore_of_no_stores s _ _ h1,
    State.readLoc_own_local s p (offOf p) n pol h1 h2 h3]

/-! ## Loop banks and control transfers (02 R47, R48) -/

theorem bankOf_setBank_ne (u : Core) (l l' : BitVec 2) (b : Vector LoopLevel 4) (h : l' ≠ l) : bankOf (u.setBank l b) l' = bankOf u l' := by
  unfold bankOf Core.setBank
  have : l.toNat ≠ l'.toNat := fun e => h (BitVec.eq_of_toNat_eq e.symm)
  simp [Vector.set!, this]

theorem bankOf_setBank (u : Core) (l : BitVec 2) (b : Vector LoopLevel 4) (h : l ≠ 3#2) : bankOf (u.setBank l b) l = b := by
  unfold bankOf Core.setBank
  have : l.toNat < 3 := by have := l.isLt; have : l.toNat ≠ 3 := fun e => h (BitVec.eq_of_toNat_eq e); omega
  simp [Vector.set!, this]

/-- No bank is in force at a level the machine does not have. -/
theorem bankOf_three (u : Core) : bankOf u 3#2 = Vector.replicate 4 {} := by
  unfold bankOf; simp [List.getD_eq_getElem?_getD]

theorem targetOk_iff (p : Word) : targetOk p = true ↔ p.toNat % 4 = 0 ∧ p.toNat / 2 ^ 60 = 0 := by
  simp [targetOk, spaceOf]

/-- A taken transfer after a register result keeps the frame. -/
theorem frontFrame_transfer (s : State) (t : Word) (c : Bool) (r : Vector Word 64) :
    FrontFrame s (({ s with core := { s.core with regs := r } } : State).transfer t c) := by
  refine ⟨SameMemory.of_mem rfl, ?_⟩
  unfold State.transfer Core.transfer Core.countEvent Core.setBank
  simp only []
  congr 1
  rw [← Ctl.countEvent_frame]

theorem State.transfer_pc (s : State) (t : Word) (c : Bool) : (s.transfer t c).core.pc = t := rfl
theorem State.transfer_regs (s : State) (t : Word) (c : Bool) : (s.transfer t c).core.regs = s.core.regs := rfl

theorem State.jumpTo_ok (s : State) (t : Word) (h : targetOk t = true) : s.jumpTo t = .next (s.transfer t false) := by
  simp [State.jumpTo, h]

theorem State.jumpTo_bad (s : State) (t : Word) (h : targetOk t = false) : s.jumpTo t = s.raise cFETCH_ADDR t := by
  simp [State.jumpTo, h]

/-! ## Taking a trap (24 R371, R373) -/

/-- A precise fault at level 0 or 1, but for one that makes an open interval due to be rolled back, enters the next level. -/
theorem State.raiseWith_enters (s : State) (cause : Nat) (tval ret : Word) (status : BitVec 32)
    (hl : s.core.ctl.tlevel = 0#2 ∨ s.core.ctl.tlevel = 1#2)
    (hd : ¬((cause = cUNCORR_READ ∨ cause = cUNCORR_WRITE) ∧ s.intervalOpen s.ctx = true)) :
    s.raiseWith cause tval status ret = s.modCore fun u => u.enterTrap (tcauseOf cause true 0 false status) ret tval := by
  unfold State.raiseWith
  have : ((cause == cUNCORR_READ || cause == cUNCORR_WRITE) && s.intervalOpen s.ctx) = false := by
    by_cases h : s.intervalOpen s.ctx = true
    · have : ¬(cause = cUNCORR_READ ∨ cause = cUNCORR_WRITE) := fun h2 => hd ⟨h2, h⟩
      simp only [not_or] at this
      simp [this.1, this.2]
    · simp [h]
  simp only [this, Bool.false_eq_true, if_false, if_pos hl]

theorem Core.enterTrap_stall (u : Core) (tc ret tval : Word) : (u.enterTrap tc ret tval).stall = .none := rfl

theorem Core.enterTrap_level (u : Core) (tc ret tval : Word) :
    (u.enterTrap tc ret tval).ctl.tlevel = if u.ctl.tlevel = 0#2 then 1#2 else 2#2 := by
  unfold Core.enterTrap Core.setBank
  simp only []
  rw [Ctl.countEvent_frame]
  split <;> rfl

/-- Waiting changes nothing but the way the unit waits. -/
theorem State.waits_eq (s : State) (k : Stall) : s.waits k = .next { s with core := { s.core with stall := k } } := rfl

end Sys2Proof.Machine
end

