-- ==== Sys2Proof/Laws/Decode.lean ====
section
/-!
SUPPORT. What a packed word's fields are (spec/01_encoding.md Table 4), one lemma per field of each format.
-/
namespace Sys2Proof

theorem fld_eq {w : W32} {lo n : Nat} {v : BitVec n} (h : w.toNat / 2 ^ lo % 2 ^ n = v.toNat) : fld w lo n = v := by
  apply BitVec.eq_of_toNat_eq
  rw [fld, BitVec.extractLsb'_toNat, Nat.shiftRight_eq_div_pow]
  exact h

theorem sub_toNat {n : Nat} (f : BitVec n) (lo k : Nat) : (subFld f lo k).toNat = f.toNat / 2 ^ lo % 2 ^ k := by
  rw [subFld, BitVec.extractLsb'_toNat, Nat.shiftRight_eq_div_pow]

theorem part_toNat {n lo k : Nat} (v : BitVec k) (h : lo + k ≤ n) : (part n lo v).toNat = v.toNat * 2 ^ lo := by
  rw [part, BitVec.toNat_ofNat]
  apply Nat.mod_eq_of_lt
  calc v.toNat * 2 ^ lo < 2 ^ k * 2 ^ lo := Nat.mul_lt_mul_of_pos_right v.isLt (Nat.two_pow_pos lo)
    _ = 2 ^ (lo + k) := by rw [← Nat.pow_add, Nat.add_comm]
    _ ≤ 2 ^ n := Nat.pow_le_pow_right (by decide) h

theorem sub_part {n lo k : Nat} (v : BitVec k) (h : lo + k ≤ n) : subFld (part n lo v) lo k = v := by
  apply BitVec.eq_of_toNat_eq
  rw [sub_toNat, part_toNat v h, Nat.mul_div_cancel _ (Nat.two_pow_pos lo), Nat.mod_eq_of_lt v.isLt]

theorem onlyBits_part {n lo k : Nat} (v : BitVec k) (h : lo + k ≤ n) : onlyBits (part n lo v) lo k = true := by
  rw [onlyBits, part_toNat v h, Nat.mul_div_cancel _ (Nat.two_pow_pos lo), Nat.mod_eq_of_lt v.isLt, beq_self_eq_true]

theorem packR_toNat (op : BitVec 6) (d : BitVec 6) (a : BitVec 6) (b : BitVec 6) (fn : BitVec 8) :
    (packR op d a b fn).toNat = op.toNat * 67108864 + d.toNat * 1048576 + a.toNat * 16384 + b.toNat * 256 + fn.toNat := by
  rw [packR, BitVec.toNat_ofNat]
  have := op.isLt; have := d.isLt; have := a.isLt; have := b.isLt; have := fn.isLt
  apply Nat.mod_eq_of_lt
  omega

@[simp] theorem packR_op (op : BitVec 6) (d : BitVec 6) (a : BitVec 6) (b : BitVec 6) (fn : BitVec 8) :
    fld (packR op d a b fn) 26 6 = op := by
  apply fld_eq; rw [packR_toNat]
  have := op.isLt; have := d.isLt; have := a.isLt; have := b.isLt; have := fn.isLt
  omega

@[simp] theorem packR_d (op : BitVec 6) (d : BitVec 6) (a : BitVec 6) (b : BitVec 6) (fn : BitVec 8) :
    fld (packR op d a b fn) 20 6 = d := by
  apply fld_eq; rw [packR_toNat]
  have := op.isLt; have := d.isLt; have := a.isLt; have := b.isLt; have := fn.isLt
  omega

@[simp] theorem packR_a (op : BitVec 6) (d : BitVec 6) (a : BitVec 6) (b : BitVec 6) (fn : BitVec 8) :
    fld (packR op d a b fn) 14 6 = a := by
  apply fld_eq; rw [packR_toNat]
  have := op.isLt; have := d.isLt; have := a.isLt; have := b.isLt; have := fn.isLt
  omega

@[simp] theorem packR_b (op : BitVec 6) (d : BitVec 6) (a : BitVec 6) (b : BitVec 6) (fn : BitVec 8) :
    fld (packR op d a b fn) 8 6 = b := by
  apply fld_eq; rw [packR_toNat]
  have := op.isLt; have := d.isLt; have := a.isLt; have := b.isLt; have := fn.isLt
  omega

@[simp] theorem packR_fn (op : BitVec 6) (d : BitVec 6) (a : BitVec 6) (b : BitVec 6) (fn : BitVec 8) :
    fld (packR op d a b fn) 0 8 = fn := by
  apply fld_eq; rw [packR_toNat]
  have := op.isLt; have := d.isLt; have := a.isLt; have := b.isLt; have := fn.isLt
  omega

theorem packI_toNat (op : BitVec 6) (d : BitVec 6) (a : BitVec 6) (imm : BitVec 14) :
    (packI op d a imm).toNat = op.toNat * 67108864 + d.toNat * 1048576 + a.toNat * 16384 + imm.toNat := by
  rw [packI, BitVec.toNat_ofNat]
  have := op.isLt; have := d.isLt; have := a.isLt; have := imm.isLt
  apply Nat.mod_eq_of_lt
  omega

@[simp] theorem packI_op (op : BitVec 6) (d : BitVec 6) (a : BitVec 6) (imm : BitVec 14) :
    fld (packI op d a imm) 26 6 = op := by
  apply fld_eq; rw [packI_toNat]
  have := op.isLt; have := d.isLt; have := a.isLt; have := imm.isLt
  omega

@[simp] theorem packI_d (op : BitVec 6) (d : BitVec 6) (a : BitVec 6) (imm : BitVec 14) :
    fld (packI op d a imm) 20 6 = d := by
  apply fld_eq; rw [packI_toNat]
  have := op.isLt; have := d.isLt; have := a.isLt; have := imm.isLt
  omega

@[simp] theorem packI_a (op : BitVec 6) (d : BitVec 6) (a : BitVec 6) (imm : BitVec 14) :
    fld (packI op d a imm) 14 6 = a := by
  apply fld_eq; rw [packI_toNat]
  have := op.isLt; have := d.isLt; have := a.isLt; have := imm.isLt
  omega

@[simp] theorem packI_imm (op : BitVec 6) (d : BitVec 6) (a : BitVec 6) (imm : BitVec 14) :
    fld (packI op d a imm) 0 14 = imm := by
  apply fld_eq; rw [packI_toNat]
  have := op.isLt; have := d.isLt; have := a.isLt; have := imm.isLt
  omega

theorem packU_toNat (op : BitVec 6) (d : BitVec 6) (imm : BitVec 20) :
    (packU op d imm).toNat = op.toNat * 67108864 + d.toNat * 1048576 + imm.toNat := by
  rw [packU, BitVec.toNat_ofNat]
  have := op.isLt; have := d.isLt; have := imm.isLt
  apply Nat.mod_eq_of_lt
  omega

@[simp] theorem packU_op (op : BitVec 6) (d : BitVec 6) (imm : BitVec 20) :
    fld (packU op d imm) 26 6 = op := by
  apply fld_eq; rw [packU_toNat]
  have := op.isLt; have := d.isLt; have := imm.isLt
  omega

@[simp] theorem packU_d (op : BitVec 6) (d : BitVec 6) (imm : BitVec 20) :
    fld (packU op d imm) 20 6 = d := by
  apply fld_eq; rw [packU_toNat]
  have := op.isLt; have := d.isLt; have := imm.isLt
  omega

@[simp] theorem packU_imm (op : BitVec 6) (d : BitVec 6) (imm : BitVec 20) :
    fld (packU op d imm) 0 20 = imm := by
  apply fld_eq; rw [packU_toNat]
  have := op.isLt; have := d.isLt; have := imm.isLt
  omega

theorem packB_toNat (op : BitVec 6) (a : BitVec 6) (b : BitVec 6) (off : BitVec 14) :
    (packB op a b off).toNat = op.toNat * 67108864 + a.toNat * 1048576 + b.toNat * 16384 + off.toNat := by
  rw [packB, BitVec.toNat_ofNat]
  have := op.isLt; have := a.isLt; have := b.isLt; have := off.isLt
  apply Nat.mod_eq_of_lt
  omega

@[simp] theorem packB_op (op : BitVec 6) (a : BitVec 6) (b : BitVec 6) (off : BitVec 14) :
    fld (packB op a b off) 26 6 = op := by
  apply fld_eq; rw [packB_toNat]
  have := op.isLt; have := a.isLt; have := b.isLt; have := off.isLt
  omega

@[simp] theorem packB_a (op : BitVec 6) (a : BitVec 6) (b : BitVec 6) (off : BitVec 14) :
    fld (packB op a b off) 20 6 = a := by
  apply fld_eq; rw [packB_toNat]
  have := op.isLt; have := a.isLt; have := b.isLt; have := off.isLt
  omega

@[simp] theorem packB_b (op : BitVec 6) (a : BitVec 6) (b : BitVec 6) (off : BitVec 14) :
    fld (packB op a b off) 14 6 = b := by
  apply fld_eq; rw [packB_toNat]
  have := op.isLt; have := a.isLt; have := b.isLt; have := off.isLt
  omega

@[simp] theorem packB_off (op : BitVec 6) (a : BitVec 6) (b : BitVec 6) (off : BitVec 14) :
    fld (packB op a b off) 0 14 = off := by
  apply fld_eq; rw [packB_toNat]
  have := op.isLt; have := a.isLt; have := b.isLt; have := off.isLt
  omega

theorem packJ_toNat (op : BitVec 6) (d : BitVec 6) (off : BitVec 20) :
    (packJ op d off).toNat = op.toNat * 67108864 + d.toNat * 1048576 + off.toNat := by
  rw [packJ, BitVec.toNat_ofNat]
  have := op.isLt; have := d.isLt; have := off.isLt
  apply Nat.mod_eq_of_lt
  omega

@[simp] theorem packJ_op (op : BitVec 6) (d : BitVec 6) (off : BitVec 20) :
    fld (packJ op d off) 26 6 = op := by
  apply fld_eq; rw [packJ_toNat]
  have := op.isLt; have := d.isLt; have := off.isLt
  omega

@[simp] theorem packJ_d (op : BitVec 6) (d : BitVec 6) (off : BitVec 20) :
    fld (packJ op d off) 20 6 = d := by
  apply fld_eq; rw [packJ_toNat]
  have := op.isLt; have := d.isLt; have := off.isLt
  omega

@[simp] theorem packJ_off (op : BitVec 6) (d : BitVec 6) (off : BitVec 20) :
    fld (packJ op d off) 0 20 = off := by
  apply fld_eq; rw [packJ_toNat]
  have := op.isLt; have := d.isLt; have := off.isLt
  omega

theorem packL_toNat (op : BitVec 6) (a : BitVec 6) (lvl : BitVec 2) (rsv : BitVec 4) (off : BitVec 14) :
    (packL op a lvl rsv off).toNat = op.toNat * 67108864 + a.toNat * 1048576 + lvl.toNat * 262144 + rsv.toNat * 16384 + off.toNat := by
  rw [packL, BitVec.toNat_ofNat]
  have := op.isLt; have := a.isLt; have := lvl.isLt; have := rsv.isLt; have := off.isLt
  apply Nat.mod_eq_of_lt
  omega

@[simp] theorem packL_op (op : BitVec 6) (a : BitVec 6) (lvl : BitVec 2) (rsv : BitVec 4) (off : BitVec 14) :
    fld (packL op a lvl rsv off) 26 6 = op := by
  apply fld_eq; rw [packL_toNat]
  have := op.isLt; have := a.isLt; have := lvl.isLt; have := rsv.isLt; have := off.isLt
  omega

@[simp] theorem packL_a (op : BitVec 6) (a : BitVec 6) (lvl : BitVec 2) (rsv : BitVec 4) (off : BitVec 14) :
    fld (packL op a lvl rsv off) 20 6 = a := by
  apply fld_eq; rw [packL_toNat]
  have := op.isLt; have := a.isLt; have := lvl.isLt; have := rsv.isLt; have := off.isLt
  omega

@[simp] theorem packL_lvl (op : BitVec 6) (a : BitVec 6) (lvl : BitVec 2) (rsv : BitVec 4) (off : BitVec 14) :
    fld (packL op a lvl rsv off) 18 2 = lvl := by
  apply fld_eq; rw [packL_toNat]
  have := op.isLt; have := a.isLt; have := lvl.isLt; have := rsv.isLt; have := off.isLt
  omega

@[simp] theorem packL_rsv (op : BitVec 6) (a : BitVec 6) (lvl : BitVec 2) (rsv : BitVec 4) (off : BitVec 14) :
    fld (packL op a lvl rsv off) 14 4 = rsv := by
  apply fld_eq; rw [packL_toNat]
  have := op.isLt; have := a.isLt; have := lvl.isLt; have := rsv.isLt; have := off.isLt
  omega

@[simp] theorem packL_off (op : BitVec 6) (a : BitVec 6) (lvl : BitVec 2) (rsv : BitVec 4) (off : BitVec 14) :
    fld (packL op a lvl rsv off) 0 14 = off := by
  apply fld_eq; rw [packL_toNat]
  have := op.isLt; have := a.isLt; have := lvl.isLt; have := rsv.isLt; have := off.isLt
  omega

theorem packM_toNat (op : BitVec 6) (d : BitVec 6) (base : BitVec 6) (cls : BitVec 4) (pol : BitVec 2) (ar : BitVec 2) (off : BitVec 6) :
    (packM op d base cls pol ar off).toNat = op.toNat * 67108864 + d.toNat * 1048576 + base.toNat * 16384 + cls.toNat * 1024 + pol.toNat * 256 + ar.toNat * 64 + off.toNat := by
  rw [packM, BitVec.toNat_ofNat]
  have := op.isLt; have := d.isLt; have := base.isLt; have := cls.isLt; have := pol.isLt; have := ar.isLt; have := off.isLt
  apply Nat.mod_eq_of_lt
  omega

@[simp] theorem packM_op (op : BitVec 6) (d : BitVec 6) (base : BitVec 6) (cls : BitVec 4) (pol : BitVec 2) (ar : BitVec 2) (off : BitVec 6) :
    fld (packM op d base cls pol ar off) 26 6 = op := by
  apply fld_eq; rw [packM_toNat]
  have := op.isLt; have := d.isLt; have := base.isLt; have := cls.isLt; have := pol.isLt; have := ar.isLt; have := off.isLt
  omega

@[simp] theorem packM_d (op : BitVec 6) (d : BitVec 6) (base : BitVec 6) (cls : BitVec 4) (pol : BitVec 2) (ar : BitVec 2) (off : BitVec 6) :
    fld (packM op d base cls pol ar off) 20 6 = d := by
  apply fld_eq; rw [packM_toNat]
  have := op.isLt; have := d.isLt; have := base.isLt; have := cls.isLt; have := pol.isLt; have := ar.isLt; have := off.isLt
  omega

@[simp] theorem packM_base (op : BitVec 6) (d : BitVec 6) (base : BitVec 6) (cls : BitVec 4) (pol : BitVec 2) (ar : BitVec 2) (off : BitVec 6) :
    fld (packM op d base cls pol ar off) 14 6 = base := by
  apply fld_eq; rw [packM_toNat]
  have := op.isLt; have := d.isLt; have := base.isLt; have := cls.isLt; have := pol.isLt; have := ar.isLt; have := off.isLt
  omega

@[simp] theorem packM_cls (op : BitVec 6) (d : BitVec 6) (base : BitVec 6) (cls : BitVec 4) (pol : BitVec 2) (ar : BitVec 2) (off : BitVec 6) :
    fld (packM op d base cls pol ar off) 10 4 = cls := by
  apply fld_eq; rw [packM_toNat]
  have := op.isLt; have := d.isLt; have := base.isLt; have := cls.isLt; have := pol.isLt; have := ar.isLt; have := off.isLt
  omega

@[simp] theorem packM_pol (op : BitVec 6) (d : BitVec 6) (base : BitVec 6) (cls : BitVec 4) (pol : BitVec 2) (ar : BitVec 2) (off : BitVec 6) :
    fld (packM op d base cls pol ar off) 8 2 = pol := by
  apply fld_eq; rw [packM_toNat]
  have := op.isLt; have := d.isLt; have := base.isLt; have := cls.isLt; have := pol.isLt; have := ar.isLt; have := off.isLt
  omega

@[simp] theorem packM_ar (op : BitVec 6) (d : BitVec 6) (base : BitVec 6) (cls : BitVec 4) (pol : BitVec 2) (ar : BitVec 2) (off : BitVec 6) :
    fld (packM op d base cls pol ar off) 6 2 = ar := by
  apply fld_eq; rw [packM_toNat]
  have := op.isLt; have := d.isLt; have := base.isLt; have := cls.isLt; have := pol.isLt; have := ar.isLt; have := off.isLt
  omega

@[simp] theorem packM_off (op : BitVec 6) (d : BitVec 6) (base : BitVec 6) (cls : BitVec 4) (pol : BitVec 2) (ar : BitVec 2) (off : BitVec 6) :
    fld (packM op d base cls pol ar off) 0 6 = off := by
  apply fld_eq; rw [packM_toNat]
  have := op.isLt; have := d.isLt; have := base.isLt; have := cls.isLt; have := pol.isLt; have := ar.isLt; have := off.isLt
  omega

theorem packP_toNat (op : BitVec 6) (first : BitVec 6) (last : BitVec 6) (rsv : BitVec 13) (dir : BitVec 1) :
    (packP op first last rsv dir).toNat = op.toNat * 67108864 + first.toNat * 1048576 + last.toNat * 16384 + rsv.toNat * 2 + dir.toNat := by
  rw [packP, BitVec.toNat_ofNat]
  have := op.isLt; have := first.isLt; have := last.isLt; have := rsv.isLt; have := dir.isLt
  apply Nat.mod_eq_of_lt
  omega

@[simp] theorem packP_op (op : BitVec 6) (first : BitVec 6) (last : BitVec 6) (rsv : BitVec 13) (dir : BitVec 1) :
    fld (packP op first last rsv dir) 26 6 = op := by
  apply fld_eq; rw [packP_toNat]
  have := op.isLt; have := first.isLt; have := last.isLt; have := rsv.isLt; have := dir.isLt
  omega

@[simp] theorem packP_first (op : BitVec 6) (first : BitVec 6) (last : BitVec 6) (rsv : BitVec 13) (dir : BitVec 1) :
    fld (packP op first last rsv dir) 20 6 = first := by
  apply fld_eq; rw [packP_toNat]
  have := op.isLt; have := first.isLt; have := last.isLt; have := rsv.isLt; have := dir.isLt
  omega

@[simp] theorem packP_last (op : BitVec 6) (first : BitVec 6) (last : BitVec 6) (rsv : BitVec 13) (dir : BitVec 1) :
    fld (packP op first last rsv dir) 14 6 = last := by
  apply fld_eq; rw [packP_toNat]
  have := op.isLt; have := first.isLt; have := last.isLt; have := rsv.isLt; have := dir.isLt
  omega

@[simp] theorem packP_rsv (op : BitVec 6) (first : BitVec 6) (last : BitVec 6) (rsv : BitVec 13) (dir : BitVec 1) :
    fld (packP op first last rsv dir) 1 13 = rsv := by
  apply fld_eq; rw [packP_toNat]
  have := op.isLt; have := first.isLt; have := last.isLt; have := rsv.isLt; have := dir.isLt
  omega

@[simp] theorem packP_dir (op : BitVec 6) (first : BitVec 6) (last : BitVec 6) (rsv : BitVec 13) (dir : BitVec 1) :
    fld (packP op first last rsv dir) 0 1 = dir := by
  apply fld_eq; rw [packP_toNat]
  have := op.isLt; have := first.isLt; have := last.isLt; have := rsv.isLt; have := dir.isLt
  omega

theorem packF_toNat (op : BitVec 6) (kind : BitVec 2) (scope : BitVec 3) (rsv : BitVec 5) (mask : BitVec 16) :
    (packF op kind scope rsv mask).toNat = op.toNat * 67108864 + kind.toNat * 16777216 + scope.toNat * 2097152 + rsv.toNat * 65536 + mask.toNat := by
  rw [packF, BitVec.toNat_ofNat]
  have := op.isLt; have := kind.isLt; have := scope.isLt; have := rsv.isLt; have := mask.isLt
  apply Nat.mod_eq_of_lt
  omega

@[simp] theorem packF_op (op : BitVec 6) (kind : BitVec 2) (scope : BitVec 3) (rsv : BitVec 5) (mask : BitVec 16) :
    fld (packF op kind scope rsv mask) 26 6 = op := by
  apply fld_eq; rw [packF_toNat]
  have := op.isLt; have := kind.isLt; have := scope.isLt; have := rsv.isLt; have := mask.isLt
  omega

@[simp] theorem packF_kind (op : BitVec 6) (kind : BitVec 2) (scope : BitVec 3) (rsv : BitVec 5) (mask : BitVec 16) :
    fld (packF op kind scope rsv mask) 24 2 = kind := by
  apply fld_eq; rw [packF_toNat]
  have := op.isLt; have := kind.isLt; have := scope.isLt; have := rsv.isLt; have := mask.isLt
  omega

@[simp] theorem packF_scope (op : BitVec 6) (kind : BitVec 2) (scope : BitVec 3) (rsv : BitVec 5) (mask : BitVec 16) :
    fld (packF op kind scope rsv mask) 21 3 = scope := by
  apply fld_eq; rw [packF_toNat]
  have := op.isLt; have := kind.isLt; have := scope.isLt; have := rsv.isLt; have := mask.isLt
  omega

@[simp] theorem packF_rsv (op : BitVec 6) (kind : BitVec 2) (scope : BitVec 3) (rsv : BitVec 5) (mask : BitVec 16) :
    fld (packF op kind scope rsv mask) 16 5 = rsv := by
  apply fld_eq; rw [packF_toNat]
  have := op.isLt; have := kind.isLt; have := scope.isLt; have := rsv.isLt; have := mask.isLt
  omega

@[simp] theorem packF_mask (op : BitVec 6) (kind : BitVec 2) (scope : BitVec 3) (rsv : BitVec 5) (mask : BitVec 16) :
    fld (packF op kind scope rsv mask) 0 16 = mask := by
  apply fld_eq; rw [packF_toNat]
  have := op.isLt; have := kind.isLt; have := scope.isLt; have := rsv.isLt; have := mask.isLt
  omega

theorem packT_toNat (op : BitVec 6) (td : BitVec 5) (rsv : BitVec 1) (base : BitVec 6) (fn : BitVec 2) (cls : BitVec 4) (off : BitVec 8) :
    (packT op td rsv base fn cls off).toNat = op.toNat * 67108864 + td.toNat * 2097152 + rsv.toNat * 1048576 + base.toNat * 16384 + fn.toNat * 4096 + cls.toNat * 256 + off.toNat := by
  rw [packT, BitVec.toNat_ofNat]
  have := op.isLt; have := td.isLt; have := rsv.isLt; have := base.isLt; have := fn.isLt; have := cls.isLt; have := off.isLt
  apply Nat.mod_eq_of_lt
  omega

@[simp] theorem packT_op (op : BitVec 6) (td : BitVec 5) (rsv : BitVec 1) (base : BitVec 6) (fn : BitVec 2) (cls : BitVec 4) (off : BitVec 8) :
    fld (packT op td rsv base fn cls off) 26 6 = op := by
  apply fld_eq; rw [packT_toNat]
  have := op.isLt; have := td.isLt; have := rsv.isLt; have := base.isLt; have := fn.isLt; have := cls.isLt; have := off.isLt
  omega

@[simp] theorem packT_td (op : BitVec 6) (td : BitVec 5) (rsv : BitVec 1) (base : BitVec 6) (fn : BitVec 2) (cls : BitVec 4) (off : BitVec 8) :
    fld (packT op td rsv base fn cls off) 21 5 = td := by
  apply fld_eq; rw [packT_toNat]
  have := op.isLt; have := td.isLt; have := rsv.isLt; have := base.isLt; have := fn.isLt; have := cls.isLt; have := off.isLt
  omega

@[simp] theorem packT_rsv (op : BitVec 6) (td : BitVec 5) (rsv : BitVec 1) (base : BitVec 6) (fn : BitVec 2) (cls : BitVec 4) (off : BitVec 8) :
    fld (packT op td rsv base fn cls off) 20 1 = rsv := by
  apply fld_eq; rw [packT_toNat]
  have := op.isLt; have := td.isLt; have := rsv.isLt; have := base.isLt; have := fn.isLt; have := cls.isLt; have := off.isLt
  omega

@[simp] theorem packT_base (op : BitVec 6) (td : BitVec 5) (rsv : BitVec 1) (base : BitVec 6) (fn : BitVec 2) (cls : BitVec 4) (off : BitVec 8) :
    fld (packT op td rsv base fn cls off) 14 6 = base := by
  apply fld_eq; rw [packT_toNat]
  have := op.isLt; have := td.isLt; have := rsv.isLt; have := base.isLt; have := fn.isLt; have := cls.isLt; have := off.isLt
  omega

@[simp] theorem packT_fn (op : BitVec 6) (td : BitVec 5) (rsv : BitVec 1) (base : BitVec 6) (fn : BitVec 2) (cls : BitVec 4) (off : BitVec 8) :
    fld (packT op td rsv base fn cls off) 12 2 = fn := by
  apply fld_eq; rw [packT_toNat]
  have := op.isLt; have := td.isLt; have := rsv.isLt; have := base.isLt; have := fn.isLt; have := cls.isLt; have := off.isLt
  omega

@[simp] theorem packT_cls (op : BitVec 6) (td : BitVec 5) (rsv : BitVec 1) (base : BitVec 6) (fn : BitVec 2) (cls : BitVec 4) (off : BitVec 8) :
    fld (packT op td rsv base fn cls off) 8 4 = cls := by
  apply fld_eq; rw [packT_toNat]
  have := op.isLt; have := td.isLt; have := rsv.isLt; have := base.isLt; have := fn.isLt; have := cls.isLt; have := off.isLt
  omega

@[simp] theorem packT_off (op : BitVec 6) (td : BitVec 5) (rsv : BitVec 1) (base : BitVec 6) (fn : BitVec 2) (cls : BitVec 4) (off : BitVec 8) :
    fld (packT op td rsv base fn cls off) 0 8 = off := by
  apply fld_eq; rw [packT_toNat]
  have := op.isLt; have := td.isLt; have := rsv.isLt; have := base.isLt; have := fn.isLt; have := cls.isLt; have := off.isLt
  omega

theorem packA_toNat (op : BitVec 6) (d : BitVec 6) (base : BitVec 6) (b : BitVec 6) (fn : BitVec 4) (cls : BitVec 4) :
    (packA op d base b fn cls).toNat = op.toNat * 67108864 + d.toNat * 1048576 + base.toNat * 16384 + b.toNat * 256 + fn.toNat * 16 + cls.toNat := by
  rw [packA, BitVec.toNat_ofNat]
  have := op.isLt; have := d.isLt; have := base.isLt; have := b.isLt; have := fn.isLt; have := cls.isLt
  apply Nat.mod_eq_of_lt
  omega

@[simp] theorem packA_op (op : BitVec 6) (d : BitVec 6) (base : BitVec 6) (b : BitVec 6) (fn : BitVec 4) (cls : BitVec 4) :
    fld (packA op d base b fn cls) 26 6 = op := by
  apply fld_eq; rw [packA_toNat]
  have := op.isLt; have := d.isLt; have := base.isLt; have := b.isLt; have := fn.isLt; have := cls.isLt
  omega

@[simp] theorem packA_d (op : BitVec 6) (d : BitVec 6) (base : BitVec 6) (b : BitVec 6) (fn : BitVec 4) (cls : BitVec 4) :
    fld (packA op d base b fn cls) 20 6 = d := by
  apply fld_eq; rw [packA_toNat]
  have := op.isLt; have := d.isLt; have := base.isLt; have := b.isLt; have := fn.isLt; have := cls.isLt
  omega

@[simp] theorem packA_base (op : BitVec 6) (d : BitVec 6) (base : BitVec 6) (b : BitVec 6) (fn : BitVec 4) (cls : BitVec 4) :
    fld (packA op d base b fn cls) 14 6 = base := by
  apply fld_eq; rw [packA_toNat]
  have := op.isLt; have := d.isLt; have := base.isLt; have := b.isLt; have := fn.isLt; have := cls.isLt
  omega

@[simp] theorem packA_b (op : BitVec 6) (d : BitVec 6) (base : BitVec 6) (b : BitVec 6) (fn : BitVec 4) (cls : BitVec 4) :
    fld (packA op d base b fn cls) 8 6 = b := by
  apply fld_eq; rw [packA_toNat]
  have := op.isLt; have := d.isLt; have := base.isLt; have := b.isLt; have := fn.isLt; have := cls.isLt
  omega

@[simp] theorem packA_fn (op : BitVec 6) (d : BitVec 6) (base : BitVec 6) (b : BitVec 6) (fn : BitVec 4) (cls : BitVec 4) :
    fld (packA op d base b fn cls) 4 4 = fn := by
  apply fld_eq; rw [packA_toNat]
  have := op.isLt; have := d.isLt; have := base.isLt; have := b.isLt; have := fn.isLt; have := cls.isLt
  omega

@[simp] theorem packA_cls (op : BitVec 6) (d : BitVec 6) (base : BitVec 6) (b : BitVec 6) (fn : BitVec 4) (cls : BitVec 4) :
    fld (packA op d base b fn cls) 0 4 = cls := by
  apply fld_eq; rw [packA_toNat]
  have := op.isLt; have := d.isLt; have := base.isLt; have := b.isLt; have := fn.isLt; have := cls.isLt
  omega

theorem packS_toNat (op : BitVec 6) (fn : BitVec 6) (d : BitVec 6) (a : BitVec 6) (b : BitVec 6) (m : BitVec 2) :
    (packS op fn d a b m).toNat = op.toNat * 67108864 + fn.toNat * 1048576 + d.toNat * 16384 + a.toNat * 256 + b.toNat * 4 + m.toNat := by
  rw [packS, BitVec.toNat_ofNat]
  have := op.isLt; have := fn.isLt; have := d.isLt; have := a.isLt; have := b.isLt; have := m.isLt
  apply Nat.mod_eq_of_lt
  omega

@[simp] theorem packS_op (op : BitVec 6) (fn : BitVec 6) (d : BitVec 6) (a : BitVec 6) (b : BitVec 6) (m : BitVec 2) :
    fld (packS op fn d a b m) 26 6 = op := by
  apply fld_eq; rw [packS_toNat]
  have := op.isLt; have := fn.isLt; have := d.isLt; have := a.isLt; have := b.isLt; have := m.isLt
  omega

@[simp] theorem packS_fn (op : BitVec 6) (fn : BitVec 6) (d : BitVec 6) (a : BitVec 6) (b : BitVec 6) (m : BitVec 2) :
    fld (packS op fn d a b m) 20 6 = fn := by
  apply fld_eq; rw [packS_toNat]
  have := op.isLt; have := fn.isLt; have := d.isLt; have := a.isLt; have := b.isLt; have := m.isLt
  omega

@[simp] theorem packS_d (op : BitVec 6) (fn : BitVec 6) (d : BitVec 6) (a : BitVec 6) (b : BitVec 6) (m : BitVec 2) :
    fld (packS op fn d a b m) 14 6 = d := by
  apply fld_eq; rw [packS_toNat]
  have := op.isLt; have := fn.isLt; have := d.isLt; have := a.isLt; have := b.isLt; have := m.isLt
  omega

@[simp] theorem packS_a (op : BitVec 6) (fn : BitVec 6) (d : BitVec 6) (a : BitVec 6) (b : BitVec 6) (m : BitVec 2) :
    fld (packS op fn d a b m) 8 6 = a := by
  apply fld_eq; rw [packS_toNat]
  have := op.isLt; have := fn.isLt; have := d.isLt; have := a.isLt; have := b.isLt; have := m.isLt
  omega

@[simp] theorem packS_b (op : BitVec 6) (fn : BitVec 6) (d : BitVec 6) (a : BitVec 6) (b : BitVec 6) (m : BitVec 2) :
    fld (packS op fn d a b m) 2 6 = b := by
  apply fld_eq; rw [packS_toNat]
  have := op.isLt; have := fn.isLt; have := d.isLt; have := a.isLt; have := b.isLt; have := m.isLt
  omega

@[simp] theorem packS_m (op : BitVec 6) (fn : BitVec 6) (d : BitVec 6) (a : BitVec 6) (b : BitVec 6) (m : BitVec 2) :
    fld (packS op fn d a b m) 0 2 = m := by
  apply fld_eq; rw [packS_toNat]
  have := op.isLt; have := fn.isLt; have := d.isLt; have := a.isLt; have := b.isLt; have := m.isLt
  omega

theorem packSC_toNat (op : BitVec 6) (fn : BitVec 6) (d : BitVec 6) (n12 : BitVec 12) (m : BitVec 2) :
    (packSC op fn d n12 m).toNat = op.toNat * 67108864 + fn.toNat * 1048576 + d.toNat * 16384 + n12.toNat * 4 + m.toNat := by
  rw [packSC, BitVec.toNat_ofNat]
  have := op.isLt; have := fn.isLt; have := d.isLt; have := n12.isLt; have := m.isLt
  apply Nat.mod_eq_of_lt
  omega

@[simp] theorem packSC_op (op : BitVec 6) (fn : BitVec 6) (d : BitVec 6) (n12 : BitVec 12) (m : BitVec 2) :
    fld (packSC op fn d n12 m) 26 6 = op := by
  apply fld_eq; rw [packSC_toNat]
  have := op.isLt; have := fn.isLt; have := d.isLt; have := n12.isLt; have := m.isLt
  omega

@[simp] theorem packSC_fn (op : BitVec 6) (fn : BitVec 6) (d : BitVec 6) (n12 : BitVec 12) (m : BitVec 2) :
    fld (packSC op fn d n12 m) 20 6 = fn := by
  apply fld_eq; rw [packSC_toNat]
  have := op.isLt; have := fn.isLt; have := d.isLt; have := n12.isLt; have := m.isLt
  omega

@[simp] theorem packSC_d (op : BitVec 6) (fn : BitVec 6) (d : BitVec 6) (n12 : BitVec 12) (m : BitVec 2) :
    fld (packSC op fn d n12 m) 14 6 = d := by
  apply fld_eq; rw [packSC_toNat]
  have := op.isLt; have := fn.isLt; have := d.isLt; have := n12.isLt; have := m.isLt
  omega

@[simp] theorem packSC_n12 (op : BitVec 6) (fn : BitVec 6) (d : BitVec 6) (n12 : BitVec 12) (m : BitVec 2) :
    fld (packSC op fn d n12 m) 2 12 = n12 := by
  apply fld_eq; rw [packSC_toNat]
  have := op.isLt; have := fn.isLt; have := d.isLt; have := n12.isLt; have := m.isLt
  omega

@[simp] theorem packSC_m (op : BitVec 6) (fn : BitVec 6) (d : BitVec 6) (n12 : BitVec 12) (m : BitVec 2) :
    fld (packSC op fn d n12 m) 0 2 = m := by
  apply fld_eq; rw [packSC_toNat]
  have := op.isLt; have := fn.isLt; have := d.isLt; have := n12.isLt; have := m.isLt
  omega

theorem packE_toNat (op : BitVec 6) (fn : BitVec 6) (tdD : BitVec 5) (tdA : BitVec 5) (opB : BitVec 6) (m : BitVec 4) :
    (packE op fn tdD tdA opB m).toNat = op.toNat * 67108864 + fn.toNat * 1048576 + tdD.toNat * 32768 + tdA.toNat * 1024 + opB.toNat * 16 + m.toNat := by
  rw [packE, BitVec.toNat_ofNat]
  have := op.isLt; have := fn.isLt; have := tdD.isLt; have := tdA.isLt; have := opB.isLt; have := m.isLt
  apply Nat.mod_eq_of_lt
  omega

@[simp] theorem packE_op (op : BitVec 6) (fn : BitVec 6) (tdD : BitVec 5) (tdA : BitVec 5) (opB : BitVec 6) (m : BitVec 4) :
    fld (packE op fn tdD tdA opB m) 26 6 = op := by
  apply fld_eq; rw [packE_toNat]
  have := op.isLt; have := fn.isLt; have := tdD.isLt; have := tdA.isLt; have := opB.isLt; have := m.isLt
  omega

@[simp] theorem packE_fn (op : BitVec 6) (fn : BitVec 6) (tdD : BitVec 5) (tdA : BitVec 5) (opB : BitVec 6) (m : BitVec 4) :
    fld (packE op fn tdD tdA opB m) 20 6 = fn := by
  apply fld_eq; rw [packE_toNat]
  have := op.isLt; have := fn.isLt; have := tdD.isLt; have := tdA.isLt; have := opB.isLt; have := m.isLt
  omega

@[simp] theorem packE_tdD (op : BitVec 6) (fn : BitVec 6) (tdD : BitVec 5) (tdA : BitVec 5) (opB : BitVec 6) (m : BitVec 4) :
    fld (packE op fn tdD tdA opB m) 15 5 = tdD := by
  apply fld_eq; rw [packE_toNat]
  have := op.isLt; have := fn.isLt; have := tdD.isLt; have := tdA.isLt; have := opB.isLt; have := m.isLt
  omega

@[simp] theorem packE_tdA (op : BitVec 6) (fn : BitVec 6) (tdD : BitVec 5) (tdA : BitVec 5) (opB : BitVec 6) (m : BitVec 4) :
    fld (packE op fn tdD tdA opB m) 10 5 = tdA := by
  apply fld_eq; rw [packE_toNat]
  have := op.isLt; have := fn.isLt; have := tdD.isLt; have := tdA.isLt; have := opB.isLt; have := m.isLt
  omega

@[simp] theorem packE_opB (op : BitVec 6) (fn : BitVec 6) (tdD : BitVec 5) (tdA : BitVec 5) (opB : BitVec 6) (m : BitVec 4) :
    fld (packE op fn tdD tdA opB m) 4 6 = opB := by
  apply fld_eq; rw [packE_toNat]
  have := op.isLt; have := fn.isLt; have := tdD.isLt; have := tdA.isLt; have := opB.isLt; have := m.isLt
  omega

@[simp] theorem packE_m (op : BitVec 6) (fn : BitVec 6) (tdD : BitVec 5) (tdA : BitVec 5) (opB : BitVec 6) (m : BitVec 4) :
    fld (packE op fn tdD tdA opB m) 0 4 = m := by
  apply fld_eq; rw [packE_toNat]
  have := op.isLt; have := fn.isLt; have := tdD.isLt; have := tdA.isLt; have := opB.isLt; have := m.isLt
  omega

theorem packEM_toNat (op : BitVec 6) (fn : BitVec 4) (tdD : BitVec 5) (tdA : BitVec 5) (tdB : BitVec 5) (gS : BitVec 6) (f : BitVec 1) :
    (packEM op fn tdD tdA tdB gS f).toNat = op.toNat * 67108864 + fn.toNat * 4194304 + tdD.toNat * 131072 + tdA.toNat * 4096 + tdB.toNat * 128 + gS.toNat * 2 + f.toNat := by
  rw [packEM, BitVec.toNat_ofNat]
  have := op.isLt; have := fn.isLt; have := tdD.isLt; have := tdA.isLt; have := tdB.isLt; have := gS.isLt; have := f.isLt
  apply Nat.mod_eq_of_lt
  omega

@[simp] theorem packEM_op (op : BitVec 6) (fn : BitVec 4) (tdD : BitVec 5) (tdA : BitVec 5) (tdB : BitVec 5) (gS : BitVec 6) (f : BitVec 1) :
    fld (packEM op fn tdD tdA tdB gS f) 26 6 = op := by
  apply fld_eq; rw [packEM_toNat]
  have := op.isLt; have := fn.isLt; have := tdD.isLt; have := tdA.isLt; have := tdB.isLt; have := gS.isLt; have := f.isLt
  omega

@[simp] theorem packEM_fn (op : BitVec 6) (fn : BitVec 4) (tdD : BitVec 5) (tdA : BitVec 5) (tdB : BitVec 5) (gS : BitVec 6) (f : BitVec 1) :
    fld (packEM op fn tdD tdA tdB gS f) 22 4 = fn := by
  apply fld_eq; rw [packEM_toNat]
  have := op.isLt; have := fn.isLt; have := tdD.isLt; have := tdA.isLt; have := tdB.isLt; have := gS.isLt; have := f.isLt
  omega

@[simp] theorem packEM_tdD (op : BitVec 6) (fn : BitVec 4) (tdD : BitVec 5) (tdA : BitVec 5) (tdB : BitVec 5) (gS : BitVec 6) (f : BitVec 1) :
    fld (packEM op fn tdD tdA tdB gS f) 17 5 = tdD := by
  apply fld_eq; rw [packEM_toNat]
  have := op.isLt; have := fn.isLt; have := tdD.isLt; have := tdA.isLt; have := tdB.isLt; have := gS.isLt; have := f.isLt
  omega

@[simp] theorem packEM_tdA (op : BitVec 6) (fn : BitVec 4) (tdD : BitVec 5) (tdA : BitVec 5) (tdB : BitVec 5) (gS : BitVec 6) (f : BitVec 1) :
    fld (packEM op fn tdD tdA tdB gS f) 12 5 = tdA := by
  apply fld_eq; rw [packEM_toNat]
  have := op.isLt; have := fn.isLt; have := tdD.isLt; have := tdA.isLt; have := tdB.isLt; have := gS.isLt; have := f.isLt
  omega

@[simp] theorem packEM_tdB (op : BitVec 6) (fn : BitVec 4) (tdD : BitVec 5) (tdA : BitVec 5) (tdB : BitVec 5) (gS : BitVec 6) (f : BitVec 1) :
    fld (packEM op fn tdD tdA tdB gS f) 7 5 = tdB := by
  apply fld_eq; rw [packEM_toNat]
  have := op.isLt; have := fn.isLt; have := tdD.isLt; have := tdA.isLt; have := tdB.isLt; have := gS.isLt; have := f.isLt
  omega

@[simp] theorem packEM_gS (op : BitVec 6) (fn : BitVec 4) (tdD : BitVec 5) (tdA : BitVec 5) (tdB : BitVec 5) (gS : BitVec 6) (f : BitVec 1) :
    fld (packEM op fn tdD tdA tdB gS f) 1 6 = gS := by
  apply fld_eq; rw [packEM_toNat]
  have := op.isLt; have := fn.isLt; have := tdD.isLt; have := tdA.isLt; have := tdB.isLt; have := gS.isLt; have := f.isLt
  omega

@[simp] theorem packEM_f (op : BitVec 6) (fn : BitVec 4) (tdD : BitVec 5) (tdA : BitVec 5) (tdB : BitVec 5) (gS : BitVec 6) (f : BitVec 1) :
    fld (packEM op fn tdD tdA tdB gS f) 0 1 = f := by
  apply fld_eq; rw [packEM_toNat]
  have := op.isLt; have := fn.isLt; have := tdD.isLt; have := tdA.isLt; have := tdB.isLt; have := gS.isLt; have := f.isLt
  omega

theorem packDP_toNat (op : BitVec 6) (idx2 : BitVec 10) (mark : BitVec 6) (idx1 : BitVec 10) :
    (packDP op idx2 mark idx1).toNat = op.toNat * 67108864 + idx2.toNat * 65536 + mark.toNat * 1024 + idx1.toNat := by
  rw [packDP, BitVec.toNat_ofNat]
  have := op.isLt; have := idx2.isLt; have := mark.isLt; have := idx1.isLt
  apply Nat.mod_eq_of_lt
  omega

@[simp] theorem packDP_op (op : BitVec 6) (idx2 : BitVec 10) (mark : BitVec 6) (idx1 : BitVec 10) :
    fld (packDP op idx2 mark idx1) 26 6 = op := by
  apply fld_eq; rw [packDP_toNat]
  have := op.isLt; have := idx2.isLt; have := mark.isLt; have := idx1.isLt
  omega

@[simp] theorem packDP_idx2 (op : BitVec 6) (idx2 : BitVec 10) (mark : BitVec 6) (idx1 : BitVec 10) :
    fld (packDP op idx2 mark idx1) 16 10 = idx2 := by
  apply fld_eq; rw [packDP_toNat]
  have := op.isLt; have := idx2.isLt; have := mark.isLt; have := idx1.isLt
  omega

@[simp] theorem packDP_mark (op : BitVec 6) (idx2 : BitVec 10) (mark : BitVec 6) (idx1 : BitVec 10) :
    fld (packDP op idx2 mark idx1) 10 6 = mark := by
  apply fld_eq; rw [packDP_toNat]
  have := op.isLt; have := idx2.isLt; have := mark.isLt; have := idx1.isLt
  omega

@[simp] theorem packDP_idx1 (op : BitVec 6) (idx2 : BitVec 10) (mark : BitVec 6) (idx1 : BitVec 10) :
    fld (packDP op idx2 mark idx1) 0 10 = idx1 := by
  apply fld_eq; rw [packDP_toNat]
  have := op.isLt; have := idx2.isLt; have := mark.isLt; have := idx1.isLt
  omega

end Sys2Proof
end

