-- ==== Sys2Proof/Laws/Homes.lean ====
section
/-!
SUPPORT. Accesses at the homes: what leaves memory as it is, and that reads, writes, walks and a context's accesses keep
memory's canonical form (`…_wf`).
-/
namespace Sys2Proof.Machine

/-! ## Folds -/

/-- A property of the second part that every turn of a fold keeps holds at its end. -/
theorem foldl_snd {α β σ : Type} (P : σ → Prop) (f : α × σ → β → α × σ) (hf : ∀ a b, P a.2 → P (f a b).2) :
    ∀ (l : List β) (a : α × σ), P a.2 → P (l.foldl f a).2
  | [], _, h => h
  | b :: r, a, h => foldl_snd P f hf r (f a b) (hf a b h)

/-- A property that every turn of a fold keeps holds at its end. -/
theorem foldl_keep {β σ : Type} (P : σ → Prop) (f : σ → β → σ) (hf : ∀ a b, P a → P (f a b)) : ∀ (l : List β) (a : σ), P a → P (l.foldl f a)
  | [], _, h => h
  | b :: r, a, h => foldl_keep P f hf r (f a b) (hf a b h)

/-! ## What leaves memory as it is -/

@[simp] theorem State.log_mem (s : State) (k : Nat) (r : LogRec) : (s.log k r).mem = s.mem := rfl

@[simp] theorem State.busTransfer_mem (s : State) (k line : Nat) : (s.busTransfer k line).2.mem = s.mem := by
  unfold State.busTransfer
  dsimp only
  split
  · rfl
  · split <;> split <;> rfl
  · rfl
  · split
    · rfl
    · split <;> rfl

@[simp] theorem State.retire_mem (s : State) (k pch : Nat) (r : LogRec) : (s.retire k pch r).mem = s.mem := by
  unfold State.retire
  dsimp only
  split
  · rfl
  · split
    · rw [State.send_mem, State.log_mem, State.setStack_mem]
    · split
      · rw [State.send_mem, State.log_mem, State.modStack_mem, State.send_mem, State.log_mem, State.setStack_mem]
      · rw [State.send_mem, State.log_mem, State.setStack_mem]

@[simp] theorem State.laneTest_mem (s : State) (k pch : Nat) : (s.laneTest k pch).mem = s.mem := by
  unfold State.laneTest
  dsimp only
  split
  · rfl
  · split
    · rfl
    · split
      · rfl
      · split
        · rfl
        · split
          · rfl
          · rw [State.retire_mem]; rfl

@[simp] theorem State.crossBus_mem (k line : Nat) : ∀ (n : Nat) (s : State), (State.crossBus k line n s).2.mem = s.mem
  | 0, _ => rfl
  | n + 1, s => by
    unfold State.crossBus
    dsimp only
    split
    · split
      · rw [State.crossBus_mem k line n, State.laneTest_mem]
      · split
        · rw [State.crossBus_mem k line n, State.busTransfer_mem]
        · split
          · exact State.busTransfer_mem _ _ _
          · rw [State.crossBus_mem k line n]
            split
            · exact State.busTransfer_mem _ _ _
            · exact State.busTransfer_mem _ _ _
    · split
      · rw [State.crossBus_mem k line n, State.busTransfer_mem]
      · exact State.busTransfer_mem _ _ _

@[simp] theorem State.busRead_mem (s : State) (k line : Nat) : (s.busRead k line).2.mem = s.mem := by
  unfold State.busRead
  dsimp only
  split
  · rfl
  · split
    · rfl
    · split
      · rfl
      · exact State.crossBus_mem _ _ _ _

@[simp] theorem State.eccCodeword_mem (s : State) (k line cw : Nat) : (s.eccCodeword k line cw).2.mem = s.mem := by
  unfold State.eccCodeword
  dsimp only
  split <;> rfl

@[simp] theorem State.eccLine_mem (s : State) (k line : Nat) : (s.eccLine k line).2.mem = s.mem := by
  unfold State.eccLine
  dsimp only
  split
  · rfl
  · split
    · rfl
    · exact foldl_snd (fun t : State => t.mem = s.mem) _ (fun a b h => by simpa using h) _ _ rfl

@[simp] theorem State.readLine_mem (s : State) (k line : Nat) : (s.readLine k line).2.mem = s.mem := by
  unfold State.readLine
  dsimp only
  split
  · rw [State.eccLine_mem, State.busRead_mem]
  · exact State.busRead_mem _ _ _

@[simp] theorem State.readLines_mem (s : State) (k : Nat) (ls : List Nat) : (s.readLines k ls).2.mem = s.mem :=
  foldl_snd (fun t : State => t.mem = s.mem) _ (fun a b h => by simpa using h) _ _ rfl

@[simp] theorem State.fresh_mem (s : State) (k : Nat) (hit : BadSym → Bool) : (s.fresh k hit).mem = s.mem := by
  unfold State.fresh
  dsimp only
  split <;> rfl

@[simp] theorem State.reclass_mem (s : State) (k block kid : Nat) (c : Bool) : (s.reclass k block kid c).mem = s.mem := rfl

@[simp] theorem State.storeWhole_mem (s : State) (k line : Nat) : (s.storeWhole k line).mem = s.mem := by
  unfold State.storeWhole
  split
  · rfl
  · exact State.fresh_mem _ _ _

@[simp] theorem State.storeBlock_mem (s : State) (k block kid : Nat) (c : Bool) : (s.storeBlock k block kid c).mem = s.mem :=
  foldl_keep (fun t : State => t.mem = s.mem) _ (fun t i h => by rw [State.storeWhole_mem]; exact h) _ _ rfl

/-- The array's part of a write stores no bytes. -/
@[simp] theorem State.arrayWrite_mem (s : State) (k line off n : Nat) (c : Bool) : (s.arrayWrite k line off n c).2.mem = s.mem := by
  unfold State.arrayWrite
  dsimp only
  split
  · generalize (if (s.stack k).classAt (line / 4) = 4 then _ else _) = ls
    split
    · rw [State.fresh_mem, State.readLines_mem]
    · exact State.readLines_mem _ _ _
  · split
    · exact State.storeWhole_mem _ _ _
    · split
      · rfl
      · have hb : (if ([0, 1, 2, 3].filter fun cw => decide (off < 32 * cw + 32 ∧ 32 * cw < off + n) &&
            !decide (off ≤ 32 * cw ∧ 32 * cw + 32 ≤ off + n)).isEmpty = true then (true, s) else s.busRead k line).2.mem = s.mem := by
          split
          · rfl
          · exact State.busRead_mem _ _ _
        generalize (if ([0, 1, 2, 3].filter _).isEmpty = true then _ else _) = b at hb ⊢
        split
        · have hf := foldl_snd (fun t : State => t.mem = s.mem)
            (fun (a : Bool × State) cw => (a.1 && (a.2.eccCodeword k line cw).1, (a.2.eccCodeword k line cw).2)) (fun a b h => by simpa using h)
            ([0, 1, 2, 3].filter fun cw => decide (off < 32 * cw + 32 ∧ 32 * cw < off + n) && !decide (off ≤ 32 * cw ∧ 32 * cw + 32 ≤ off + n))
            (true, b.2) hb
          split
          · rw [State.fresh_mem]
            exact hf
          · exact hf
        · exact hb

@[simp] theorem State.report_mem (s : State) (c : Nat) (r : List Byte) (g : Bool) : (s.report c r g).mem = s.mem := by simp [State.report]

@[simp] theorem State.reportMem_mem (s : State) (c : Nat) (w : Option (Nat × Nat)) (x a n : Nat) (g : Bool) :
    (s.reportMem c w x a n g).mem = s.mem := by
  unfold State.reportMem
  split
  · rfl
  · split
    · split <;> simp
    · simp

@[simp] theorem State.lostLines_mem (s : State) (l : List (Nat × Nat)) : (s.lostLines l).mem = s.mem :=
  foldl_keep (fun t : State => t.mem = s.mem) _ (fun t x h => by simpa using h) _ _ rfl

@[simp] theorem State.watchReports_mem (s : State) (die : Nat) (sh : Bool) (a n : Nat) (w : Writer) : (s.watchReports die sh a n w).mem = s.mem := by
  unfold State.watchReports
  refine foldl_keep (fun t : State => t.mem = s.mem) _ (fun t x h => ?_) _ _ rfl
  split
  · split
    · simpa using h
    · exact h
  · exact h

@[simp] theorem State.pushLine_mem (s : State) (line : Nat) (w : Writer) : (s.pushLine line w).mem = s.mem := rfl

@[simp] theorem State.makePushes_mem (s : State) (pa n : Nat) (w : Writer) : (s.makePushes pa n w).mem = s.mem := by
  unfold State.makePushes
  split
  · rfl
  · exact foldl_keep (fun t : State => t.mem = s.mem) (fun t i => t.pushLine (pa / 128 * 128 + 128 * i) w) (fun t i h => h) _ _ rfl

/-! ## Gates of the part's own accesses -/

@[simp] theorem State.hold_mem (s : State) : s.hold.mem = s.mem := rfl

@[simp] theorem State.askFor_mem (s : State) (rank ctx : Nat) (loc : Loc) (n : Nat) (use : FabUse) : (s.askFor rank ctx loc n use).mem = s.mem := by
  unfold State.askFor
  split
  · split <;> rfl
  · rfl

@[simp] theorem State.partGate_mem (s : State) (die ctx pa n : Nat) : (s.partGate die ctx pa n).2.mem = s.mem := by
  unfold State.partGate
  dsimp only
  split
  · rfl
  · split
    · rfl
    · split
      · rfl
      · split
        · rw [State.hold_mem, State.askFor_mem]
        · rfl

/-! ## The canonical form at the homes -/

theorem State.retagBlock_wf {s : State} (k line kid : Nat) (h : Memory.wf s.mem = true) : Memory.wf (s.retagBlock k line kid).mem = true :=
  State.wf_retag _ _ _ h

theorem State.writeBack_wf {s : State} (k line : Nat) (h : Memory.wf s.mem = true) : Memory.wf (s.writeBack k line).2.mem = true := by
  unfold State.writeBack
  dsimp only
  split
  · exact h
  · split
    · split
      · split
        · split
          · rw [State.storeBlock_mem]
            exact State.retagBlock_wf _ _ _ (by simpa using h)
          · simpa using h
        · simpa using h
      · exact State.wf_revertLine _ _ _ (by simpa using h)
    · exact h

theorem State.evict_wf {s : State} (k line : Nat) (h : Memory.wf s.mem = true) : Memory.wf (s.evict k line).2.mem = true :=
  State.writeBack_wf _ _ h

theorem State.rekeyLine_wf {s : State} (k line slot : Nat) (h : Memory.wf s.mem = true) : Memory.wf (s.rekeyLine k line slot).2.mem = true := by
  unfold State.rekeyLine
  split
  · exact h
  · split
    · exact h
    · exact State.evict_wf _ _ h

theorem State.cacheRoom_wf {s : State} (k line : Nat) (h : Memory.wf s.mem = true) : Memory.wf (s.cacheRoom k line).2.2.mem = true := by
  unfold State.cacheRoom
  dsimp only
  split
  · exact h
  · split
    · exact h
    · split
      · exact h
      · split
        · exact h
        · exact State.evict_wf _ _ h

/-- A read at a home keeps the form. -/
theorem State.homeRead_wf {s : State} (pa slot : Nat) (alloc : Bool) (h : Memory.wf s.mem = true) : Memory.wf (s.homeRead pa slot alloc).st.mem = true := by
  unfold State.homeRead
  dsimp only
  split
  · exact h
  · have h1 := State.rekeyLine_wf (stackOf pa) (lineOf pa) slot h
    generalize s.rekeyLine (stackOf pa) (lineOf pa) slot = r at h1 ⊢
    split
    · exact h1
    · have h2 : Memory.wf (r.2.readLines (stackOf pa) ((r.2.stack (stackOf pa)).readSet (lineOf pa))).2.mem = true := by
        rw [State.readLines_mem]; exact h1
      generalize r.2.readLines (stackOf pa) ((r.2.stack (stackOf pa)).readSet (lineOf pa)) = e at h2 ⊢
      split
      · have h3 := State.cacheRoom_wf (stackOf pa) (lineOf pa) h2
        generalize e.2.cacheRoom (stackOf pa) (lineOf pa) = c at h3 ⊢
        dsimp only
        split <;> exact h3
      · exact h2

theorem State.writeArray_wf {s : State} (pa kid : Nat) (c : Bool) (bs : List Byte) (h : Memory.wf s.mem = true) :
    Memory.wf (s.writeArray pa kid c bs).2.mem = true := by
  have he : Memory.wf (s.arrayWrite (stackOf pa) (lineOf pa) (pa % 128) bs.length c).2.mem = true := by rw [State.arrayWrite_mem]; exact h
  unfold State.writeArray
  simp only
  generalize s.arrayWrite (stackOf pa) (lineOf pa) (pa % 128) bs.length c = e at he ⊢
  split
  · split
    · rw [State.storeBlock_mem]
      exact State.wf_putGlobal _ _ _ (State.retagBlock_wf _ _ _ he)
    · exact State.wf_putGlobal _ _ _ he
  · exact he

theorem State.writeCached_wf {s : State} (pa kid : Nat) (x : SramLine) (c : Bool) (o : Option Nat) (bs : List Byte) (h : Memory.wf s.mem = true) :
    Memory.wf (s.writeCached pa kid x c o bs).mem = true :=
  State.wf_putGlobal _ _ _ h

/-- Room made, or not asked for, keeps the form. -/
theorem State.roomIf_wf {s : State} (alloc : Bool) (k line : Nat) (h : Memory.wf s.mem = true) :
    Memory.wf (if alloc = true then s.cacheRoom k line else (false, [], s)).2.2.mem = true := by
  split
  · exact State.cacheRoom_wf _ _ h
  · exact h

theorem State.lineWrite_wf {s : State} (pa slot : Nat) (alloc c : Bool) (o : Option Nat) (bs : List Byte) (h : Memory.wf s.mem = true) :
    Memory.wf (s.lineWrite pa slot alloc c o bs).st.mem = true := by
  have h1 := State.rekeyLine_wf (stackOf pa) (lineOf pa) slot h
  unfold State.lineWrite
  simp only
  generalize s.rekeyLine (stackOf pa) (lineOf pa) slot = r at h1 ⊢
  split
  · exact State.writeCached_wf _ _ _ _ _ _ h1
  · have h2 := State.roomIf_wf alloc (stackOf pa) (lineOf pa) h1
    generalize (if alloc = true then r.2.cacheRoom (stackOf pa) (lineOf pa) else (false, [], r.2)) = e at h2 ⊢
    have h3 : Memory.wf (if (e.1 && bs.length != 128) = true then e.2.2.readLines (stackOf pa) ((e.2.2.stack (stackOf pa)).readSet (lineOf pa))
        else (e.1, e.2.2)).2.mem = true := by
      split
      · rw [State.readLines_mem]; exact h2
      · exact h2
    generalize (if (e.1 && bs.length != 128) = true then e.2.2.readLines (stackOf pa) ((e.2.2.stack (stackOf pa)).readSet (lineOf pa))
        else (e.1, e.2.2)) = f at h3 ⊢
    split
    · exact State.writeCached_wf _ _ _ _ _ _ h3
    · exact State.writeArray_wf _ _ _ _ h3

theorem State.blockLine_wf {s : State} (pa slot : Nat) (alloc c : Bool) (o : Option Nat) (bs : List Byte) (h : Memory.wf s.mem = true) :
    Memory.wf (s.blockLine pa slot alloc c o bs).2.2.mem = true := by
  have h1 := State.rekeyLine_wf (stackOf pa) (lineOf pa) slot h
  unfold State.blockLine
  simp only
  generalize s.rekeyLine (stackOf pa) (lineOf pa) slot = r at h1 ⊢
  split
  · exact State.writeCached_wf _ _ _ _ _ _ h1
  · have h2 := State.roomIf_wf alloc (stackOf pa) (lineOf pa) h1
    generalize (if alloc = true then r.2.cacheRoom (stackOf pa) (lineOf pa) else (false, [], r.2)) = e at h2 ⊢
    split
    · exact State.writeCached_wf _ _ _ _ _ _ h2
    · exact State.wf_putGlobal _ _ _ h2

theorem State.blockWrite_wf {s : State} (pa slot : Nat) (alloc c : Bool) (o : Option Nat) (bs : List Byte) (h : Memory.wf s.mem = true) :
    Memory.wf (s.blockWrite pa slot alloc c o bs).st.mem = true := by
  have hf := foldl_snd (σ := List (Nat × Nat) × State) (fun t => Memory.wf t.2.mem = true)
    (fun (a : List Nat × List (Nat × Nat) × State) i =>
      (if (a.2.2.blockLine (pa + 128 * i) slot alloc c o ((bs.drop (128 * i)).take 128)).1 then a.1 ++ [lineOf pa + i] else a.1,
        a.2.1 ++ (a.2.2.blockLine (pa + 128 * i) slot alloc c o ((bs.drop (128 * i)).take 128)).2.1,
        (a.2.2.blockLine (pa + 128 * i) slot alloc c o ((bs.drop (128 * i)).take 128)).2.2))
    (fun a i ha => State.blockLine_wf _ _ _ _ _ _ ha) [0, 1, 2, 3] ([], [], s) h
  unfold State.blockWrite
  simp only
  generalize List.foldl _ ([], [], s) [0, 1, 2, 3] = r at hf ⊢
  split
  · exact hf
  · split
    · rw [State.storeBlock_mem]; exact hf
    · exact foldl_keep (fun t : State => Memory.wf t.mem = true) _ (fun t l ht => by rw [State.storeWhole_mem]; exact ht) _ _ hf

/-- A write at a home keeps the form. -/
theorem State.homeWrite_wf {s : State} (pa slot : Nat) (alloc c : Bool) (o : Option Nat) (bs : List Byte) (h : Memory.wf s.mem = true) :
    Memory.wf (s.homeWrite pa slot alloc c o bs).st.mem = true := by
  unfold State.homeWrite
  split
  · exact State.wf_putGlobal _ _ _ h
  · split
    · exact State.blockWrite_wf _ _ _ _ _ _ h
    · exact State.lineWrite_wf _ _ _ _ _ _ h

/-- One write at a home, its watch reports and its pushes keep the form. -/
theorem State.performPiece_wf {s : State} (w : Writer) (pa : Nat) (attr : PageAttr) (alloc : Bool) (bs : List Byte) (h : Memory.wf s.mem = true) :
    Memory.wf (s.performPiece w pa attr alloc bs).2.mem = true := by
  have h1 := State.homeWrite_wf pa attr.key alloc attr.compress (w.owner <|> w.ctx) bs h
  unfold State.performPiece
  simp only
  split
  · split
    · split <;> simpa using h1
    · split <;> simpa using h1
  · simpa using h1

theorem State.performRaw_wf {s : State} (w : Writer) (pa : Nat) (attr : PageAttr) (alloc : Bool) (bs : List Byte) (h : Memory.wf s.mem = true) :
    Memory.wf (s.performRaw w pa attr alloc bs).2.mem = true := by
  unfold State.performRaw
  refine foldl_snd (fun t : State => Memory.wf t.mem = true) _ (fun a p ha => ?_) _ _ h
  split
  · exact State.performPiece_wf _ _ _ _ _ ha
  · exact ha

theorem State.readHome_wf {s : State} (pa : Nat) (attr : PageAttr) (alloc : Bool) (n : Nat) (h : Memory.wf s.mem = true) :
    Memory.wf (s.readHome pa attr alloc n).2.mem = true := by
  unfold State.readHome
  simp only
  have hf := foldl_snd (fun t : State => Memory.wf t.mem = true)
    (fun (a : Option Nat × State) l => match a.1 with
      | some _ => a
      | none => ((if (a.2.homeRead l attr.key alloc).ok then none else some l), (a.2.homeRead l attr.key alloc).st.lostLines (a.2.homeRead l attr.key alloc).lost))
    (fun a l ha => by
      split
      · exact ha
      · simpa using State.homeRead_wf l attr.key alloc ha)
    ((List.range ((pa % 128 + n + 127) / 128)).map fun i => pa / 128 * 128 + 128 * i) (none, s) h
  split <;> exact hf

/-! ## Walks and a context's accesses -/

theorem State.tableRead_wf {s : State} (die ctx pa : Nat) (h : Memory.wf s.mem = true) : Memory.wf (s.tableRead die ctx pa).2.mem = true := by
  have h1 := State.readHome_wf (s := (s.partGate die ctx pa 8).2) pa tableAttr true 8 (by simpa using h)
  unfold State.tableRead
  simp only
  split
  · split <;> next e => rw [e] at h1; exact h1
  · simpa using h

theorem State.setLeafBits_wf {s : State} (die ctx pa bits : Nat) (h : Memory.wf s.mem = true) :
    Memory.wf (s.setLeafBits die ctx pa bits).2.mem = true := by
  have h1 := State.tableRead_wf die ctx pa h
  unfold State.setLeafBits
  split
  · next e =>
    rw [e] at h1
    split
    · exact h1
    · exact State.performRaw_wf _ _ _ _ _ h1
  · next e => rw [e] at h1; exact h1

/-- A walk keeps the form. -/
theorem State.walkFrom_wf (die ctx va : Nat) : ∀ (level table : Nat) {s : State}, Memory.wf s.mem = true →
    Memory.wf (s.walkFrom die ctx va level table).2.mem = true
  | 0, table, s, h => by
    have h1 := State.tableRead_wf die ctx (table + 8 * levelIndex va 0) h
    unfold State.walkFrom
    simp only
    split
    · next e => rw [e] at h1; exact h1
    · next e =>
      rw [e] at h1
      split <;> exact h1
  | l + 1, table, s, h => by
    have h1 := State.tableRead_wf die ctx (table + 8 * levelIndex va (l + 1)) h
    unfold State.walkFrom
    simp only
    split
    · next e => rw [e] at h1; exact h1
    · next e =>
      rw [e] at h1
      split
      · exact h1
      · exact State.walkFrom_wf die ctx va l _ h1
      · exact h1

theorem State.ctxXlate_wf {s : State} (die ctx va : Nat) (kind : AccKind) (h : Memory.wf s.mem = true) : Memory.wf (s.ctxXlate die ctx va kind).2.mem = true := by
  unfold State.ctxXlate
  split
  · exact h
  · next c _ =>
    have h1 := State.walkFrom_wf die ctx va 4 c.root h
    split
    · next e => rw [e] at h1; exact h1
    · next e =>
      rw [e] at h1
      split
      · exact h1
      · split
        · exact h1
        · split
          · exact h1
          · split <;> next e2 => have h2 := congrArg (fun x => x.2.mem) e2; dsimp only at h2 ⊢; rw [← h2]; exact State.setLeafBits_wf _ _ _ _ h1

/-- An access of the part to a piece of a context's memory keeps the form. -/
theorem State.ctxPiece_wf {s : State} (die ctx va n : Nat) (kind : AccKind) (h : Memory.wf s.mem = true) :
    Memory.wf (s.ctxPiece die ctx va n kind).2.mem = true := by
  have h1 := State.ctxXlate_wf die ctx va kind h
  unfold State.ctxPiece
  split
  · next e => rw [e] at h1; exact h1
  · next e => rw [e] at h1; simpa using h1

theorem State.ctxCheck_wf {s : State} (die ctx va n : Nat) (kind : AccKind) (h : Memory.wf s.mem = true) : Memory.wf (s.ctxCheck die ctx va n kind).2.mem = true := by
  unfold State.ctxCheck
  refine foldl_snd (fun t : State => Memory.wf t.mem = true) _ (fun a p ha => ?_) _ _ h
  split
  · exact ha
  · have h1 := State.ctxXlate_wf die ctx p kind ha
    split <;> next e => rw [e] at h1; exact h1

/-- Reads of a context's memory keep the form. -/
theorem State.ctxReadAs_wf {s : State} (kind : AccKind) (b : Bool) (die ctx va n : Nat) (h : Memory.wf s.mem = true) :
    Memory.wf (s.ctxReadAs kind b die ctx va n).2.mem = true := by
  unfold State.ctxReadAs
  refine foldl_snd (fun t : State => Memory.wf t.mem = true) _ (fun a p ha => ?_) _ _ h
  split
  · exact ha
  · have h1 := State.ctxPiece_wf die ctx p.1 p.2 kind ha
    split
    · next e => rw [e] at h1; exact h1
    · next pa attr s1 e =>
      rw [e] at h1
      have h2 := State.readHome_wf pa attr (!b && attr.pol = 0) p.2 h1
      split <;> next e2 => rw [e2] at h2; exact h2

theorem State.ctxRead_wf {s : State} (die ctx va n : Nat) (h : Memory.wf s.mem = true) : Memory.wf (s.ctxRead die ctx va n).2.mem = true :=
  State.ctxReadAs_wf _ _ _ _ _ _ h

theorem State.ctxReadNat_wf {s : State} (die ctx va n : Nat) (h : Memory.wf s.mem = true) : Memory.wf (s.ctxReadNat die ctx va n).2.mem = true := by
  have h1 := State.ctxRead_wf die ctx va n h
  unfold State.ctxReadNat
  split <;> next e => rw [e] at h1; exact h1

/-- Writes of a context's memory keep the form. -/
theorem State.ctxWriteBy_wf {s : State} (w : Writer) (die ctx va : Nat) (bs : List Byte) (h : Memory.wf s.mem = true) :
    Memory.wf (s.ctxWriteBy w die ctx va bs).2.mem = true := by
  unfold State.ctxWriteBy
  refine foldl_snd (fun t : State => Memory.wf t.mem = true) _ (fun a p ha => ?_) _ _ h
  simp only
  split
  · exact ha
  · have h1 := State.ctxPiece_wf die ctx p.1 p.2 .store ha
    split
    · next e => rw [e] at h1; exact h1
    · next pa attr s1 e =>
      rw [e] at h1
      have h2 := State.performRaw_wf { w with owner := w.owner <|> some ctx } pa attr (attr.pol = 0) ((bs.drop (p.1 - va)).take p.2) h1
      split <;> exact h2

theorem State.ctxWrite_wf {s : State} (die ctx va : Nat) (bs : List Byte) (h : Memory.wf s.mem = true) : Memory.wf (s.ctxWrite die ctx va bs).2.mem = true :=
  State.ctxWriteBy_wf _ _ _ _ _ h

/-! ## Tiles and results in LOCAL memory -/

theorem Tile.imgPut_wf (t : Tile) (base : Nat) : ∀ (bs : List Byte) (p : Nat) {m : Cells}, Memory.wf m = true → Memory.wf (t.imgPut m base p bs) = true
  | [], _, _, h => h
  | _ :: r, p, _, h => Tile.imgPut_wf t base r (p + 1) (Memory.wf_write _ _ h)

theorem applyRows_wf (keep : Nat → Bool) : ∀ (l : List RowWrite) (k : Nat) {m : Cells}, Memory.wf m = true → Memory.wf (applyRows keep k l m) = true
  | [], _, _, h => h
  | _ :: r, _, _, h => applyRows_wf keep r _ (Memory.wf_writeBytes _ _ h)

/-! ## Accesses of units at their points -/

theorem State.logStep_wf {s : State} (w : Writer) (pa : Nat) (attr : PageAttr) (h : Memory.wf s.mem = true) : Memory.wf (s.logStep w pa attr).mem = true := by
  unfold State.logStep
  simp only
  split
  · exact h
  · split <;> exact h

/-- A log entry keeps the form. -/
theorem State.logUndo_wf {s : State} (w : Writer) (pa : Nat) (attr : PageAttr) (h : Memory.wf s.mem = true) : Memory.wf (s.logUndo w pa attr).2.mem = true := by
  unfold State.logUndo
  split
  · exact h
  · next cn _ =>
    split
    · exact h
    · have h1 := State.logStep_wf w pa attr h
      simp only
      generalize s.logStep w pa attr = s1 at h1 ⊢
      split
      · exact h1
      · split
        · exact h1
        · split
          · simpa using h1
          · rw [State.dieEvent_mem]
            exact State.ctxWriteBy_wf _ _ _ _ _ (by simpa using h1)

theorem State.logLines_wf {s : State} (w : Writer) (pa n : Nat) (attr : PageAttr) (h : Memory.wf s.mem = true) :
    Memory.wf (s.logLines w pa n attr).2.mem = true := by
  unfold State.logLines
  split
  · exact h
  · refine foldl_snd (fun t : State => Memory.wf t.mem = true) _ (fun a i ha => ?_) _ _ h
    split
    · exact State.logUndo_wf _ _ _ ha
    · exact ha

theorem State.performWrite_wf {s : State} (w : Writer) (pa : Nat) (attr : PageAttr) (alloc : Bool) (bs : List Byte) (h : Memory.wf s.mem = true) :
    Memory.wf (s.performWrite w pa attr alloc bs).2.mem = true := by
  unfold State.performWrite
  refine foldl_snd (fun t : State => Memory.wf t.mem = true) _ (fun a p ha => ?_) _ _ h
  simp only
  split
  · exact ha
  · have h1 := State.logLines_wf w p.1 p.2.length attr ha
    split
    · exact State.performPiece_wf _ _ _ _ _ h1
    · exact h1

/-- Undo-logged writes of a context's memory keep the form. -/
theorem State.ctxWriteFor_wf {s : State} (w : Writer) (die ctx va : Nat) (bs : List Byte) (h : Memory.wf s.mem = true) :
    Memory.wf (s.ctxWriteFor w die ctx va bs).2.mem = true := by
  unfold State.ctxWriteFor
  refine foldl_snd (fun t : State => Memory.wf t.mem = true) _ (fun a p ha => ?_) _ _ h
  simp only
  split
  · exact ha
  · have h1 := State.ctxPiece_wf die ctx p.1 p.2 .store ha
    split
    · next e => rw [e] at h1; exact h1
    · next e => rw [e] at h1; exact State.performWrite_wf _ _ _ _ _ h1

/-- What an access at its point leaves has a property, whether it completed or failed. -/
def Perf.Leaves {α : Type} (P : State → Prop) : Perf α → Prop
  | .ok _ s => P s
  | .bad _ s => P s
  | .hold => True

theorem State.loadAt_wf {s : State} (rank ctx : Nat) (loc : Loc) (alloc : Bool) (n : Nat) (h : Memory.wf s.mem = true) :
    (s.loadAt rank ctx loc alloc n).Leaves fun t => Memory.wf t.mem = true := by
  unfold State.loadAt
  split
  · trivial
  split
  · next pa attr _ =>
    have h1 := State.readHome_wf pa attr alloc n h
    split
    · trivial
    · split
      · exact h
      · split <;> next e => rw [e] at h1; exact h1
  · split
    · trivial
    · split <;> exact h
  · split
    · exact h
    · split <;> exact h
  · trivial

theorem State.storeAt_wf {s : State} (w : Writer) (rank ctx : Nat) (loc : Loc) (alloc : Bool) (bs : List Byte) (h : Memory.wf s.mem = true) :
    (s.storeAt w rank ctx loc alloc bs).Leaves fun t => Memory.wf t.mem = true := by
  unfold State.storeAt
  split
  · trivial
  split
  · next pa attr _ =>
    have h1 := State.performWrite_wf w pa attr alloc bs h
    split
    · trivial
    · split
      · exact h
      · split <;> next e => rw [e] at h1; exact h1
  · split
    · trivial
    · split
      · exact h
      · simpa [Perf.Leaves] using Memory.wf_writeBytes bs _ h
  · split
    · exact h
    · exact Memory.wf_writeBytes bs _ h
  · exact h

@[simp] theorem State.l1Write_mem (s : State) (rank : Nat) (loc : Loc) (bs : List Byte) : (s.l1Write rank loc bs).mem = s.mem := by
  unfold State.l1Write
  split
  · split <;> simp
  · rfl

@[simp] theorem State.answerStore_mem (s : State) (rank seq : Nat) : (s.answerStore rank seq).mem = s.mem := rfl

@[simp] theorem State.sendStore_mem (s : State) (rank : Nat) (e : StoreEntry) : (s.sendStore rank e).mem = s.mem := by
  unfold State.sendStore
  split
  · rfl
  · exact State.askFor_mem _ _ _ _ _ _

@[simp] theorem State.dropAsked_mem (s : State) (rank : Nat) (l : List Late) : (s.dropAsked rank l).mem = s.mem := rfl

@[simp] theorem State.undoLate_mem (s : State) (rank : Nat) : (s.undoLate rank).mem = s.mem := by
  unfold State.undoLate
  split
  · rfl
  · rw [State.modUnit_mem, State.dropAsked_mem]

theorem State.performNow_wf {s : State} (rank : Nat) (e : StoreEntry) (h : Memory.wf s.mem = true) : Memory.wf (s.performNow rank e).2.mem = true := by
  have h1 : ∀ (w : Writer) (ctx : Nat) (alloc : Bool) (r : Perf Unit), (s.answerStore rank e.seq).storeAt w rank ctx e.loc alloc e.bytes = r →
      r.Leaves fun t => Memory.wf t.mem = true :=
    fun w ctx alloc r hr => hr ▸ State.storeAt_wf w rank ctx e.loc alloc e.bytes (by simpa using h)
  unfold State.performNow
  simp only
  split
  · next e2 =>
    have h2 := h1 _ _ _ _ e2
    simpa [Perf.Leaves] using h2
  · next e2 =>
    have h2 := h1 _ _ _ _ e2
    split <;> simpa [Perf.Leaves] using h2
  · exact h

theorem State.performEntry_wf {s : State} (rank : Nat) (e : StoreEntry) (h : Memory.wf s.mem = true) : Memory.wf (s.performEntry rank e).2.mem = true := by
  unfold State.performEntry
  split
  · simpa using h
  · exact State.performNow_wf rank e h

/-- Draining the store buffer keeps the form. -/
theorem State.drain_wf {s : State} (rank : Nat) (mask : Nat → Bool) (h : Memory.wf s.mem = true) : Memory.wf (s.drain rank mask).mem = true := by
  unfold State.drain
  rw [State.modUnit_mem]
  refine foldl_keep (fun t : State => Memory.wf t.mem = true) _ (fun t e ht => ?_) _ _ h
  split
  · exact State.performEntry_wf rank e ht
  · exact ht

theorem State.drainOut_wf {s : State} (rank : Nat) (h : Memory.wf s.mem = true) : Memory.wf (s.drainOut rank).mem = true := by
  unfold State.drainOut
  refine foldl_keep (fun t : State => Memory.wf t.mem = true) _ (fun t e ht => ?_) _ _ (by simpa using h)
  split
  · refine State.performNow_wf rank e ?_
    split
    · simpa using ht
    · exact ht
  · exact ht

end Sys2Proof.Machine
end

