-- ==== Sys2Proof/Laws/PerInstr.lean ====
section
/-!
SUPPORT. Decoding the encoded word, one lemma per constructor: `RoundTrip.<constructor>`.
-/
namespace Sys2Proof

theorem decode_of_parse {w : W32} {i : Instr} (h : parse w = .ok i) (hw : i.wellFormed = true) : decode w = .ok i := by
  rw [Instr.wellFormed, Option.isNone_iff_eq_none] at hw
  simp only [decode, h, hw]

theorem okIf_true {c : Bool} {i : Instr} (h : c = true) : okIf c i = .ok i := by rw [okIf, if_pos h]

theorem sub_shi (k : Nat) (s : BitVec 6) : subFld (shiImm k s) 0 6 = s := by
  apply BitVec.eq_of_toNat_eq
  have := s.isLt
  rw [sub_toNat, shiImm, BitVec.toNat_ofNat]; omega

theorem shi_rsv (k : Nat) (s : BitVec 6) : (subFld (shiImm k s) 6 6).toNat = 0 := by
  have := s.isLt
  rw [sub_toNat, shiImm, BitVec.toNat_ofNat]; omega

theorem shi_kind (k : Nat) (s : BitVec 6) (h : k < 4) : (subFld (shiImm k s) 12 2).toNat = k := by
  have := s.isLt
  rw [sub_toNat, shiImm, BitVec.toNat_ofNat]; omega

theorem atomOp_toNat (base : Nat) (r : BitVec 2) (h : base ≤ 44) : (atomOp base r).toNat = base + r.toNat := by
  have := r.isLt
  rw [atomOp, BitVec.toNat_ofNat]; omega

theorem sub_atomOp (base : Nat) (r : BitVec 2) (h : base ≤ 44) (h4 : base % 4 = 0) : subFld (atomOp base r) 0 2 = r := by
  apply BitVec.eq_of_toNat_eq
  have := r.isLt
  rw [sub_toNat, atomOp_toNat _ _ h]; omega

theorem gather_f (f : BitVec 1) (k : BitVec 3) : subFld (gatherM f k) 3 1 = f := by
  apply BitVec.eq_of_toNat_eq
  have := f.isLt; have := k.isLt
  rw [sub_toNat, gatherM, BitVec.toNat_ofNat]; omega

theorem gather_k (f : BitVec 1) (k : BitVec 3) : subFld (gatherM f k) 0 3 = k := by
  apply BitVec.eq_of_toNat_eq
  have := f.isLt; have := k.isLt
  rw [sub_toNat, gatherM, BitVec.toNat_ofNat]; omega

theorem parse_atomic {w : W32} {base : Nat} {r : BitVec 2} (h : fld w 26 6 = atomOp base r) (hb : base = 40 ∨ base = 44) :
    parse w = parseAtomic (base == 44) r (fld w 20 6) (fld w 14 6) (fld w 8 6) (fld w 0 4) (fld w 4 4).toNat := by
  have hr := r.isLt
  unfold parse
  rw [h, atomOp_toNat _ _ (by omega), sub_atomOp _ _ (by omega) (by omega), if_pos (by omega)]
  rcases hb with rfl | rfl
  · rw [show ((40 + r.toNat) / 4 % 2 == 1) = (40 == 44) by rw [show (40 + r.toNat) / 4 % 2 = 0 by omega]; rfl]
  · rw [show ((44 + r.toNat) / 4 % 2 == 1) = (44 == 44) by rw [show (44 + r.toNat) / 4 % 2 = 1 by omega]; rfl]

theorem parse_01 {w : W32} (h : fld w 26 6 = 0x01#6) :
    parse w = parseAlu (fld w 20 6) (fld w 14 6) (fld w 8 6) (fld w 0 8).toNat := by
  unfold parse; rw [h]; rfl

theorem parse_02 {w : W32} (h : fld w 26 6 = 0x02#6) :
    parse w = parseMulDiv (fld w 20 6) (fld w 14 6) (fld w 8 6) (fld w 0 8).toNat := by
  unfold parse; rw [h]; rfl

theorem parse_03 {w : W32} (h : fld w 26 6 = 0x03#6) :
    parse w = .ok (.addi (fld w 20 6) (fld w 14 6) (fld w 0 14)) := by
  unfold parse; rw [h]; rfl

theorem parse_04 {w : W32} (h : fld w 26 6 = 0x04#6) :
    parse w = .ok (.andi (fld w 20 6) (fld w 14 6) (fld w 0 14)) := by
  unfold parse; rw [h]; rfl

theorem parse_05 {w : W32} (h : fld w 26 6 = 0x05#6) :
    parse w = .ok (.ori (fld w 20 6) (fld w 14 6) (fld w 0 14)) := by
  unfold parse; rw [h]; rfl

theorem parse_06 {w : W32} (h : fld w 26 6 = 0x06#6) :
    parse w = .ok (.xori (fld w 20 6) (fld w 14 6) (fld w 0 14)) := by
  unfold parse; rw [h]; rfl

theorem parse_07 {w : W32} (h : fld w 26 6 = 0x07#6) :
    parse w = .ok (.slti (fld w 20 6) (fld w 14 6) (fld w 0 14)) := by
  unfold parse; rw [h]; rfl

theorem parse_08 {w : W32} (h : fld w 26 6 = 0x08#6) :
    parse w = .ok (.sltiu (fld w 20 6) (fld w 14 6) (fld w 0 14)) := by
  unfold parse; rw [h]; rfl

theorem parse_09 {w : W32} (h : fld w 26 6 = 0x09#6) :
    parse w = parseShi (fld w 20 6) (fld w 14 6) (fld w 0 14) := by
  unfold parse; rw [h]; rfl

theorem parse_0a {w : W32} (h : fld w 26 6 = 0x0a#6) :
    parse w = .ok (.lui (fld w 20 6) (fld w 0 20)) := by
  unfold parse; rw [h]; rfl

theorem parse_0b {w : W32} (h : fld w 26 6 = 0x0b#6) :
    parse w = okIf (onlyBits (fld w 0 20) 0 16) (.lim (fld w 20 6) (subFld (fld w 0 20) 0 16)) := by
  unfold parse; rw [h]; rfl

theorem parse_0d {w : W32} (h : fld w 26 6 = 0x0d#6) :
    parse w = okIf (onlyBits (fld w 0 20) 0 16) (.lih (fld w 20 6) (subFld (fld w 0 20) 0 16)) := by
  unfold parse; rw [h]; rfl

theorem parse_0e {w : W32} (h : fld w 26 6 = 0x0e#6) :
    parse w = .ok (.addpc (fld w 20 6) (fld w 0 20)) := by
  unfold parse; rw [h]; rfl

theorem parse_0c {w : W32} (h : fld w 26 6 = 0x0c#6) :
    parse w = parseTag (fld w 20 6) (fld w 14 6) (fld w 8 6) (fld w 0 8).toNat := by
  unfold parse; rw [h]; rfl

theorem parse_10 {w : W32} (h : fld w 26 6 = 0x10#6) :
    parse w = .ok (.beq (fld w 20 6) (fld w 14 6) (fld w 0 14)) := by
  unfold parse; rw [h]; rfl

theorem parse_11 {w : W32} (h : fld w 26 6 = 0x11#6) :
    parse w = .ok (.bne (fld w 20 6) (fld w 14 6) (fld w 0 14)) := by
  unfold parse; rw [h]; rfl

theorem parse_12 {w : W32} (h : fld w 26 6 = 0x12#6) :
    parse w = .ok (.blt (fld w 20 6) (fld w 14 6) (fld w 0 14)) := by
  unfold parse; rw [h]; rfl

theorem parse_13 {w : W32} (h : fld w 26 6 = 0x13#6) :
    parse w = .ok (.bge (fld w 20 6) (fld w 14 6) (fld w 0 14)) := by
  unfold parse; rw [h]; rfl

theorem parse_14 {w : W32} (h : fld w 26 6 = 0x14#6) :
    parse w = .ok (.bltu (fld w 20 6) (fld w 14 6) (fld w 0 14)) := by
  unfold parse; rw [h]; rfl

theorem parse_15 {w : W32} (h : fld w 26 6 = 0x15#6) :
    parse w = .ok (.bgeu (fld w 20 6) (fld w 14 6) (fld w 0 14)) := by
  unfold parse; rw [h]; rfl

theorem parse_16 {w : W32} (h : fld w 26 6 = 0x16#6) :
    parse w = .ok (.jal (fld w 20 6) (fld w 0 20)) := by
  unfold parse; rw [h]; rfl

theorem parse_17 {w : W32} (h : fld w 26 6 = 0x17#6) :
    parse w = .ok (.jalr (fld w 20 6) (fld w 14 6) (fld w 0 14)) := by
  unfold parse; rw [h]; rfl

theorem parse_18 {w : W32} (h : fld w 26 6 = 0x18#6) :
    parse w = okIf ((fld w 14 4) == 0#4) (.hwLoop (fld w 20 6) (fld w 18 2) (fld w 0 14)) := by
  unfold parse; rw [h]; rfl

theorem parse_1a {w : W32} (h : fld w 26 6 = 0x1a#6) :
    parse w = .ok (.ldb (fld w 20 6) (fld w 14 6) (fld w 10 4) (fld w 8 2) (fld w 6 2) (fld w 0 6)) := by
  unfold parse; rw [h]; rfl

theorem parse_1b {w : W32} (h : fld w 26 6 = 0x1b#6) :
    parse w = .ok (.ldh (fld w 20 6) (fld w 14 6) (fld w 10 4) (fld w 8 2) (fld w 6 2) (fld w 0 6)) := by
  unfold parse; rw [h]; rfl

theorem parse_1c {w : W32} (h : fld w 26 6 = 0x1c#6) :
    parse w = .ok (.ldw (fld w 20 6) (fld w 14 6) (fld w 10 4) (fld w 8 2) (fld w 6 2) (fld w 0 6)) := by
  unfold parse; rw [h]; rfl

theorem parse_1d {w : W32} (h : fld w 26 6 = 0x1d#6) :
    parse w = .ok (.ldd (fld w 20 6) (fld w 14 6) (fld w 10 4) (fld w 8 2) (fld w 6 2) (fld w 0 6)) := by
  unfold parse; rw [h]; rfl

theorem parse_1e {w : W32} (h : fld w 26 6 = 0x1e#6) :
    parse w = .ok (.ldsb (fld w 20 6) (fld w 14 6) (fld w 10 4) (fld w 8 2) (fld w 6 2) (fld w 0 6)) := by
  unfold parse; rw [h]; rfl

theorem parse_1f {w : W32} (h : fld w 26 6 = 0x1f#6) :
    parse w = .ok (.ldsh (fld w 20 6) (fld w 14 6) (fld w 10 4) (fld w 8 2) (fld w 6 2) (fld w 0 6)) := by
  unfold parse; rw [h]; rfl

theorem parse_20 {w : W32} (h : fld w 26 6 = 0x20#6) :
    parse w = .ok (.ldsw (fld w 20 6) (fld w 14 6) (fld w 10 4) (fld w 8 2) (fld w 6 2) (fld w 0 6)) := by
  unfold parse; rw [h]; rfl

theorem parse_21 {w : W32} (h : fld w 26 6 = 0x21#6) :
    parse w = .ok (.stb (fld w 20 6) (fld w 14 6) (fld w 10 4) (fld w 8 2) (fld w 6 2) (fld w 0 6)) := by
  unfold parse; rw [h]; rfl

theorem parse_22 {w : W32} (h : fld w 26 6 = 0x22#6) :
    parse w = .ok (.sth (fld w 20 6) (fld w 14 6) (fld w 10 4) (fld w 8 2) (fld w 6 2) (fld w 0 6)) := by
  unfold parse; rw [h]; rfl

theorem parse_23 {w : W32} (h : fld w 26 6 = 0x23#6) :
    parse w = .ok (.stw (fld w 20 6) (fld w 14 6) (fld w 10 4) (fld w 8 2) (fld w 6 2) (fld w 0 6)) := by
  unfold parse; rw [h]; rfl

theorem parse_24 {w : W32} (h : fld w 26 6 = 0x24#6) :
    parse w = .ok (.std (fld w 20 6) (fld w 14 6) (fld w 10 4) (fld w 8 2) (fld w 6 2) (fld w 0 6)) := by
  unfold parse; rw [h]; rfl

theorem parse_25 {w : W32} (h : fld w 26 6 = 0x25#6) :
    parse w = parseMulti (fld w 20 6) (fld w 14 6) (fld w 1 13) (fld w 0 1) := by
  unfold parse; rw [h]; rfl

theorem parse_26 {w : W32} (h : fld w 26 6 = 0x26#6) :
    parse w = okIf ((fld w 16 5) == 0#5) (.fence (fld w 24 2) (fld w 21 3) (fld w 0 16)) := by
  unfold parse; rw [h]; rfl

theorem parse_27 {w : W32} (h : fld w 26 6 = 0x27#6) :
    parse w = parseTd (fld w 21 5) (fld w 20 1) (fld w 14 6) (fld w 12 2) (fld w 8 4) (fld w 0 8) := by
  unfold parse; rw [h]; rfl

theorem parse_30 {w : W32} (h : fld w 26 6 = 0x30#6) :
    parse w = parseSync (fld w 14 6) (fld w 8 6) (fld w 2 6) (fld w 0 2) (fld w 20 6).toNat := by
  unfold parse; rw [h]; rfl

theorem parse_31 {w : W32} (h : fld w 26 6 = 0x31#6) :
    parse w = parseCont (fld w 14 6) (fld w 8 6) (fld w 2 6) (fld w 0 2) (fld w 20 6).toNat := by
  unfold parse; rw [h]; rfl

theorem parse_32 {w : W32} (h : fld w 26 6 = 0x32#6) :
    parse w = parseCpe (fld w 15 5) (fld w 10 5) (fld w 4 6) (fld w 0 4) (fld w 20 6).toNat := by
  unfold parse; rw [h]; rfl

theorem parse_33 {w : W32} (h : fld w 26 6 = 0x33#6) :
    parse w = parseMat (fld w 17 5) (fld w 12 5) (fld w 7 5) (fld w 1 6) (fld w 0 1) (fld w 22 4).toNat := by
  unfold parse; rw [h]; rfl

theorem parse_34 {w : W32} (h : fld w 26 6 = 0x34#6) :
    parse w = parseVec0 (fld w 15 5) (fld w 10 5) (fld w 4 6) (fld w 0 4) (fld w 20 6).toNat := by
  unfold parse; rw [h]; rfl

theorem parse_35 {w : W32} (h : fld w 26 6 = 0x35#6) :
    parse w = parseVec1 (fld w 15 5) (fld w 10 5) (fld w 4 6) (fld w 0 4) (fld w 20 6).toNat := by
  unfold parse; rw [h]; rfl

theorem parse_36 {w : W32} (h : fld w 26 6 = 0x36#6) :
    parse w = parseStrm (fld w 14 6) (fld w 8 6) (fld w 2 6) (fld w 0 2) (fld w 20 6).toNat := by
  unfold parse; rw [h]; rfl

theorem parse_37 {w : W32} (h : fld w 26 6 = 0x37#6) :
    parse w = parseSys (fld w 14 6) (fld w 8 6) (fld w 2 6) (fld w 0 2) (fld w 2 12) (fld w 20 6).toNat := by
  unfold parse; rw [h]; rfl

theorem parse_3f {w : W32} (h : fld w 26 6 = 0x3f#6) :
    parse w = okIf ((fld w 10 6) == 63#6) (.dictionaryPair (fld w 16 10) (fld w 0 10)) := by
  unfold parse; rw [h]; rfl

/-- The encoded word of a well-formed instruction decodes to that instruction. -/
def Laws.RoundTrip.Statement (i : Instr) : Prop :=
  i.wellFormed = true → ∀ w, encode i = some w → decode w = .ok i

theorem roundTrip_of_parse {i : Instr} {w : W32} (he : encode i = some w) (h : i.wellFormed = true → parse w = .ok i) :
    Laws.RoundTrip.Statement i := by
  intro hw w' hw'
  rw [he] at hw'
  cases hw'
  exact decode_of_parse (h hw) hw

theorem Laws.RoundTrip.add (d : BitVec 6) (a : BitVec 6) (b : BitVec 6) : Laws.RoundTrip.Statement (.add d a b) := by
  refine roundTrip_of_parse rfl fun _ => ?_
  rw [parse_01 (packR_op ..), packR_d, packR_a, packR_b, packR_fn]; rfl

theorem Laws.RoundTrip.sub (d : BitVec 6) (a : BitVec 6) (b : BitVec 6) : Laws.RoundTrip.Statement (.sub d a b) := by
  refine roundTrip_of_parse rfl fun _ => ?_
  rw [parse_01 (packR_op ..), packR_d, packR_a, packR_b, packR_fn]; rfl

theorem Laws.RoundTrip.andR (d : BitVec 6) (a : BitVec 6) (b : BitVec 6) : Laws.RoundTrip.Statement (.andR d a b) := by
  refine roundTrip_of_parse rfl fun _ => ?_
  rw [parse_01 (packR_op ..), packR_d, packR_a, packR_b, packR_fn]; rfl

theorem Laws.RoundTrip.orR (d : BitVec 6) (a : BitVec 6) (b : BitVec 6) : Laws.RoundTrip.Statement (.orR d a b) := by
  refine roundTrip_of_parse rfl fun _ => ?_
  rw [parse_01 (packR_op ..), packR_d, packR_a, packR_b, packR_fn]; rfl

theorem Laws.RoundTrip.xorR (d : BitVec 6) (a : BitVec 6) (b : BitVec 6) : Laws.RoundTrip.Statement (.xorR d a b) := by
  refine roundTrip_of_parse rfl fun _ => ?_
  rw [parse_01 (packR_op ..), packR_d, packR_a, packR_b, packR_fn]; rfl

theorem Laws.RoundTrip.andn (d : BitVec 6) (a : BitVec 6) (b : BitVec 6) : Laws.RoundTrip.Statement (.andn d a b) := by
  refine roundTrip_of_parse rfl fun _ => ?_
  rw [parse_01 (packR_op ..), packR_d, packR_a, packR_b, packR_fn]; rfl

theorem Laws.RoundTrip.sll (d : BitVec 6) (a : BitVec 6) (b : BitVec 6) : Laws.RoundTrip.Statement (.sll d a b) := by
  refine roundTrip_of_parse rfl fun _ => ?_
  rw [parse_01 (packR_op ..), packR_d, packR_a, packR_b, packR_fn]; rfl

theorem Laws.RoundTrip.srl (d : BitVec 6) (a : BitVec 6) (b : BitVec 6) : Laws.RoundTrip.Statement (.srl d a b) := by
  refine roundTrip_of_parse rfl fun _ => ?_
  rw [parse_01 (packR_op ..), packR_d, packR_a, packR_b, packR_fn]; rfl

theorem Laws.RoundTrip.sra (d : BitVec 6) (a : BitVec 6) (b : BitVec 6) : Laws.RoundTrip.Statement (.sra d a b) := by
  refine roundTrip_of_parse rfl fun _ => ?_
  rw [parse_01 (packR_op ..), packR_d, packR_a, packR_b, packR_fn]; rfl

theorem Laws.RoundTrip.ror (d : BitVec 6) (a : BitVec 6) (b : BitVec 6) : Laws.RoundTrip.Statement (.ror d a b) := by
  refine roundTrip_of_parse rfl fun _ => ?_
  rw [parse_01 (packR_op ..), packR_d, packR_a, packR_b, packR_fn]; rfl

theorem Laws.RoundTrip.slt (d : BitVec 6) (a : BitVec 6) (b : BitVec 6) : Laws.RoundTrip.Statement (.slt d a b) := by
  refine roundTrip_of_parse rfl fun _ => ?_
  rw [parse_01 (packR_op ..), packR_d, packR_a, packR_b, packR_fn]; rfl

theorem Laws.RoundTrip.sltu (d : BitVec 6) (a : BitVec 6) (b : BitVec 6) : Laws.RoundTrip.Statement (.sltu d a b) := by
  refine roundTrip_of_parse rfl fun _ => ?_
  rw [parse_01 (packR_op ..), packR_d, packR_a, packR_b, packR_fn]; rfl

theorem Laws.RoundTrip.minS (d : BitVec 6) (a : BitVec 6) (b : BitVec 6) : Laws.RoundTrip.Statement (.minS d a b) := by
  refine roundTrip_of_parse rfl fun _ => ?_
  rw [parse_01 (packR_op ..), packR_d, packR_a, packR_b, packR_fn]; rfl

theorem Laws.RoundTrip.maxS (d : BitVec 6) (a : BitVec 6) (b : BitVec 6) : Laws.RoundTrip.Statement (.maxS d a b) := by
  refine roundTrip_of_parse rfl fun _ => ?_
  rw [parse_01 (packR_op ..), packR_d, packR_a, packR_b, packR_fn]; rfl

theorem Laws.RoundTrip.minu (d : BitVec 6) (a : BitVec 6) (b : BitVec 6) : Laws.RoundTrip.Statement (.minu d a b) := by
  refine roundTrip_of_parse rfl fun _ => ?_
  rw [parse_01 (packR_op ..), packR_d, packR_a, packR_b, packR_fn]; rfl

theorem Laws.RoundTrip.maxu (d : BitVec 6) (a : BitVec 6) (b : BitVec 6) : Laws.RoundTrip.Statement (.maxu d a b) := by
  refine roundTrip_of_parse rfl fun _ => ?_
  rw [parse_01 (packR_op ..), packR_d, packR_a, packR_b, packR_fn]; rfl

theorem Laws.RoundTrip.addw (d : BitVec 6) (a : BitVec 6) (b : BitVec 6) : Laws.RoundTrip.Statement (.addw d a b) := by
  refine roundTrip_of_parse rfl fun _ => ?_
  rw [parse_01 (packR_op ..), packR_d, packR_a, packR_b, packR_fn]; rfl

theorem Laws.RoundTrip.subw (d : BitVec 6) (a : BitVec 6) (b : BitVec 6) : Laws.RoundTrip.Statement (.subw d a b) := by
  refine roundTrip_of_parse rfl fun _ => ?_
  rw [parse_01 (packR_op ..), packR_d, packR_a, packR_b, packR_fn]; rfl

theorem Laws.RoundTrip.sllw (d : BitVec 6) (a : BitVec 6) (b : BitVec 6) : Laws.RoundTrip.Statement (.sllw d a b) := by
  refine roundTrip_of_parse rfl fun _ => ?_
  rw [parse_01 (packR_op ..), packR_d, packR_a, packR_b, packR_fn]; rfl

theorem Laws.RoundTrip.srlw (d : BitVec 6) (a : BitVec 6) (b : BitVec 6) : Laws.RoundTrip.Statement (.srlw d a b) := by
  refine roundTrip_of_parse rfl fun _ => ?_
  rw [parse_01 (packR_op ..), packR_d, packR_a, packR_b, packR_fn]; rfl

theorem Laws.RoundTrip.sraw (d : BitVec 6) (a : BitVec 6) (b : BitVec 6) : Laws.RoundTrip.Statement (.sraw d a b) := by
  refine roundTrip_of_parse rfl fun _ => ?_
  rw [parse_01 (packR_op ..), packR_d, packR_a, packR_b, packR_fn]; rfl

theorem Laws.RoundTrip.clz (d : BitVec 6) (a : BitVec 6) : Laws.RoundTrip.Statement (.clz d a) := by
  refine roundTrip_of_parse rfl fun _ => ?_
  rw [parse_01 (packR_op ..), packR_d, packR_a, packR_b, packR_fn]; rfl

theorem Laws.RoundTrip.ctz (d : BitVec 6) (a : BitVec 6) : Laws.RoundTrip.Statement (.ctz d a) := by
  refine roundTrip_of_parse rfl fun _ => ?_
  rw [parse_01 (packR_op ..), packR_d, packR_a, packR_b, packR_fn]; rfl

theorem Laws.RoundTrip.popc (d : BitVec 6) (a : BitVec 6) : Laws.RoundTrip.Statement (.popc d a) := by
  refine roundTrip_of_parse rfl fun _ => ?_
  rw [parse_01 (packR_op ..), packR_d, packR_a, packR_b, packR_fn]; rfl

theorem Laws.RoundTrip.sextb (d : BitVec 6) (a : BitVec 6) : Laws.RoundTrip.Statement (.sextb d a) := by
  refine roundTrip_of_parse rfl fun _ => ?_
  rw [parse_01 (packR_op ..), packR_d, packR_a, packR_b, packR_fn]; rfl

theorem Laws.RoundTrip.sexth (d : BitVec 6) (a : BitVec 6) : Laws.RoundTrip.Statement (.sexth d a) := by
  refine roundTrip_of_parse rfl fun _ => ?_
  rw [parse_01 (packR_op ..), packR_d, packR_a, packR_b, packR_fn]; rfl

theorem Laws.RoundTrip.sextw (d : BitVec 6) (a : BitVec 6) : Laws.RoundTrip.Statement (.sextw d a) := by
  refine roundTrip_of_parse rfl fun _ => ?_
  rw [parse_01 (packR_op ..), packR_d, packR_a, packR_b, packR_fn]; rfl

theorem Laws.RoundTrip.zextw (d : BitVec 6) (a : BitVec 6) : Laws.RoundTrip.Statement (.zextw d a) := by
  refine roundTrip_of_parse rfl fun _ => ?_
  rw [parse_01 (packR_op ..), packR_d, packR_a, packR_b, packR_fn]; rfl

theorem Laws.RoundTrip.mul (d : BitVec 6) (a : BitVec 6) (b : BitVec 6) : Laws.RoundTrip.Statement (.mul d a b) := by
  refine roundTrip_of_parse rfl fun _ => ?_
  rw [parse_02 (packR_op ..), packR_d, packR_a, packR_b, packR_fn]; rfl

theorem Laws.RoundTrip.mulh (d : BitVec 6) (a : BitVec 6) (b : BitVec 6) : Laws.RoundTrip.Statement (.mulh d a b) := by
  refine roundTrip_of_parse rfl fun _ => ?_
  rw [parse_02 (packR_op ..), packR_d, packR_a, packR_b, packR_fn]; rfl

theorem Laws.RoundTrip.mulhu (d : BitVec 6) (a : BitVec 6) (b : BitVec 6) : Laws.RoundTrip.Statement (.mulhu d a b) := by
  refine roundTrip_of_parse rfl fun _ => ?_
  rw [parse_02 (packR_op ..), packR_d, packR_a, packR_b, packR_fn]; rfl

theorem Laws.RoundTrip.mulw (d : BitVec 6) (a : BitVec 6) (b : BitVec 6) : Laws.RoundTrip.Statement (.mulw d a b) := by
  refine roundTrip_of_parse rfl fun _ => ?_
  rw [parse_02 (packR_op ..), packR_d, packR_a, packR_b, packR_fn]; rfl

theorem Laws.RoundTrip.div (d : BitVec 6) (a : BitVec 6) (b : BitVec 6) : Laws.RoundTrip.Statement (.div d a b) := by
  refine roundTrip_of_parse rfl fun _ => ?_
  rw [parse_02 (packR_op ..), packR_d, packR_a, packR_b, packR_fn]; rfl

theorem Laws.RoundTrip.divu (d : BitVec 6) (a : BitVec 6) (b : BitVec 6) : Laws.RoundTrip.Statement (.divu d a b) := by
  refine roundTrip_of_parse rfl fun _ => ?_
  rw [parse_02 (packR_op ..), packR_d, packR_a, packR_b, packR_fn]; rfl

theorem Laws.RoundTrip.rem (d : BitVec 6) (a : BitVec 6) (b : BitVec 6) : Laws.RoundTrip.Statement (.rem d a b) := by
  refine roundTrip_of_parse rfl fun _ => ?_
  rw [parse_02 (packR_op ..), packR_d, packR_a, packR_b, packR_fn]; rfl

theorem Laws.RoundTrip.remu (d : BitVec 6) (a : BitVec 6) (b : BitVec 6) : Laws.RoundTrip.Statement (.remu d a b) := by
  refine roundTrip_of_parse rfl fun _ => ?_
  rw [parse_02 (packR_op ..), packR_d, packR_a, packR_b, packR_fn]; rfl

theorem Laws.RoundTrip.divw (d : BitVec 6) (a : BitVec 6) (b : BitVec 6) : Laws.RoundTrip.Statement (.divw d a b) := by
  refine roundTrip_of_parse rfl fun _ => ?_
  rw [parse_02 (packR_op ..), packR_d, packR_a, packR_b, packR_fn]; rfl

theorem Laws.RoundTrip.divuw (d : BitVec 6) (a : BitVec 6) (b : BitVec 6) : Laws.RoundTrip.Statement (.divuw d a b) := by
  refine roundTrip_of_parse rfl fun _ => ?_
  rw [parse_02 (packR_op ..), packR_d, packR_a, packR_b, packR_fn]; rfl

theorem Laws.RoundTrip.remw (d : BitVec 6) (a : BitVec 6) (b : BitVec 6) : Laws.RoundTrip.Statement (.remw d a b) := by
  refine roundTrip_of_parse rfl fun _ => ?_
  rw [parse_02 (packR_op ..), packR_d, packR_a, packR_b, packR_fn]; rfl

theorem Laws.RoundTrip.remuw (d : BitVec 6) (a : BitVec 6) (b : BitVec 6) : Laws.RoundTrip.Statement (.remuw d a b) := by
  refine roundTrip_of_parse rfl fun _ => ?_
  rw [parse_02 (packR_op ..), packR_d, packR_a, packR_b, packR_fn]; rfl

theorem Laws.RoundTrip.addi (d : BitVec 6) (a : BitVec 6) (i : BitVec 14) : Laws.RoundTrip.Statement (.addi d a i) := by
  refine roundTrip_of_parse rfl fun _ => ?_
  rw [parse_03 (packI_op ..)]; simp only [packI_d, packI_a, packI_imm] <;> rfl

theorem Laws.RoundTrip.andi (d : BitVec 6) (a : BitVec 6) (i : BitVec 14) : Laws.RoundTrip.Statement (.andi d a i) := by
  refine roundTrip_of_parse rfl fun _ => ?_
  rw [parse_04 (packI_op ..)]; simp only [packI_d, packI_a, packI_imm] <;> rfl

theorem Laws.RoundTrip.ori (d : BitVec 6) (a : BitVec 6) (i : BitVec 14) : Laws.RoundTrip.Statement (.ori d a i) := by
  refine roundTrip_of_parse rfl fun _ => ?_
  rw [parse_05 (packI_op ..)]; simp only [packI_d, packI_a, packI_imm] <;> rfl

theorem Laws.RoundTrip.xori (d : BitVec 6) (a : BitVec 6) (i : BitVec 14) : Laws.RoundTrip.Statement (.xori d a i) := by
  refine roundTrip_of_parse rfl fun _ => ?_
  rw [parse_06 (packI_op ..)]; simp only [packI_d, packI_a, packI_imm] <;> rfl

theorem Laws.RoundTrip.slti (d : BitVec 6) (a : BitVec 6) (i : BitVec 14) : Laws.RoundTrip.Statement (.slti d a i) := by
  refine roundTrip_of_parse rfl fun _ => ?_
  rw [parse_07 (packI_op ..)]; simp only [packI_d, packI_a, packI_imm] <;> rfl

theorem Laws.RoundTrip.sltiu (d : BitVec 6) (a : BitVec 6) (i : BitVec 14) : Laws.RoundTrip.Statement (.sltiu d a i) := by
  refine roundTrip_of_parse rfl fun _ => ?_
  rw [parse_08 (packI_op ..)]; simp only [packI_d, packI_a, packI_imm] <;> rfl

theorem Laws.RoundTrip.slli (d : BitVec 6) (a : BitVec 6) (s : BitVec 6) : Laws.RoundTrip.Statement (.slli d a s) := by
  refine roundTrip_of_parse rfl fun _ => ?_
  rw [parse_09 (packI_op ..)]; simp only [packI_d, packI_a, packI_imm]
  simp only [parseShi, shi_rsv, shi_kind _ _ (show (0 : Nat) < 4 by decide), sub_shi]; rfl

theorem Laws.RoundTrip.srli (d : BitVec 6) (a : BitVec 6) (s : BitVec 6) : Laws.RoundTrip.Statement (.srli d a s) := by
  refine roundTrip_of_parse rfl fun _ => ?_
  rw [parse_09 (packI_op ..)]; simp only [packI_d, packI_a, packI_imm]
  simp only [parseShi, shi_rsv, shi_kind _ _ (show (1 : Nat) < 4 by decide), sub_shi]; rfl

theorem Laws.RoundTrip.srai (d : BitVec 6) (a : BitVec 6) (s : BitVec 6) : Laws.RoundTrip.Statement (.srai d a s) := by
  refine roundTrip_of_parse rfl fun _ => ?_
  rw [parse_09 (packI_op ..)]; simp only [packI_d, packI_a, packI_imm]
  simp only [parseShi, shi_rsv, shi_kind _ _ (show (2 : Nat) < 4 by decide), sub_shi]; rfl

theorem Laws.RoundTrip.rori (d : BitVec 6) (a : BitVec 6) (s : BitVec 6) : Laws.RoundTrip.Statement (.rori d a s) := by
  refine roundTrip_of_parse rfl fun _ => ?_
  rw [parse_09 (packI_op ..)]; simp only [packI_d, packI_a, packI_imm]
  simp only [parseShi, shi_rsv, shi_kind _ _ (show (3 : Nat) < 4 by decide), sub_shi]; rfl

theorem Laws.RoundTrip.lui (d : BitVec 6) (i : BitVec 20) : Laws.RoundTrip.Statement (.lui d i) := by
  refine roundTrip_of_parse rfl fun _ => ?_
  rw [parse_0a (packU_op ..)]; simp only [packU_d, packU_imm] <;> rfl

theorem Laws.RoundTrip.lim (d : BitVec 6) (i : BitVec 16) : Laws.RoundTrip.Statement (.lim d i) := by
  refine roundTrip_of_parse rfl fun _ => ?_
  rw [parse_0b (packU_op ..)]; simp only [packU_d, packU_imm]
  show okIf (onlyBits (part 20 0 i) 0 16) (.lim d (subFld (part 20 0 i) 0 16)) = _
  rw [okIf_true (by simp [onlyBits_part])]
  simp [sub_part]

theorem Laws.RoundTrip.lih (d : BitVec 6) (i : BitVec 16) : Laws.RoundTrip.Statement (.lih d i) := by
  refine roundTrip_of_parse rfl fun _ => ?_
  rw [parse_0d (packU_op ..)]; simp only [packU_d, packU_imm]
  show okIf (onlyBits (part 20 0 i) 0 16) (.lih d (subFld (part 20 0 i) 0 16)) = _
  rw [okIf_true (by simp [onlyBits_part])]
  simp [sub_part]

theorem Laws.RoundTrip.addpc (d : BitVec 6) (i : BitVec 20) : Laws.RoundTrip.Statement (.addpc d i) := by
  refine roundTrip_of_parse rfl fun _ => ?_
  rw [parse_0e (packU_op ..)]; simp only [packU_d, packU_imm] <;> rfl

theorem Laws.RoundTrip.ptag (d : BitVec 6) (a : BitVec 6) (b : BitVec 6) : Laws.RoundTrip.Statement (.ptag d a b) := by
  refine roundTrip_of_parse rfl fun _ => ?_
  rw [parse_0c (packR_op ..), packR_d, packR_a, packR_b, packR_fn]; rfl

theorem Laws.RoundTrip.prank (d : BitVec 6) (a : BitVec 6) (b : BitVec 6) : Laws.RoundTrip.Statement (.prank d a b) := by
  refine roundTrip_of_parse rfl fun _ => ?_
  rw [parse_0c (packR_op ..), packR_d, packR_a, packR_b, packR_fn]; rfl

theorem Laws.RoundTrip.pspace (d : BitVec 6) (a : BitVec 6) : Laws.RoundTrip.Statement (.pspace d a) := by
  refine roundTrip_of_parse rfl fun _ => ?_
  rw [parse_0c (packR_op ..), packR_d, packR_a, packR_b, packR_fn]; rfl

theorem Laws.RoundTrip.poff (d : BitVec 6) (a : BitVec 6) : Laws.RoundTrip.Statement (.poff d a) := by
  refine roundTrip_of_parse rfl fun _ => ?_
  rw [parse_0c (packR_op ..), packR_d, packR_a, packR_b, packR_fn]; rfl

theorem Laws.RoundTrip.padd (d : BitVec 6) (a : BitVec 6) (b : BitVec 6) : Laws.RoundTrip.Statement (.padd d a b) := by
  refine roundTrip_of_parse rfl fun _ => ?_
  rw [parse_0c (packR_op ..), packR_d, packR_a, packR_b, packR_fn]; rfl

theorem Laws.RoundTrip.beq (a : BitVec 6) (b : BitVec 6) (o : BitVec 14) : Laws.RoundTrip.Statement (.beq a b o) := by
  refine roundTrip_of_parse rfl fun _ => ?_
  rw [parse_10 (packB_op ..)]; simp only [packB_a, packB_b, packB_off] <;> rfl

theorem Laws.RoundTrip.bne (a : BitVec 6) (b : BitVec 6) (o : BitVec 14) : Laws.RoundTrip.Statement (.bne a b o) := by
  refine roundTrip_of_parse rfl fun _ => ?_
  rw [parse_11 (packB_op ..)]; simp only [packB_a, packB_b, packB_off] <;> rfl

theorem Laws.RoundTrip.blt (a : BitVec 6) (b : BitVec 6) (o : BitVec 14) : Laws.RoundTrip.Statement (.blt a b o) := by
  refine roundTrip_of_parse rfl fun _ => ?_
  rw [parse_12 (packB_op ..)]; simp only [packB_a, packB_b, packB_off] <;> rfl

theorem Laws.RoundTrip.bge (a : BitVec 6) (b : BitVec 6) (o : BitVec 14) : Laws.RoundTrip.Statement (.bge a b o) := by
  refine roundTrip_of_parse rfl fun _ => ?_
  rw [parse_13 (packB_op ..)]; simp only [packB_a, packB_b, packB_off] <;> rfl

theorem Laws.RoundTrip.bltu (a : BitVec 6) (b : BitVec 6) (o : BitVec 14) : Laws.RoundTrip.Statement (.bltu a b o) := by
  refine roundTrip_of_parse rfl fun _ => ?_
  rw [parse_14 (packB_op ..)]; simp only [packB_a, packB_b, packB_off] <;> rfl

theorem Laws.RoundTrip.bgeu (a : BitVec 6) (b : BitVec 6) (o : BitVec 14) : Laws.RoundTrip.Statement (.bgeu a b o) := by
  refine roundTrip_of_parse rfl fun _ => ?_
  rw [parse_15 (packB_op ..)]; simp only [packB_a, packB_b, packB_off] <;> rfl

theorem Laws.RoundTrip.jal (d : BitVec 6) (o : BitVec 20) : Laws.RoundTrip.Statement (.jal d o) := by
  refine roundTrip_of_parse rfl fun _ => ?_
  rw [parse_16 (packJ_op ..)]; simp only [packJ_d, packJ_off] <;> rfl

theorem Laws.RoundTrip.jalr (d : BitVec 6) (a : BitVec 6) (i : BitVec 14) : Laws.RoundTrip.Statement (.jalr d a i) := by
  refine roundTrip_of_parse rfl fun _ => ?_
  rw [parse_17 (packI_op ..)]; simp only [packI_d, packI_a, packI_imm] <;> rfl

theorem Laws.RoundTrip.hwLoop (a : BitVec 6) (l : BitVec 2) (o : BitVec 14) : Laws.RoundTrip.Statement (.hwLoop a l o) := by
  refine roundTrip_of_parse rfl fun _ => ?_
  rw [parse_18 (packL_op ..)]; simp only [packL_a, packL_lvl, packL_rsv, packL_off] <;> rfl

theorem Laws.RoundTrip.ldb (d : BitVec 6) (b : BitVec 6) (c : BitVec 4) (p : BitVec 2) (r : BitVec 2) (o : BitVec 6) : Laws.RoundTrip.Statement (.ldb d b c p r o) := by
  refine roundTrip_of_parse rfl fun _ => ?_
  rw [parse_1a (packM_op ..)]; simp only [packM_d, packM_base, packM_cls, packM_pol, packM_ar, packM_off] <;> rfl

theorem Laws.RoundTrip.ldh (d : BitVec 6) (b : BitVec 6) (c : BitVec 4) (p : BitVec 2) (r : BitVec 2) (o : BitVec 6) : Laws.RoundTrip.Statement (.ldh d b c p r o) := by
  refine roundTrip_of_parse rfl fun _ => ?_
  rw [parse_1b (packM_op ..)]; simp only [packM_d, packM_base, packM_cls, packM_pol, packM_ar, packM_off] <;> rfl

theorem Laws.RoundTrip.ldw (d : BitVec 6) (b : BitVec 6) (c : BitVec 4) (p : BitVec 2) (r : BitVec 2) (o : BitVec 6) : Laws.RoundTrip.Statement (.ldw d b c p r o) := by
  refine roundTrip_of_parse rfl fun _ => ?_
  rw [parse_1c (packM_op ..)]; simp only [packM_d, packM_base, packM_cls, packM_pol, packM_ar, packM_off] <;> rfl

theorem Laws.RoundTrip.ldd (d : BitVec 6) (b : BitVec 6) (c : BitVec 4) (p : BitVec 2) (r : BitVec 2) (o : BitVec 6) : Laws.RoundTrip.Statement (.ldd d b c p r o) := by
  refine roundTrip_of_parse rfl fun _ => ?_
  rw [parse_1d (packM_op ..)]; simp only [packM_d, packM_base, packM_cls, packM_pol, packM_ar, packM_off] <;> rfl

theorem Laws.RoundTrip.ldsb (d : BitVec 6) (b : BitVec 6) (c : BitVec 4) (p : BitVec 2) (r : BitVec 2) (o : BitVec 6) : Laws.RoundTrip.Statement (.ldsb d b c p r o) := by
  refine roundTrip_of_parse rfl fun _ => ?_
  rw [parse_1e (packM_op ..)]; simp only [packM_d, packM_base, packM_cls, packM_pol, packM_ar, packM_off] <;> rfl

theorem Laws.RoundTrip.ldsh (d : BitVec 6) (b : BitVec 6) (c : BitVec 4) (p : BitVec 2) (r : BitVec 2) (o : BitVec 6) : Laws.RoundTrip.Statement (.ldsh d b c p r o) := by
  refine roundTrip_of_parse rfl fun _ => ?_
  rw [parse_1f (packM_op ..)]; simp only [packM_d, packM_base, packM_cls, packM_pol, packM_ar, packM_off] <;> rfl

theorem Laws.RoundTrip.ldsw (d : BitVec 6) (b : BitVec 6) (c : BitVec 4) (p : BitVec 2) (r : BitVec 2) (o : BitVec 6) : Laws.RoundTrip.Statement (.ldsw d b c p r o) := by
  refine roundTrip_of_parse rfl fun _ => ?_
  rw [parse_20 (packM_op ..)]; simp only [packM_d, packM_base, packM_cls, packM_pol, packM_ar, packM_off] <;> rfl

theorem Laws.RoundTrip.stb (d : BitVec 6) (b : BitVec 6) (c : BitVec 4) (p : BitVec 2) (r : BitVec 2) (o : BitVec 6) : Laws.RoundTrip.Statement (.stb d b c p r o) := by
  refine roundTrip_of_parse rfl fun _ => ?_
  rw [parse_21 (packM_op ..)]; simp only [packM_d, packM_base, packM_cls, packM_pol, packM_ar, packM_off] <;> rfl

theorem Laws.RoundTrip.sth (d : BitVec 6) (b : BitVec 6) (c : BitVec 4) (p : BitVec 2) (r : BitVec 2) (o : BitVec 6) : Laws.RoundTrip.Statement (.sth d b c p r o) := by
  refine roundTrip_of_parse rfl fun _ => ?_
  rw [parse_22 (packM_op ..)]; simp only [packM_d, packM_base, packM_cls, packM_pol, packM_ar, packM_off] <;> rfl

theorem Laws.RoundTrip.stw (d : BitVec 6) (b : BitVec 6) (c : BitVec 4) (p : BitVec 2) (r : BitVec 2) (o : BitVec 6) : Laws.RoundTrip.Statement (.stw d b c p r o) := by
  refine roundTrip_of_parse rfl fun _ => ?_
  rw [parse_23 (packM_op ..)]; simp only [packM_d, packM_base, packM_cls, packM_pol, packM_ar, packM_off] <;> rfl

theorem Laws.RoundTrip.std (d : BitVec 6) (b : BitVec 6) (c : BitVec 4) (p : BitVec 2) (r : BitVec 2) (o : BitVec 6) : Laws.RoundTrip.Statement (.std d b c p r o) := by
  refine roundTrip_of_parse rfl fun _ => ?_
  rw [parse_24 (packM_op ..)]; simp only [packM_d, packM_base, packM_cls, packM_pol, packM_ar, packM_off] <;> rfl

theorem Laws.RoundTrip.pushm (f : BitVec 6) (l : BitVec 6) : Laws.RoundTrip.Statement (.pushm f l) := by
  refine roundTrip_of_parse rfl fun _ => ?_
  rw [parse_25 (packP_op ..)]; simp only [packP_first, packP_last, packP_rsv, packP_dir] <;> rfl

theorem Laws.RoundTrip.popm (f : BitVec 6) (l : BitVec 6) : Laws.RoundTrip.Statement (.popm f l) := by
  refine roundTrip_of_parse rfl fun _ => ?_
  rw [parse_25 (packP_op ..)]; simp only [packP_first, packP_last, packP_rsv, packP_dir] <;> rfl

theorem Laws.RoundTrip.fence (k : BitVec 2) (s : BitVec 3) (m : BitVec 16) : Laws.RoundTrip.Statement (.fence k s m) := by
  refine roundTrip_of_parse rfl fun _ => ?_
  rw [parse_26 (packF_op ..)]; simp only [packF_kind, packF_scope, packF_rsv, packF_mask] <;> rfl

theorem Laws.RoundTrip.tdld (t : BitVec 5) (b : BitVec 6) (c : BitVec 4) (o : BitVec 8) : Laws.RoundTrip.Statement (.tdld t b c o) := by
  refine roundTrip_of_parse rfl fun _ => ?_
  rw [parse_27 (packT_op ..)]; simp only [packT_td, packT_rsv, packT_base, packT_fn, packT_cls, packT_off] <;> rfl

theorem Laws.RoundTrip.tdst (t : BitVec 5) (b : BitVec 6) (c : BitVec 4) (o : BitVec 8) : Laws.RoundTrip.Statement (.tdst t b c o) := by
  refine roundTrip_of_parse rfl fun _ => ?_
  rw [parse_27 (packT_op ..)]; simp only [packT_td, packT_rsv, packT_base, packT_fn, packT_cls, packT_off] <;> rfl

theorem Laws.RoundTrip.amoswapW (r : BitVec 2) (d : BitVec 6) (a : BitVec 6) (b : BitVec 6) (c : BitVec 4) : Laws.RoundTrip.Statement (.amoswapW r d a b c) := by
  refine roundTrip_of_parse rfl fun _ => ?_
  rw [parse_atomic (packA_op ..) (by decide), packA_d, packA_base, packA_b, packA_cls, packA_fn]; rfl

theorem Laws.RoundTrip.amoswapD (r : BitVec 2) (d : BitVec 6) (a : BitVec 6) (b : BitVec 6) (c : BitVec 4) : Laws.RoundTrip.Statement (.amoswapD r d a b c) := by
  refine roundTrip_of_parse rfl fun _ => ?_
  rw [parse_atomic (packA_op ..) (by decide), packA_d, packA_base, packA_b, packA_cls, packA_fn]; rfl

theorem Laws.RoundTrip.amoaddW (r : BitVec 2) (d : BitVec 6) (a : BitVec 6) (b : BitVec 6) (c : BitVec 4) : Laws.RoundTrip.Statement (.amoaddW r d a b c) := by
  refine roundTrip_of_parse rfl fun _ => ?_
  rw [parse_atomic (packA_op ..) (by decide), packA_d, packA_base, packA_b, packA_cls, packA_fn]; rfl

theorem Laws.RoundTrip.amoaddD (r : BitVec 2) (d : BitVec 6) (a : BitVec 6) (b : BitVec 6) (c : BitVec 4) : Laws.RoundTrip.Statement (.amoaddD r d a b c) := by
  refine roundTrip_of_parse rfl fun _ => ?_
  rw [parse_atomic (packA_op ..) (by decide), packA_d, packA_base, packA_b, packA_cls, packA_fn]; rfl

theorem Laws.RoundTrip.amoandW (r : BitVec 2) (d : BitVec 6) (a : BitVec 6) (b : BitVec 6) (c : BitVec 4) : Laws.RoundTrip.Statement (.amoandW r d a b c) := by
  refine roundTrip_of_parse rfl fun _ => ?_
  rw [parse_atomic (packA_op ..) (by decide), packA_d, packA_base, packA_b, packA_cls, packA_fn]; rfl

theorem Laws.RoundTrip.amoandD (r : BitVec 2) (d : BitVec 6) (a : BitVec 6) (b : BitVec 6) (c : BitVec 4) : Laws.RoundTrip.Statement (.amoandD r d a b c) := by
  refine roundTrip_of_parse rfl fun _ => ?_
  rw [parse_atomic (packA_op ..) (by decide), packA_d, packA_base, packA_b, packA_cls, packA_fn]; rfl

theorem Laws.RoundTrip.amoorW (r : BitVec 2) (d : BitVec 6) (a : BitVec 6) (b : BitVec 6) (c : BitVec 4) : Laws.RoundTrip.Statement (.amoorW r d a b c) := by
  refine roundTrip_of_parse rfl fun _ => ?_
  rw [parse_atomic (packA_op ..) (by decide), packA_d, packA_base, packA_b, packA_cls, packA_fn]; rfl

theorem Laws.RoundTrip.amoorD (r : BitVec 2) (d : BitVec 6) (a : BitVec 6) (b : BitVec 6) (c : BitVec 4) : Laws.RoundTrip.Statement (.amoorD r d a b c) := by
  refine roundTrip_of_parse rfl fun _ => ?_
  rw [parse_atomic (packA_op ..) (by decide), packA_d, packA_base, packA_b, packA_cls, packA_fn]; rfl

theorem Laws.RoundTrip.amoxorW (r : BitVec 2) (d : BitVec 6) (a : BitVec 6) (b : BitVec 6) (c : BitVec 4) : Laws.RoundTrip.Statement (.amoxorW r d a b c) := by
  refine roundTrip_of_parse rfl fun _ => ?_
  rw [parse_atomic (packA_op ..) (by decide), packA_d, packA_base, packA_b, packA_cls, packA_fn]; rfl

theorem Laws.RoundTrip.amoxorD (r : BitVec 2) (d : BitVec 6) (a : BitVec 6) (b : BitVec 6) (c : BitVec 4) : Laws.RoundTrip.Statement (.amoxorD r d a b c) := by
  refine roundTrip_of_parse rfl fun _ => ?_
  rw [parse_atomic (packA_op ..) (by decide), packA_d, packA_base, packA_b, packA_cls, packA_fn]; rfl

theorem Laws.RoundTrip.amominW (r : BitVec 2) (d : BitVec 6) (a : BitVec 6) (b : BitVec 6) (c : BitVec 4) : Laws.RoundTrip.Statement (.amominW r d a b c) := by
  refine roundTrip_of_parse rfl fun _ => ?_
  rw [parse_atomic (packA_op ..) (by decide), packA_d, packA_base, packA_b, packA_cls, packA_fn]; rfl

theorem Laws.RoundTrip.amominD (r : BitVec 2) (d : BitVec 6) (a : BitVec 6) (b : BitVec 6) (c : BitVec 4) : Laws.RoundTrip.Statement (.amominD r d a b c) := by
  refine roundTrip_of_parse rfl fun _ => ?_
  rw [parse_atomic (packA_op ..) (by decide), packA_d, packA_base, packA_b, packA_cls, packA_fn]; rfl

theorem Laws.RoundTrip.amomaxW (r : BitVec 2) (d : BitVec 6) (a : BitVec 6) (b : BitVec 6) (c : BitVec 4) : Laws.RoundTrip.Statement (.amomaxW r d a b c) := by
  refine roundTrip_of_parse rfl fun _ => ?_
  rw [parse_atomic (packA_op ..) (by decide), packA_d, packA_base, packA_b, packA_cls, packA_fn]; rfl

theorem Laws.RoundTrip.amomaxD (r : BitVec 2) (d : BitVec 6) (a : BitVec 6) (b : BitVec 6) (c : BitVec 4) : Laws.RoundTrip.Statement (.amomaxD r d a b c) := by
  refine roundTrip_of_parse rfl fun _ => ?_
  rw [parse_atomic (packA_op ..) (by decide), packA_d, packA_base, packA_b, packA_cls, packA_fn]; rfl

theorem Laws.RoundTrip.amominuW (r : BitVec 2) (d : BitVec 6) (a : BitVec 6) (b : BitVec 6) (c : BitVec 4) : Laws.RoundTrip.Statement (.amominuW r d a b c) := by
  refine roundTrip_of_parse rfl fun _ => ?_
  rw [parse_atomic (packA_op ..) (by decide), packA_d, packA_base, packA_b, packA_cls, packA_fn]; rfl

theorem Laws.RoundTrip.amominuD (r : BitVec 2) (d : BitVec 6) (a : BitVec 6) (b : BitVec 6) (c : BitVec 4) : Laws.RoundTrip.Statement (.amominuD r d a b c) := by
  refine roundTrip_of_parse rfl fun _ => ?_
  rw [parse_atomic (packA_op ..) (by decide), packA_d, packA_base, packA_b, packA_cls, packA_fn]; rfl

theorem Laws.RoundTrip.amomaxuW (r : BitVec 2) (d : BitVec 6) (a : BitVec 6) (b : BitVec 6) (c : BitVec 4) : Laws.RoundTrip.Statement (.amomaxuW r d a b c) := by
  refine roundTrip_of_parse rfl fun _ => ?_
  rw [parse_atomic (packA_op ..) (by decide), packA_d, packA_base, packA_b, packA_cls, packA_fn]; rfl

theorem Laws.RoundTrip.amomaxuD (r : BitVec 2) (d : BitVec 6) (a : BitVec 6) (b : BitVec 6) (c : BitVec 4) : Laws.RoundTrip.Statement (.amomaxuD r d a b c) := by
  refine roundTrip_of_parse rfl fun _ => ?_
  rw [parse_atomic (packA_op ..) (by decide), packA_d, packA_base, packA_b, packA_cls, packA_fn]; rfl

theorem Laws.RoundTrip.casW (r : BitVec 2) (d : BitVec 6) (a : BitVec 6) (b : BitVec 6) (c : BitVec 4) : Laws.RoundTrip.Statement (.casW r d a b c) := by
  refine roundTrip_of_parse rfl fun _ => ?_
  rw [parse_atomic (packA_op ..) (by decide), packA_d, packA_base, packA_b, packA_cls, packA_fn]; rfl

theorem Laws.RoundTrip.casD (r : BitVec 2) (d : BitVec 6) (a : BitVec 6) (b : BitVec 6) (c : BitVec 4) : Laws.RoundTrip.Statement (.casD r d a b c) := by
  refine roundTrip_of_parse rfl fun _ => ?_
  rw [parse_atomic (packA_op ..) (by decide), packA_d, packA_base, packA_b, packA_cls, packA_fn]; rfl

theorem Laws.RoundTrip.cas2 (r : BitVec 2) (d : BitVec 5) (a : BitVec 6) (b : BitVec 5) (c : BitVec 4) : Laws.RoundTrip.Statement (.cas2 r d a b c) := by
  refine roundTrip_of_parse rfl fun _ => ?_
  rw [parse_atomic (packA_op ..) (by decide), packA_d, packA_base, packA_b, packA_cls, packA_fn]
  show okIf (onlyBits (part 6 1 d) 1 5 && onlyBits (part 6 1 b) 1 5) (.cas2 r (subFld (part 6 1 d) 1 5) a (subFld (part 6 1 b) 1 5) c) = _
  rw [okIf_true (by simp [onlyBits_part])]
  simp [sub_part]

theorem Laws.RoundTrip.amofadd (r : BitVec 2) (d : BitVec 6) (a : BitVec 6) (b : BitVec 6) (c : BitVec 4) : Laws.RoundTrip.Statement (.amofadd r d a b c) := by
  refine roundTrip_of_parse rfl fun _ => ?_
  rw [parse_atomic (packA_op ..) (by decide), packA_d, packA_base, packA_b, packA_cls, packA_fn]; rfl

theorem Laws.RoundTrip.ctrinit (a : BitVec 6) (b : BitVec 6) : Laws.RoundTrip.Statement (.ctrinit a b) := by
  refine roundTrip_of_parse rfl fun _ => ?_
  rw [parse_30 (packS_op ..), packS_d, packS_a, packS_b, packS_m, packS_fn]; rfl

theorem Laws.RoundTrip.ctrsig (d : BitVec 6) (a : BitVec 6) (b : BitVec 6) : Laws.RoundTrip.Statement (.ctrsig d a b) := by
  refine roundTrip_of_parse rfl fun _ => ?_
  rw [parse_30 (packS_op ..), packS_d, packS_a, packS_b, packS_m, packS_fn]; rfl

theorem Laws.RoundTrip.ctrrd (d : BitVec 6) (a : BitVec 6) : Laws.RoundTrip.Statement (.ctrrd d a) := by
  refine roundTrip_of_parse rfl fun _ => ?_
  rw [parse_30 (packS_op ..), packS_d, packS_a, packS_b, packS_m, packS_fn]; rfl

theorem Laws.RoundTrip.ctrwait (a : BitVec 6) : Laws.RoundTrip.Statement (.ctrwait a) := by
  refine roundTrip_of_parse rfl fun _ => ?_
  rw [parse_30 (packS_op ..), packS_d, packS_a, packS_b, packS_m, packS_fn]; rfl

theorem Laws.RoundTrip.barinit (a : BitVec 6) (b : BitVec 6) : Laws.RoundTrip.Statement (.barinit a b) := by
  refine roundTrip_of_parse rfl fun _ => ?_
  rw [parse_30 (packS_op ..), packS_d, packS_a, packS_b, packS_m, packS_fn]; rfl

theorem Laws.RoundTrip.bararv (d : BitVec 6) (a : BitVec 6) (w : BitVec 1) : Laws.RoundTrip.Statement (.bararv d a w) := by
  refine roundTrip_of_parse rfl fun _ => ?_
  rw [parse_30 (packS_op ..), packS_d, packS_a, packS_b, packS_m, packS_fn]
  show okIf (0x0#6 == 0#6 && onlyBits (part 2 0 w) 0 1) (.bararv d a (subFld (part 2 0 w) 0 1)) = _
  rw [okIf_true (by simp [onlyBits_part])]
  simp [sub_part]

theorem Laws.RoundTrip.barwait (a : BitVec 6) (b : BitVec 6) : Laws.RoundTrip.Statement (.barwait a b) := by
  refine roundTrip_of_parse rfl fun _ => ?_
  rw [parse_30 (packS_op ..), packS_d, packS_a, packS_b, packS_m, packS_fn]; rfl

theorem Laws.RoundTrip.tlwait (s : BitVec 6) (a : BitVec 6) (b : BitVec 6) (e : BitVec 2) : Laws.RoundTrip.Statement (.tlwait s a b e) := by
  refine roundTrip_of_parse rfl fun _ => ?_
  rw [parse_30 (packS_op ..), packS_d, packS_a, packS_b, packS_m, packS_fn]; rfl

theorem Laws.RoundTrip.tlrd (d : BitVec 6) (b : BitVec 6) (e : BitVec 2) : Laws.RoundTrip.Statement (.tlrd d b e) := by
  refine roundTrip_of_parse rfl fun _ => ?_
  rw [parse_30 (packS_op ..), packS_d, packS_a, packS_b, packS_m, packS_fn]; rfl

theorem Laws.RoundTrip.arinit (a : BitVec 6) (b : BitVec 6) : Laws.RoundTrip.Statement (.arinit a b) := by
  refine roundTrip_of_parse rfl fun _ => ?_
  rw [parse_30 (packS_op ..), packS_d, packS_a, packS_b, packS_m, packS_fn]; rfl

theorem Laws.RoundTrip.arwait (a : BitVec 6) (b : BitVec 6) : Laws.RoundTrip.Statement (.arwait a b) := by
  refine roundTrip_of_parse rfl fun _ => ?_
  rw [parse_30 (packS_op ..), packS_d, packS_a, packS_b, packS_m, packS_fn]; rfl

theorem Laws.RoundTrip.spawn (d : BitVec 6) (a : BitVec 6) (b : BitVec 5) (e : BitVec 2) : Laws.RoundTrip.Statement (.spawn d a b e) := by
  refine roundTrip_of_parse rfl fun _ => ?_
  rw [parse_30 (packS_op ..), packS_d, packS_a, packS_b, packS_m, packS_fn]
  show okIf (onlyBits (part 6 1 b) 1 5) (.spawn d a (subFld (part 6 1 b) 1 5) e) = _
  rw [okIf_true (by simp [onlyBits_part])]
  simp [sub_part]

theorem Laws.RoundTrip.spawnd (d : BitVec 6) (a : BitVec 6) (b : BitVec 5) (e : BitVec 2) : Laws.RoundTrip.Statement (.spawnd d a b e) := by
  refine roundTrip_of_parse rfl fun _ => ?_
  rw [parse_30 (packS_op ..), packS_d, packS_a, packS_b, packS_m, packS_fn]
  show okIf (onlyBits (part 6 1 b) 1 5) (.spawnd d a (subFld (part 6 1 b) 1 5) e) = _
  rw [okIf_true (by simp [onlyBits_part])]
  simp [sub_part]

theorem Laws.RoundTrip.yield  : Laws.RoundTrip.Statement (.yield) := by
  refine roundTrip_of_parse rfl fun _ => ?_
  rw [parse_30 (packS_op ..), packS_d, packS_a, packS_b, packS_m, packS_fn]; rfl

theorem Laws.RoundTrip.stepend  : Laws.RoundTrip.Statement (.stepend) := by
  refine roundTrip_of_parse rfl fun _ => ?_
  rw [parse_30 (packS_op ..), packS_d, packS_a, packS_b, packS_m, packS_fn]; rfl

theorem Laws.RoundTrip.chkopen (a : BitVec 6) : Laws.RoundTrip.Statement (.chkopen a) := by
  refine roundTrip_of_parse rfl fun _ => ?_
  rw [parse_30 (packS_op ..), packS_d, packS_a, packS_b, packS_m, packS_fn]; rfl

theorem Laws.RoundTrip.chkclose  : Laws.RoundTrip.Statement (.chkclose) := by
  refine roundTrip_of_parse rfl fun _ => ?_
  rw [parse_30 (packS_op ..), packS_d, packS_a, packS_b, packS_m, packS_fn]; rfl

theorem Laws.RoundTrip.suspend (d : BitVec 6) (a : BitVec 6) (b : BitVec 6) : Laws.RoundTrip.Statement (.suspend d a b) := by
  refine roundTrip_of_parse rfl fun _ => ?_
  rw [parse_31 (packS_op ..), packS_d, packS_a, packS_b, packS_m, packS_fn]; rfl

theorem Laws.RoundTrip.resume (a : BitVec 6) (b : BitVec 5) (n : BitVec 1) : Laws.RoundTrip.Statement (.resume a b n) := by
  refine roundTrip_of_parse rfl fun _ => ?_
  rw [parse_31 (packS_op ..), packS_d, packS_a, packS_b, packS_m, packS_fn]
  show okIf (0x0#6 == 0#6 && onlyBits (part 6 1 b) 1 5 && onlyBits (part 2 0 n) 0 1) (.resume a (subFld (part 6 1 b) 1 5) (subFld (part 2 0 n) 0 1)) = _
  rw [okIf_true (by simp [onlyBits_part])]
  simp [sub_part]

theorem Laws.RoundTrip.ccopy (d : BitVec 6) (a : BitVec 6) (b : BitVec 6) : Laws.RoundTrip.Statement (.ccopy d a b) := by
  refine roundTrip_of_parse rfl fun _ => ?_
  rw [parse_31 (packS_op ..), packS_d, packS_a, packS_b, packS_m, packS_fn]; rfl

theorem Laws.RoundTrip.cdiscard (a : BitVec 6) (b : BitVec 6) : Laws.RoundTrip.Statement (.cdiscard a b) := by
  refine roundTrip_of_parse rfl fun _ => ?_
  rw [parse_31 (packS_op ..), packS_d, packS_a, packS_b, packS_m, packS_fn]; rfl

theorem Laws.RoundTrip.cquery (d : BitVec 6) (a : BitVec 6) (b : BitVec 6) : Laws.RoundTrip.Statement (.cquery d a b) := by
  refine roundTrip_of_parse rfl fun _ => ?_
  rw [parse_31 (packS_op ..), packS_d, packS_a, packS_b, packS_m, packS_fn]; rfl

theorem Laws.RoundTrip.crights (a : BitVec 6) (b : BitVec 5) : Laws.RoundTrip.Statement (.crights a b) := by
  refine roundTrip_of_parse rfl fun _ => ?_
  rw [parse_31 (packS_op ..), packS_d, packS_a, packS_b, packS_m, packS_fn]
  show okIf (0x0#6 == 0#6 && onlyBits (part 6 1 b) 1 5 && 0#2 == 0#2) (.crights a (subFld (part 6 1 b) 1 5)) = _
  rw [okIf_true (by simp [onlyBits_part])]
  simp [sub_part]

theorem Laws.RoundTrip.cpin (d : BitVec 5) (b : BitVec 6) (f : BitVec 1) : Laws.RoundTrip.Statement (.cpin d b f) := by
  refine roundTrip_of_parse rfl fun _ => ?_
  rw [parse_32 (packE_op ..), packE_tdD, packE_tdA, packE_opB, packE_m, packE_fn]
  show okIf (0x0#5 == 0#5 && onlyBits (part 4 3 f) 3 1) (.cpin d b (subFld (part 4 3 f) 3 1)) = _
  rw [okIf_true (by simp [onlyBits_part])]
  simp [sub_part]

theorem Laws.RoundTrip.cpout (a : BitVec 5) (b : BitVec 6) : Laws.RoundTrip.Statement (.cpout a b) := by
  refine roundTrip_of_parse rfl fun _ => ?_
  rw [parse_32 (packE_op ..), packE_tdD, packE_tdA, packE_opB, packE_m, packE_fn]; rfl

theorem Laws.RoundTrip.cptin (d : BitVec 5) (b : BitVec 5) (f : BitVec 1) : Laws.RoundTrip.Statement (.cptin d b f) := by
  refine roundTrip_of_parse rfl fun _ => ?_
  rw [parse_32 (packE_op ..), packE_tdD, packE_tdA, packE_opB, packE_m, packE_fn]
  show okIf (0x0#5 == 0#5 && onlyBits (part 6 1 b) 1 5 && onlyBits (part 4 3 f) 3 1) (.cptin d (subFld (part 6 1 b) 1 5) (subFld (part 4 3 f) 3 1)) = _
  rw [okIf_true (by simp [onlyBits_part])]
  simp [sub_part]

theorem Laws.RoundTrip.cptout (a : BitVec 5) (b : BitVec 5) : Laws.RoundTrip.Statement (.cptout a b) := by
  refine roundTrip_of_parse rfl fun _ => ?_
  rw [parse_32 (packE_op ..), packE_tdD, packE_tdA, packE_opB, packE_m, packE_fn]
  show okIf (0x0#5 == 0#5 && onlyBits (part 6 1 b) 1 5 && 0#4 == 0#4) (.cptout a (subFld (part 6 1 b) 1 5)) = _
  rw [okIf_true (by simp [onlyBits_part])]
  simp [sub_part]

theorem Laws.RoundTrip.cpll (d : BitVec 5) (a : BitVec 5) (f : BitVec 1) : Laws.RoundTrip.Statement (.cpll d a f) := by
  refine roundTrip_of_parse rfl fun _ => ?_
  rw [parse_32 (packE_op ..), packE_tdD, packE_tdA, packE_opB, packE_m, packE_fn]
  show okIf (0x0#6 == 0#6 && onlyBits (part 4 3 f) 3 1) (.cpll d a (subFld (part 4 3 f) 3 1)) = _
  rw [okIf_true (by simp [onlyBits_part])]
  simp [sub_part]

theorem Laws.RoundTrip.gather (d : BitVec 5) (x : BitVec 3) (b : BitVec 5) (f : BitVec 1) (k : BitVec 3) : Laws.RoundTrip.Statement (.gather d x b f k) := by
  refine roundTrip_of_parse rfl fun _ => ?_
  rw [parse_32 (packE_op ..), packE_tdD, packE_tdA, packE_opB, packE_m, packE_fn]
  show okIf (onlyBits (part 5 0 x) 0 3 && onlyBits (part 6 1 b) 1 5) (.gather d (subFld (part 5 0 x) 0 3) (subFld (part 6 1 b) 1 5) (subFld (gatherM f k) 3 1) (subFld (gatherM f k) 0 3)) = _
  rw [okIf_true (by simp [onlyBits_part])]
  simp [sub_part, gather_f, gather_k]

theorem Laws.RoundTrip.scatter (x : BitVec 3) (a : BitVec 5) (b : BitVec 5) (k : BitVec 3) : Laws.RoundTrip.Statement (.scatter x a b k) := by
  refine roundTrip_of_parse rfl fun _ => ?_
  rw [parse_32 (packE_op ..), packE_tdD, packE_tdA, packE_opB, packE_m, packE_fn]
  show okIf (onlyBits (part 5 0 x) 0 3 && onlyBits (part 6 1 b) 1 5 && onlyBits (part 4 0 k) 0 3) (.scatter (subFld (part 5 0 x) 0 3) a (subFld (part 6 1 b) 1 5) (subFld (part 4 0 k) 0 3)) = _
  rw [okIf_true (by simp [onlyBits_part])]
  simp [sub_part]

theorem Laws.RoundTrip.idxld (x : BitVec 3) (b : BitVec 5) : Laws.RoundTrip.Statement (.idxld x b) := by
  refine roundTrip_of_parse rfl fun _ => ?_
  rw [parse_32 (packE_op ..), packE_tdD, packE_tdA, packE_opB, packE_m, packE_fn]
  show okIf (onlyBits (part 5 0 x) 0 3 && 0x0#5 == 0#5 && onlyBits (part 6 1 b) 1 5 && 0#4 == 0#4) (.idxld (subFld (part 5 0 x) 0 3) (subFld (part 6 1 b) 1 5)) = _
  rw [okIf_true (by simp [onlyBits_part])]
  simp [sub_part]

theorem Laws.RoundTrip.fill (d : BitVec 5) (b : BitVec 6) : Laws.RoundTrip.Statement (.fill d b) := by
  refine roundTrip_of_parse rfl fun _ => ?_
  rw [parse_32 (packE_op ..), packE_tdD, packE_tdA, packE_opB, packE_m, packE_fn]; rfl

theorem Laws.RoundTrip.promote (b : BitVec 4) : Laws.RoundTrip.Statement (.promote b) := by
  refine roundTrip_of_parse rfl fun _ => ?_
  rw [parse_32 (packE_op ..), packE_tdD, packE_tdA, packE_opB, packE_m, packE_fn]
  show okIf (0x0#5 == 0#5 && 0x0#5 == 0#5 && onlyBits (part 6 2 b) 2 4 && 0#4 == 0#4) (.promote (subFld (part 6 2 b) 2 4)) = _
  rw [okIf_true (by simp [onlyBits_part])]
  simp [sub_part]

theorem Laws.RoundTrip.subscr (d : BitVec 5) (b : BitVec 5) (s : BitVec 2) : Laws.RoundTrip.Statement (.subscr d b s) := by
  refine roundTrip_of_parse rfl fun _ => ?_
  rw [parse_32 (packE_op ..), packE_tdD, packE_tdA, packE_opB, packE_m, packE_fn]
  show okIf (0x0#5 == 0#5 && onlyBits (part 6 1 b) 1 5 && onlyBits (part 4 0 s) 0 2) (.subscr d (subFld (part 6 1 b) 1 5) (subFld (part 4 0 s) 0 2)) = _
  rw [okIf_true (by simp [onlyBits_part])]
  simp [sub_part]

theorem Laws.RoundTrip.slotret (b : BitVec 6) (s : BitVec 2) : Laws.RoundTrip.Statement (.slotret b s) := by
  refine roundTrip_of_parse rfl fun _ => ?_
  rw [parse_32 (packE_op ..), packE_tdD, packE_tdA, packE_opB, packE_m, packE_fn]
  show okIf (0x0#5 == 0#5 && 0x0#5 == 0#5 && onlyBits (part 4 0 s) 0 2) (.slotret b (subFld (part 4 0 s) 0 2)) = _
  rw [okIf_true (by simp [onlyBits_part])]
  simp [sub_part]

theorem Laws.RoundTrip.mma (d : BitVec 5) (a : BitVec 5) (b : BitVec 5) (s : BitVec 6) (w : BitVec 1) : Laws.RoundTrip.Statement (.mma d a b s w) := by
  refine roundTrip_of_parse rfl fun _ => ?_
  rw [parse_33 (packEM_op ..), packEM_tdD, packEM_tdA, packEM_tdB, packEM_gS, packEM_f, packEM_fn]; rfl

theorem Laws.RoundTrip.mmapLead (d : BitVec 5) (a : BitVec 5) (b : BitVec 5) (s : BitVec 6) : Laws.RoundTrip.Statement (.mmapLead d a b s) := by
  refine roundTrip_of_parse rfl fun _ => ?_
  rw [parse_33 (packEM_op ..), packEM_tdD, packEM_tdA, packEM_tdB, packEM_gS, packEM_f, packEM_fn]; rfl

theorem Laws.RoundTrip.mmapFol (d : BitVec 5) (b : BitVec 5) (s : BitVec 6) : Laws.RoundTrip.Statement (.mmapFol d b s) := by
  refine roundTrip_of_parse rfl fun _ => ?_
  rw [parse_33 (packEM_op ..), packEM_tdD, packEM_tdA, packEM_tdB, packEM_gS, packEM_f, packEM_fn]; rfl

theorem Laws.RoundTrip.wbld (d : BitVec 5) (a : BitVec 5) : Laws.RoundTrip.Statement (.wbld d a) := by
  refine roundTrip_of_parse rfl fun _ => ?_
  rw [parse_33 (packEM_op ..), packEM_tdD, packEM_tdA, packEM_tdB, packEM_gS, packEM_f, packEM_fn]; rfl

theorem Laws.RoundTrip.cbld (a : BitVec 5) : Laws.RoundTrip.Statement (.cbld a) := by
  refine roundTrip_of_parse rfl fun _ => ?_
  rw [parse_33 (packEM_op ..), packEM_tdD, packEM_tdA, packEM_tdB, packEM_gS, packEM_f, packEM_fn]; rfl

theorem Laws.RoundTrip.mvm (d : BitVec 5) (a : BitVec 5) (b : BitVec 5) (s : BitVec 6) (w : BitVec 1) : Laws.RoundTrip.Statement (.mvm d a b s w) := by
  refine roundTrip_of_parse rfl fun _ => ?_
  rw [parse_33 (packEM_op ..), packEM_tdD, packEM_tdA, packEM_tdB, packEM_gS, packEM_f, packEM_fn]; rfl

theorem Laws.RoundTrip.mzero (d : BitVec 5) : Laws.RoundTrip.Statement (.mzero d) := by
  refine roundTrip_of_parse rfl fun _ => ?_
  rw [parse_33 (packEM_op ..), packEM_tdD, packEM_tdA, packEM_tdB, packEM_gS, packEM_f, packEM_fn]; rfl

theorem Laws.RoundTrip.vadd (d : BitVec 5) (a : BitVec 5) (b : BitVec 6) (m : BitVec 2) : Laws.RoundTrip.Statement (.vadd d a b m) := by
  refine roundTrip_of_parse rfl fun _ => ?_
  rw [parse_34 (packE_op ..), packE_tdD, packE_tdA, packE_opB, packE_m, packE_fn]
  show okIf (onlyBits (part 4 0 m) 0 2) (.vadd d a b (subFld (part 4 0 m) 0 2)) = _
  rw [okIf_true (by simp [onlyBits_part])]
  simp [sub_part]

theorem Laws.RoundTrip.vsub (d : BitVec 5) (a : BitVec 5) (b : BitVec 6) (m : BitVec 2) : Laws.RoundTrip.Statement (.vsub d a b m) := by
  refine roundTrip_of_parse rfl fun _ => ?_
  rw [parse_34 (packE_op ..), packE_tdD, packE_tdA, packE_opB, packE_m, packE_fn]
  show okIf (onlyBits (part 4 0 m) 0 2) (.vsub d a b (subFld (part 4 0 m) 0 2)) = _
  rw [okIf_true (by simp [onlyBits_part])]
  simp [sub_part]

theorem Laws.RoundTrip.vmul (d : BitVec 5) (a : BitVec 5) (b : BitVec 6) (m : BitVec 2) : Laws.RoundTrip.Statement (.vmul d a b m) := by
  refine roundTrip_of_parse rfl fun _ => ?_
  rw [parse_34 (packE_op ..), packE_tdD, packE_tdA, packE_opB, packE_m, packE_fn]
  show okIf (onlyBits (part 4 0 m) 0 2) (.vmul d a b (subFld (part 4 0 m) 0 2)) = _
  rw [okIf_true (by simp [onlyBits_part])]
  simp [sub_part]

theorem Laws.RoundTrip.vfma (d : BitVec 5) (a : BitVec 5) (b : BitVec 6) (m : BitVec 2) : Laws.RoundTrip.Statement (.vfma d a b m) := by
  refine roundTrip_of_parse rfl fun _ => ?_
  rw [parse_34 (packE_op ..), packE_tdD, packE_tdA, packE_opB, packE_m, packE_fn]
  show okIf (onlyBits (part 4 0 m) 0 2) (.vfma d a b (subFld (part 4 0 m) 0 2)) = _
  rw [okIf_true (by simp [onlyBits_part])]
  simp [sub_part]

theorem Laws.RoundTrip.vmin (d : BitVec 5) (a : BitVec 5) (b : BitVec 6) (m : BitVec 2) : Laws.RoundTrip.Statement (.vmin d a b m) := by
  refine roundTrip_of_parse rfl fun _ => ?_
  rw [parse_34 (packE_op ..), packE_tdD, packE_tdA, packE_opB, packE_m, packE_fn]
  show okIf (onlyBits (part 4 0 m) 0 2) (.vmin d a b (subFld (part 4 0 m) 0 2)) = _
  rw [okIf_true (by simp [onlyBits_part])]
  simp [sub_part]

theorem Laws.RoundTrip.vmax (d : BitVec 5) (a : BitVec 5) (b : BitVec 6) (m : BitVec 2) : Laws.RoundTrip.Statement (.vmax d a b m) := by
  refine roundTrip_of_parse rfl fun _ => ?_
  rw [parse_34 (packE_op ..), packE_tdD, packE_tdA, packE_opB, packE_m, packE_fn]
  show okIf (onlyBits (part 4 0 m) 0 2) (.vmax d a b (subFld (part 4 0 m) 0 2)) = _
  rw [okIf_true (by simp [onlyBits_part])]
  simp [sub_part]

theorem Laws.RoundTrip.vabs (d : BitVec 5) (a : BitVec 5) : Laws.RoundTrip.Statement (.vabs d a) := by
  refine roundTrip_of_parse rfl fun _ => ?_
  rw [parse_34 (packE_op ..), packE_tdD, packE_tdA, packE_opB, packE_m, packE_fn]; rfl

theorem Laws.RoundTrip.vneg (d : BitVec 5) (a : BitVec 5) : Laws.RoundTrip.Statement (.vneg d a) := by
  refine roundTrip_of_parse rfl fun _ => ?_
  rw [parse_34 (packE_op ..), packE_tdD, packE_tdA, packE_opB, packE_m, packE_fn]; rfl

theorem Laws.RoundTrip.vscl (d : BitVec 5) (a : BitVec 5) (b : BitVec 6) : Laws.RoundTrip.Statement (.vscl d a b) := by
  refine roundTrip_of_parse rfl fun _ => ?_
  rw [parse_34 (packE_op ..), packE_tdD, packE_tdA, packE_opB, packE_m, packE_fn]; rfl

theorem Laws.RoundTrip.vadds (d : BitVec 5) (a : BitVec 5) (b : BitVec 6) (m : BitVec 2) : Laws.RoundTrip.Statement (.vadds d a b m) := by
  refine roundTrip_of_parse rfl fun _ => ?_
  rw [parse_34 (packE_op ..), packE_tdD, packE_tdA, packE_opB, packE_m, packE_fn]
  show okIf (onlyBits (part 4 0 m) 0 2) (.vadds d a b (subFld (part 4 0 m) 0 2)) = _
  rw [okIf_true (by simp [onlyBits_part])]
  simp [sub_part]

theorem Laws.RoundTrip.vand (d : BitVec 5) (a : BitVec 5) (b : BitVec 6) (m : BitVec 2) : Laws.RoundTrip.Statement (.vand d a b m) := by
  refine roundTrip_of_parse rfl fun _ => ?_
  rw [parse_34 (packE_op ..), packE_tdD, packE_tdA, packE_opB, packE_m, packE_fn]
  show okIf (onlyBits (part 4 0 m) 0 2) (.vand d a b (subFld (part 4 0 m) 0 2)) = _
  rw [okIf_true (by simp [onlyBits_part])]
  simp [sub_part]

theorem Laws.RoundTrip.vor (d : BitVec 5) (a : BitVec 5) (b : BitVec 6) (m : BitVec 2) : Laws.RoundTrip.Statement (.vor d a b m) := by
  refine roundTrip_of_parse rfl fun _ => ?_
  rw [parse_34 (packE_op ..), packE_tdD, packE_tdA, packE_opB, packE_m, packE_fn]
  show okIf (onlyBits (part 4 0 m) 0 2) (.vor d a b (subFld (part 4 0 m) 0 2)) = _
  rw [okIf_true (by simp [onlyBits_part])]
  simp [sub_part]

theorem Laws.RoundTrip.vxor (d : BitVec 5) (a : BitVec 5) (b : BitVec 6) (m : BitVec 2) : Laws.RoundTrip.Statement (.vxor d a b m) := by
  refine roundTrip_of_parse rfl fun _ => ?_
  rw [parse_34 (packE_op ..), packE_tdD, packE_tdA, packE_opB, packE_m, packE_fn]
  show okIf (onlyBits (part 4 0 m) 0 2) (.vxor d a b (subFld (part 4 0 m) 0 2)) = _
  rw [okIf_true (by simp [onlyBits_part])]
  simp [sub_part]

theorem Laws.RoundTrip.vshl (d : BitVec 5) (a : BitVec 5) (b : BitVec 6) (m : BitVec 2) : Laws.RoundTrip.Statement (.vshl d a b m) := by
  refine roundTrip_of_parse rfl fun _ => ?_
  rw [parse_34 (packE_op ..), packE_tdD, packE_tdA, packE_opB, packE_m, packE_fn]
  show okIf (onlyBits (part 4 0 m) 0 2) (.vshl d a b (subFld (part 4 0 m) 0 2)) = _
  rw [okIf_true (by simp [onlyBits_part])]
  simp [sub_part]

theorem Laws.RoundTrip.vshr (d : BitVec 5) (a : BitVec 5) (b : BitVec 6) (m : BitVec 2) : Laws.RoundTrip.Statement (.vshr d a b m) := by
  refine roundTrip_of_parse rfl fun _ => ?_
  rw [parse_34 (packE_op ..), packE_tdD, packE_tdA, packE_opB, packE_m, packE_fn]
  show okIf (onlyBits (part 4 0 m) 0 2) (.vshr d a b (subFld (part 4 0 m) 0 2)) = _
  rw [okIf_true (by simp [onlyBits_part])]
  simp [sub_part]

theorem Laws.RoundTrip.vcmpeq (d : BitVec 5) (a : BitVec 5) (b : BitVec 6) (m : BitVec 2) : Laws.RoundTrip.Statement (.vcmpeq d a b m) := by
  refine roundTrip_of_parse rfl fun _ => ?_
  rw [parse_34 (packE_op ..), packE_tdD, packE_tdA, packE_opB, packE_m, packE_fn]
  show okIf (onlyBits (part 4 0 m) 0 2) (.vcmpeq d a b (subFld (part 4 0 m) 0 2)) = _
  rw [okIf_true (by simp [onlyBits_part])]
  simp [sub_part]

theorem Laws.RoundTrip.vcmplt (d : BitVec 5) (a : BitVec 5) (b : BitVec 6) (m : BitVec 2) : Laws.RoundTrip.Statement (.vcmplt d a b m) := by
  refine roundTrip_of_parse rfl fun _ => ?_
  rw [parse_34 (packE_op ..), packE_tdD, packE_tdA, packE_opB, packE_m, packE_fn]
  show okIf (onlyBits (part 4 0 m) 0 2) (.vcmplt d a b (subFld (part 4 0 m) 0 2)) = _
  rw [okIf_true (by simp [onlyBits_part])]
  simp [sub_part]

theorem Laws.RoundTrip.vcmple (d : BitVec 5) (a : BitVec 5) (b : BitVec 6) (m : BitVec 2) : Laws.RoundTrip.Statement (.vcmple d a b m) := by
  refine roundTrip_of_parse rfl fun _ => ?_
  rw [parse_34 (packE_op ..), packE_tdD, packE_tdA, packE_opB, packE_m, packE_fn]
  show okIf (onlyBits (part 4 0 m) 0 2) (.vcmple d a b (subFld (part 4 0 m) 0 2)) = _
  rw [okIf_true (by simp [onlyBits_part])]
  simp [sub_part]

theorem Laws.RoundTrip.vsel (d : BitVec 5) (a : BitVec 5) (b : BitVec 6) (m : BitVec 2) : Laws.RoundTrip.Statement (.vsel d a b m) := by
  refine roundTrip_of_parse rfl fun _ => ?_
  rw [parse_34 (packE_op ..), packE_tdD, packE_tdA, packE_opB, packE_m, packE_fn]
  show okIf (onlyBits (part 4 0 m) 0 2) (.vsel d a b (subFld (part 4 0 m) 0 2)) = _
  rw [okIf_true (by simp [onlyBits_part])]
  simp [sub_part]

theorem Laws.RoundTrip.vmov (d : BitVec 5) (a : BitVec 5) : Laws.RoundTrip.Statement (.vmov d a) := by
  refine roundTrip_of_parse rfl fun _ => ?_
  rw [parse_34 (packE_op ..), packE_tdD, packE_tdA, packE_opB, packE_m, packE_fn]; rfl

theorem Laws.RoundTrip.vbcast (d : BitVec 5) (a : BitVec 5) (k : BitVec 2) : Laws.RoundTrip.Statement (.vbcast d a k) := by
  refine roundTrip_of_parse rfl fun hw => ?_
  have hk : k ≠ 3#2 := by
    intro h; subst h; cases hw
  have hm : part 4 0 k ≠ 3#4 := by
    intro h; apply hk; rw [← sub_part (n := 4) (lo := 0) k (by decide), h]; rfl
  rw [parse_34 (packE_op ..), packE_tdD, packE_tdA, packE_opB, packE_m, packE_fn]
  show (if part 4 0 k == 3#4 then _ else okIf (0#6 == 0#6 && onlyBits (part 4 0 k) 0 2) (.vbcast d a (subFld (part 4 0 k) 0 2))) = _
  rw [if_neg (by simpa using hm), okIf_true (by simp [onlyBits_part]), sub_part k (by decide)]

theorem Laws.RoundTrip.vbcastScalar (d : BitVec 5) (b : BitVec 6) : Laws.RoundTrip.Statement (.vbcastScalar d b) := by
  refine roundTrip_of_parse rfl fun _ => ?_
  rw [parse_34 (packE_op ..), packE_tdD, packE_tdA, packE_opB, packE_m, packE_fn]; rfl

theorem Laws.RoundTrip.vtrans (d : BitVec 5) (a : BitVec 5) : Laws.RoundTrip.Statement (.vtrans d a) := by
  refine roundTrip_of_parse rfl fun _ => ?_
  rw [parse_34 (packE_op ..), packE_tdD, packE_tdA, packE_opB, packE_m, packE_fn]; rfl

theorem Laws.RoundTrip.vexp (d : BitVec 5) (a : BitVec 5) : Laws.RoundTrip.Statement (.vexp d a) := by
  refine roundTrip_of_parse rfl fun _ => ?_
  rw [parse_35 (packE_op ..), packE_tdD, packE_tdA, packE_opB, packE_m, packE_fn]; rfl

theorem Laws.RoundTrip.vexp2 (d : BitVec 5) (a : BitVec 5) : Laws.RoundTrip.Statement (.vexp2 d a) := by
  refine roundTrip_of_parse rfl fun _ => ?_
  rw [parse_35 (packE_op ..), packE_tdD, packE_tdA, packE_opB, packE_m, packE_fn]; rfl

theorem Laws.RoundTrip.vlog2 (d : BitVec 5) (a : BitVec 5) : Laws.RoundTrip.Statement (.vlog2 d a) := by
  refine roundTrip_of_parse rfl fun _ => ?_
  rw [parse_35 (packE_op ..), packE_tdD, packE_tdA, packE_opB, packE_m, packE_fn]; rfl

theorem Laws.RoundTrip.vrcp (d : BitVec 5) (a : BitVec 5) : Laws.RoundTrip.Statement (.vrcp d a) := by
  refine roundTrip_of_parse rfl fun _ => ?_
  rw [parse_35 (packE_op ..), packE_tdD, packE_tdA, packE_opB, packE_m, packE_fn]; rfl

theorem Laws.RoundTrip.vrsqrt (d : BitVec 5) (a : BitVec 5) : Laws.RoundTrip.Statement (.vrsqrt d a) := by
  refine roundTrip_of_parse rfl fun _ => ?_
  rw [parse_35 (packE_op ..), packE_tdD, packE_tdA, packE_opB, packE_m, packE_fn]; rfl

theorem Laws.RoundTrip.vsqrt (d : BitVec 5) (a : BitVec 5) : Laws.RoundTrip.Statement (.vsqrt d a) := by
  refine roundTrip_of_parse rfl fun _ => ?_
  rw [parse_35 (packE_op ..), packE_tdD, packE_tdA, packE_opB, packE_m, packE_fn]; rfl

theorem Laws.RoundTrip.vtanh (d : BitVec 5) (a : BitVec 5) : Laws.RoundTrip.Statement (.vtanh d a) := by
  refine roundTrip_of_parse rfl fun _ => ?_
  rw [parse_35 (packE_op ..), packE_tdD, packE_tdA, packE_opB, packE_m, packE_fn]; rfl

theorem Laws.RoundTrip.vsigm (d : BitVec 5) (a : BitVec 5) : Laws.RoundTrip.Statement (.vsigm d a) := by
  refine roundTrip_of_parse rfl fun _ => ?_
  rw [parse_35 (packE_op ..), packE_tdD, packE_tdA, packE_opB, packE_m, packE_fn]; rfl

theorem Laws.RoundTrip.vsilu (d : BitVec 5) (a : BitVec 5) : Laws.RoundTrip.Statement (.vsilu d a) := by
  refine roundTrip_of_parse rfl fun _ => ?_
  rw [parse_35 (packE_op ..), packE_tdD, packE_tdA, packE_opB, packE_m, packE_fn]; rfl

theorem Laws.RoundTrip.vgelu (d : BitVec 5) (a : BitVec 5) : Laws.RoundTrip.Statement (.vgelu d a) := by
  refine roundTrip_of_parse rfl fun _ => ?_
  rw [parse_35 (packE_op ..), packE_tdD, packE_tdA, packE_opB, packE_m, packE_fn]; rfl

theorem Laws.RoundTrip.vcvt (d : BitVec 5) (a : BitVec 5) (o : BitVec 1) : Laws.RoundTrip.Statement (.vcvt d a o) := by
  refine roundTrip_of_parse rfl fun _ => ?_
  rw [parse_35 (packE_op ..), packE_tdD, packE_tdA, packE_opB, packE_m, packE_fn]
  show okIf (0x0#6 == 0#6 && onlyBits (part 4 0 o) 0 1) (.vcvt d a (subFld (part 4 0 o) 0 1)) = _
  rw [okIf_true (by simp [onlyBits_part])]
  simp [sub_part]

theorem Laws.RoundTrip.vquant (d : BitVec 5) (a : BitVec 5) : Laws.RoundTrip.Statement (.vquant d a) := by
  refine roundTrip_of_parse rfl fun _ => ?_
  rw [parse_35 (packE_op ..), packE_tdD, packE_tdA, packE_opB, packE_m, packE_fn]; rfl

theorem Laws.RoundTrip.vdquant (d : BitVec 5) (a : BitVec 5) : Laws.RoundTrip.Statement (.vdquant d a) := by
  refine roundTrip_of_parse rfl fun _ => ?_
  rw [parse_35 (packE_op ..), packE_tdD, packE_tdA, packE_opB, packE_m, packE_fn]; rfl

theorem Laws.RoundTrip.vrsum (d : BitVec 5) (a : BitVec 5) (c : BitVec 1) : Laws.RoundTrip.Statement (.vrsum d a c) := by
  refine roundTrip_of_parse rfl fun _ => ?_
  rw [parse_35 (packE_op ..), packE_tdD, packE_tdA, packE_opB, packE_m, packE_fn]
  show okIf (0x0#6 == 0#6 && onlyBits (part 4 0 c) 0 1) (.vrsum d a (subFld (part 4 0 c) 0 1)) = _
  rw [okIf_true (by simp [onlyBits_part])]
  simp [sub_part]

theorem Laws.RoundTrip.vrmax (d : BitVec 5) (a : BitVec 5) : Laws.RoundTrip.Statement (.vrmax d a) := by
  refine roundTrip_of_parse rfl fun _ => ?_
  rw [parse_35 (packE_op ..), packE_tdD, packE_tdA, packE_opB, packE_m, packE_fn]; rfl

theorem Laws.RoundTrip.vrmin (d : BitVec 5) (a : BitVec 5) : Laws.RoundTrip.Statement (.vrmin d a) := by
  refine roundTrip_of_parse rfl fun _ => ?_
  rw [parse_35 (packE_op ..), packE_tdD, packE_tdA, packE_opB, packE_m, packE_fn]; rfl

theorem Laws.RoundTrip.vsmaxo (d : BitVec 5) (a : BitVec 5) (b : BitVec 6) : Laws.RoundTrip.Statement (.vsmaxo d a b) := by
  refine roundTrip_of_parse rfl fun _ => ?_
  rw [parse_35 (packE_op ..), packE_tdD, packE_tdA, packE_opB, packE_m, packE_fn]; rfl

theorem Laws.RoundTrip.vsmaxf (d : BitVec 5) (a : BitVec 5) (b : BitVec 6) : Laws.RoundTrip.Statement (.vsmaxf d a b) := by
  refine roundTrip_of_parse rfl fun _ => ?_
  rw [parse_35 (packE_op ..), packE_tdD, packE_tdA, packE_opB, packE_m, packE_fn]; rfl

theorem Laws.RoundTrip.vrot (d : BitVec 5) (a : BitVec 5) (b : BitVec 5) (h : BitVec 1) : Laws.RoundTrip.Statement (.vrot d a b h) := by
  refine roundTrip_of_parse rfl fun _ => ?_
  rw [parse_35 (packE_op ..), packE_tdD, packE_tdA, packE_opB, packE_m, packE_fn]
  show okIf (onlyBits (part 6 1 b) 1 5 && onlyBits (part 4 0 h) 0 1) (.vrot d a (subFld (part 6 1 b) 1 5) (subFld (part 4 0 h) 0 1)) = _
  rw [okIf_true (by simp [onlyBits_part])]
  simp [sub_part]

theorem Laws.RoundTrip.vrng (d : BitVec 5) (b : BitVec 5) : Laws.RoundTrip.Statement (.vrng d b) := by
  refine roundTrip_of_parse rfl fun _ => ?_
  rw [parse_35 (packE_op ..), packE_tdD, packE_tdA, packE_opB, packE_m, packE_fn]
  show okIf (0x0#5 == 0#5 && onlyBits (part 6 1 b) 1 5 && 0#4 == 0#4) (.vrng d (subFld (part 6 1 b) 1 5)) = _
  rw [okIf_true (by simp [onlyBits_part])]
  simp [sub_part]

theorem Laws.RoundTrip.vsample (d : BitVec 5) (a : BitVec 5) (b : BitVec 5) : Laws.RoundTrip.Statement (.vsample d a b) := by
  refine roundTrip_of_parse rfl fun _ => ?_
  rw [parse_35 (packE_op ..), packE_tdD, packE_tdA, packE_opB, packE_m, packE_fn]
  show okIf (onlyBits (part 6 1 b) 1 5 && 0#4 == 0#4) (.vsample d a (subFld (part 6 1 b) 1 5)) = _
  rw [okIf_true (by simp [onlyBits_part])]
  simp [sub_part]

theorem Laws.RoundTrip.vargmax (d : BitVec 5) (a : BitVec 5) : Laws.RoundTrip.Statement (.vargmax d a) := by
  refine roundTrip_of_parse rfl fun _ => ?_
  rw [parse_35 (packE_op ..), packE_tdD, packE_tdA, packE_opB, packE_m, packE_fn]; rfl

theorem Laws.RoundTrip.curadvG (d : BitVec 6) (a : BitVec 6) (b : BitVec 6) : Laws.RoundTrip.Statement (.curadvG d a b) := by
  refine roundTrip_of_parse rfl fun _ => ?_
  rw [parse_36 (packS_op ..), packS_d, packS_a, packS_b, packS_m, packS_fn]; rfl

theorem Laws.RoundTrip.curadvP (d : BitVec 6) (a : BitVec 6) (b : BitVec 6) : Laws.RoundTrip.Statement (.curadvP d a b) := by
  refine roundTrip_of_parse rfl fun _ => ?_
  rw [parse_36 (packS_op ..), packS_d, packS_a, packS_b, packS_m, packS_fn]; rfl

theorem Laws.RoundTrip.fracc (d : BitVec 6) (a : BitVec 6) (b : BitVec 6) : Laws.RoundTrip.Statement (.fracc d a b) := by
  refine roundTrip_of_parse rfl fun _ => ?_
  rw [parse_36 (packS_op ..), packS_d, packS_a, packS_b, packS_m, packS_fn]; rfl

theorem Laws.RoundTrip.strunc (d : BitVec 6) (a : BitVec 6) (b : BitVec 6) : Laws.RoundTrip.Statement (.strunc d a b) := by
  refine roundTrip_of_parse rfl fun _ => ?_
  rw [parse_36 (packS_op ..), packS_d, packS_a, packS_b, packS_m, packS_fn]; rfl

theorem Laws.RoundTrip.scommit (d : BitVec 6) (a : BitVec 6) (b : BitVec 5) : Laws.RoundTrip.Statement (.scommit d a b) := by
  refine roundTrip_of_parse rfl fun _ => ?_
  rw [parse_36 (packS_op ..), packS_d, packS_a, packS_b, packS_m, packS_fn]
  show okIf (onlyBits (part 6 1 b) 1 5 && 0#2 == 0#2) (.scommit d a (subFld (part 6 1 b) 1 5)) = _
  rw [okIf_true (by simp [onlyBits_part])]
  simp [sub_part]

theorem Laws.RoundTrip.ssnap (d : BitVec 6) (a : BitVec 6) (b : BitVec 6) : Laws.RoundTrip.Statement (.ssnap d a b) := by
  refine roundTrip_of_parse rfl fun _ => ?_
  rw [parse_36 (packS_op ..), packS_d, packS_a, packS_b, packS_m, packS_fn]; rfl

theorem Laws.RoundTrip.kvalloc (d : BitVec 6) (a : BitVec 6) (b : BitVec 6) : Laws.RoundTrip.Statement (.kvalloc d a b) := by
  refine roundTrip_of_parse rfl fun _ => ?_
  rw [parse_36 (packS_op ..), packS_d, packS_a, packS_b, packS_m, packS_fn]; rfl

theorem Laws.RoundTrip.kvfree (d : BitVec 6) (a : BitVec 6) (b : BitVec 6) : Laws.RoundTrip.Statement (.kvfree d a b) := by
  refine roundTrip_of_parse rfl fun _ => ?_
  rw [parse_36 (packS_op ..), packS_d, packS_a, packS_b, packS_m, packS_fn]; rfl

theorem Laws.RoundTrip.kvborrow (d : BitVec 6) (a : BitVec 6) (b : BitVec 6) : Laws.RoundTrip.Statement (.kvborrow d a b) := by
  refine roundTrip_of_parse rfl fun _ => ?_
  rw [parse_36 (packS_op ..), packS_d, packS_a, packS_b, packS_m, packS_fn]; rfl

theorem Laws.RoundTrip.slsend (d : BitVec 6) (a : BitVec 6) (b : BitVec 6) : Laws.RoundTrip.Statement (.slsend d a b) := by
  refine roundTrip_of_parse rfl fun _ => ?_
  rw [parse_36 (packS_op ..), packS_d, packS_a, packS_b, packS_m, packS_fn]; rfl

theorem Laws.RoundTrip.slcancel (d : BitVec 6) (a : BitVec 6) (b : BitVec 6) : Laws.RoundTrip.Statement (.slcancel d a b) := by
  refine roundTrip_of_parse rfl fun _ => ?_
  rw [parse_36 (packS_op ..), packS_d, packS_a, packS_b, packS_m, packS_fn]; rfl

theorem Laws.RoundTrip.nop  : Laws.RoundTrip.Statement (.nop) := by
  refine roundTrip_of_parse rfl fun _ => ?_
  rw [parse_37 (packS_op ..), packS_fn]
  rw [packS_d, packS_a, packS_b, packS_m]; rfl

theorem Laws.RoundTrip.trapCode (n : BitVec 12) : Laws.RoundTrip.Statement (.trapCode n) := by
  refine roundTrip_of_parse rfl fun hw => ?_
  have hn : n.toNat / 4 ≠ 0x3FC := by
    intro h; simp [Instr.wellFormed, Instr.illegality, needs, h] at hw
  rw [parse_37 (packSC_op ..), packSC_fn, packSC_d, packSC_n12, packSC_m]
  show okIf (0#6 == 0#6 && 0#2 == 0#2) (trapWord n) = _
  rw [okIf_true (by decide), trapWord]
  split <;> first | rfl | (exfalso; omega)

theorem Laws.RoundTrip.trapRestartStep  : Laws.RoundTrip.Statement (.trapRestartStep) := by
  refine roundTrip_of_parse rfl fun _ => ?_
  rw [parse_37 (packSC_op ..), packSC_fn]
  rw [packSC_d, packSC_n12, packSC_m]; rfl

theorem Laws.RoundTrip.trapRollBack  : Laws.RoundTrip.Statement (.trapRollBack) := by
  refine roundTrip_of_parse rfl fun _ => ?_
  rw [parse_37 (packSC_op ..), packSC_fn]
  rw [packSC_d, packSC_n12, packSC_m]; rfl

theorem Laws.RoundTrip.trapKillContext  : Laws.RoundTrip.Statement (.trapKillContext) := by
  refine roundTrip_of_parse rfl fun _ => ?_
  rw [parse_37 (packSC_op ..), packSC_fn]
  rw [packSC_d, packSC_n12, packSC_m]; rfl

theorem Laws.RoundTrip.trapEndUnit  : Laws.RoundTrip.Statement (.trapEndUnit) := by
  refine roundTrip_of_parse rfl fun _ => ?_
  rw [parse_37 (packSC_op ..), packSC_fn]
  rw [packSC_d, packSC_n12, packSC_m]; rfl

theorem Laws.RoundTrip.tret  : Laws.RoundTrip.Statement (.tret) := by
  refine roundTrip_of_parse rfl fun _ => ?_
  rw [parse_37 (packS_op ..), packS_fn]
  rw [packS_d, packS_a, packS_b, packS_m]; rfl

theorem Laws.RoundTrip.crr (d : BitVec 6) (n : BitVec 12) : Laws.RoundTrip.Statement (.crr d n) := by
  refine roundTrip_of_parse rfl fun _ => ?_
  rw [parse_37 (packSC_op ..), packSC_fn]
  rw [packSC_d, packSC_n12, packSC_m]; rfl

theorem Laws.RoundTrip.crw (d : BitVec 6) (n : BitVec 12) : Laws.RoundTrip.Statement (.crw d n) := by
  refine roundTrip_of_parse rfl fun _ => ?_
  rw [parse_37 (packSC_op ..), packSC_fn]
  rw [packSC_d, packSC_n12, packSC_m]; rfl

theorem Laws.RoundTrip.crx (d : BitVec 6) (n : BitVec 12) : Laws.RoundTrip.Statement (.crx d n) := by
  refine roundTrip_of_parse rfl fun _ => ?_
  rw [parse_37 (packSC_op ..), packSC_fn]
  rw [packSC_d, packSC_n12, packSC_m]; rfl

theorem Laws.RoundTrip.brk  : Laws.RoundTrip.Statement (.brk) := by
  refine roundTrip_of_parse rfl fun _ => ?_
  rw [parse_37 (packS_op ..), packS_fn]
  rw [packS_d, packS_a, packS_b, packS_m]; rfl

theorem Laws.RoundTrip.dictld (a : BitVec 6) (b : BitVec 6) : Laws.RoundTrip.Statement (.dictld a b) := by
  refine roundTrip_of_parse rfl fun _ => ?_
  rw [parse_37 (packS_op ..), packS_fn]
  rw [packS_d, packS_a, packS_b, packS_m]; rfl

theorem Laws.RoundTrip.ifence  : Laws.RoundTrip.Statement (.ifence) := by
  refine roundTrip_of_parse rfl fun _ => ?_
  rw [parse_37 (packS_op ..), packS_fn]
  rw [packS_d, packS_a, packS_b, packS_m]; rfl

theorem Laws.RoundTrip.dictionaryPair (j : BitVec 10) (i : BitVec 10) : Laws.RoundTrip.Statement (.dictionaryPair j i) := by
  refine roundTrip_of_parse rfl fun _ => ?_
  rw [parse_3f (packDP_op ..)]; simp only [packDP_idx2, packDP_mark, packDP_idx1] <;> rfl

theorem Laws.RoundTrip.splitWrite (value : Word) : Laws.RoundTrip.Statement (.splitWrite value) := by
  intro _ w h; cases h

theorem Laws.RoundTrip.splitTakesEffect (die : Nat) : Laws.RoundTrip.Statement (.splitTakesEffect die) := by
  intro _ w h; cases h

theorem Laws.RoundTrip.tinv (value : Word) : Laws.RoundTrip.Statement (.tinv value) := by
  intro _ w h; cases h

theorem Laws.RoundTrip.watchpointArm (n : BitVec 2) (value : Word) : Laws.RoundTrip.Statement (.watchpointArm n value) := by
  intro _ w h; cases h

theorem Laws.RoundTrip.watchpointDisarm (n : BitVec 2) (value : Word) : Laws.RoundTrip.Statement (.watchpointDisarm n value) := by
  intro _ w h; cases h

theorem Laws.RoundTrip.fetchLine (va : Word) : Laws.RoundTrip.Statement (.fetchLine va) := by
  intro _ w h; cases h

theorem Laws.RoundTrip.scalarAccessPerform (rank index : Nat) : Laws.RoundTrip.Statement (.scalarAccessPerform rank index) := by
  intro _ w h; cases h

theorem Laws.RoundTrip.scalarAccessReply (rank index : Nat) : Laws.RoundTrip.Statement (.scalarAccessReply rank index) := by
  intro _ w h; cases h

theorem Laws.RoundTrip.translationWalk (die : Nat) : Laws.RoundTrip.Statement (.translationWalk die) := by
  intro _ w h; cases h

theorem Laws.RoundTrip.walkReadReturn (die index : Nat) : Laws.RoundTrip.Statement (.walkReadReturn die index) := by
  intro _ w h; cases h

theorem Laws.RoundTrip.engineCommandStart (rank : Nat) (eng : EngId) (num : Nat) : Laws.RoundTrip.Statement (.engineCommandStart rank eng num) := by
  intro _ w h; cases h

theorem Laws.RoundTrip.cpeBeat (rank num : Nat) : Laws.RoundTrip.Statement (.cpeBeat rank num) := by
  intro _ w h; cases h

theorem Laws.RoundTrip.engineCommandComplete (rank : Nat) (eng : EngId) (num : Nat) : Laws.RoundTrip.Statement (.engineCommandComplete rank eng num) := by
  intro _ w h; cases h

theorem Laws.RoundTrip.engineFaultTrap (rank : Nat) : Laws.RoundTrip.Statement (.engineFaultTrap rank) := by
  intro _ w h; cases h

theorem Laws.RoundTrip.pairMeet (rank : Nat) : Laws.RoundTrip.Statement (.pairMeet rank) := by
  intro _ w h; cases h

theorem Laws.RoundTrip.pairCommit (rank : Nat) : Laws.RoundTrip.Statement (.pairCommit rank) := by
  intro _ w h; cases h

theorem Laws.RoundTrip.pairAbandon (rank : Nat) : Laws.RoundTrip.Statement (.pairAbandon rank) := by
  intro _ w h; cases h

theorem Laws.RoundTrip.pushLand (index : Nat) : Laws.RoundTrip.Statement (.pushLand index) := by
  intro _ w h; cases h

theorem Laws.RoundTrip.promoteHeadgateStep (rank num : Nat) : Laws.RoundTrip.Statement (.promoteHeadgateStep rank num) := by
  intro _ w h; cases h

theorem Laws.RoundTrip.rampStep (die : Nat) (high : Bool) : Laws.RoundTrip.Statement (.rampStep die high) := by
  intro _ w h; cases h

theorem Laws.RoundTrip.syncEngineOperation (die : Nat) : Laws.RoundTrip.Statement (.syncEngineOperation die) := by
  intro _ w h; cases h

theorem Laws.RoundTrip.waitSatisfied (rank : Nat) : Laws.RoundTrip.Statement (.waitSatisfied rank) := by
  intro _ w h; cases h

theorem Laws.RoundTrip.spinLimitExpiry (rank : Nat) : Laws.RoundTrip.Statement (.spinLimitExpiry rank) := by
  intro _ w h; cases h

theorem Laws.RoundTrip.spawnPacketAccept (index : Nat) : Laws.RoundTrip.Statement (.spawnPacketAccept index) := by
  intro _ w h; cases h

theorem Laws.RoundTrip.workDispatch (rank : Nat) : Laws.RoundTrip.Statement (.workDispatch rank) := by
  intro _ w h; cases h

theorem Laws.RoundTrip.continuationStart (rank : Nat) : Laws.RoundTrip.Statement (.continuationStart rank) := by
  intro _ w h; cases h

theorem Laws.RoundTrip.sweepAdmission (sweep : Nat) : Laws.RoundTrip.Statement (.sweepAdmission sweep) := by
  intro _ w h; cases h

theorem Laws.RoundTrip.walkerExpand (die sweep : Nat) : Laws.RoundTrip.Statement (.walkerExpand die sweep) := by
  intro _ w h; cases h

theorem Laws.RoundTrip.sweepDieReport (die sweep : Nat) : Laws.RoundTrip.Statement (.sweepDieReport die sweep) := by
  intro _ w h; cases h

theorem Laws.RoundTrip.stepRestart (rank cause : Nat) : Laws.RoundTrip.Statement (.stepRestart rank cause) := by
  intro _ w h; cases h

theorem Laws.RoundTrip.coreOutOfService (rank : Nat) : Laws.RoundTrip.Statement (.coreOutOfService rank) := by
  intro _ w h; cases h

theorem Laws.RoundTrip.groupStart (die sweep : Nat) : Laws.RoundTrip.Statement (.groupStart die sweep) := by
  intro _ w h; cases h

theorem Laws.RoundTrip.groupRestore (die index : Nat) : Laws.RoundTrip.Statement (.groupRestore die index) := by
  intro _ w h; cases h

theorem Laws.RoundTrip.groupReserve (die index : Nat) : Laws.RoundTrip.Statement (.groupReserve die index) := by
  intro _ w h; cases h

theorem Laws.RoundTrip.preemptionRequest (die : Nat) : Laws.RoundTrip.Statement (.preemptionRequest die) := by
  intro _ w h; cases h

theorem Laws.RoundTrip.forcedSave (rank : Nat) : Laws.RoundTrip.Statement (.forcedSave rank) := by
  intro _ w h; cases h

theorem Laws.RoundTrip.lineTransfer (stack line : Nat) : Laws.RoundTrip.Statement (.lineTransfer stack line) := by
  intro _ w h; cases h

theorem Laws.RoundTrip.laneTest (stack pch : Nat) : Laws.RoundTrip.Statement (.laneTest stack pch) := by
  intro _ w h; cases h

theorem Laws.RoundTrip.evacuationLineMove (stack line : Nat) : Laws.RoundTrip.Statement (.evacuationLineMove stack line) := by
  intro _ w h; cases h

theorem Laws.RoundTrip.cacheLineReplacement (stack line : Nat) : Laws.RoundTrip.Statement (.cacheLineReplacement stack line) := by
  intro _ w h; cases h

theorem Laws.RoundTrip.sensorSample (readings : List (Nat × Int)) : Laws.RoundTrip.Statement (.sensorSample readings) := by
  intro _ w h; cases h

theorem Laws.RoundTrip.epochEnd  : Laws.RoundTrip.Statement .epochEnd := by
  intro _ w h; cases h

theorem Laws.RoundTrip.marketResultsArrive  : Laws.RoundTrip.Statement .marketResultsArrive := by
  intro _ w h; cases h

theorem Laws.RoundTrip.railSwitch (die cluster : Nat) : Laws.RoundTrip.Statement (.railSwitch die cluster) := by
  intro _ w h; cases h

theorem Laws.RoundTrip.energyMeterExhausted (die cluster : Nat) : Laws.RoundTrip.Statement (.energyMeterExhausted die cluster) := by
  intro _ w h; cases h

theorem Laws.RoundTrip.launch (queue : Nat) : Laws.RoundTrip.Statement (.launch queue) := by
  intro _ w h; cases h

theorem Laws.RoundTrip.streamOpen (queue : Nat) : Laws.RoundTrip.Statement (.streamOpen queue) := by
  intro _ w h; cases h

theorem Laws.RoundTrip.frame (queue : Nat) : Laws.RoundTrip.Statement (.frame queue) := by
  intro _ w h; cases h

theorem Laws.RoundTrip.playbackReport (queue : Nat) : Laws.RoundTrip.Statement (.playbackReport queue) := by
  intro _ w h; cases h

theorem Laws.RoundTrip.streamClose (queue : Nat) : Laws.RoundTrip.Statement (.streamClose queue) := by
  intro _ w h; cases h

theorem Laws.RoundTrip.batchOpen (queue : Nat) : Laws.RoundTrip.Statement (.batchOpen queue) := by
  intro _ w h; cases h

theorem Laws.RoundTrip.batchClose (queue : Nat) : Laws.RoundTrip.Statement (.batchClose queue) := by
  intro _ w h; cases h

theorem Laws.RoundTrip.batchTick (index : Nat) : Laws.RoundTrip.Statement (.batchTick index) := by
  intro _ w h; cases h

theorem Laws.RoundTrip.killContext (queue : Nat) : Laws.RoundTrip.Statement (.killContext queue) := by
  intro _ w h; cases h

theorem Laws.RoundTrip.saveContext (queue : Nat) : Laws.RoundTrip.Statement (.saveContext queue) := by
  intro _ w h; cases h

theorem Laws.RoundTrip.restoreContext (queue : Nat) : Laws.RoundTrip.Statement (.restoreContext queue) := by
  intro _ w h; cases h

theorem Laws.RoundTrip.snapshotCopyDone (index : Nat) : Laws.RoundTrip.Statement (.snapshotCopyDone index) := by
  intro _ w h; cases h

theorem Laws.RoundTrip.blockSend (die channel : Nat) : Laws.RoundTrip.Statement (.blockSend die channel) := by
  intro _ w h; cases h

theorem Laws.RoundTrip.blockArrival (index : Nat) : Laws.RoundTrip.Statement (.blockArrival index) := by
  intro _ w h; cases h

theorem Laws.RoundTrip.blockLandingCheck (die channel : Nat) : Laws.RoundTrip.Statement (.blockLandingCheck die channel) := by
  intro _ w h; cases h

theorem Laws.RoundTrip.blockCommit (die channel : Nat) : Laws.RoundTrip.Statement (.blockCommit die channel) := by
  intro _ w h; cases h

theorem Laws.RoundTrip.committedAckArrival (index : Nat) : Laws.RoundTrip.Statement (.committedAckArrival index) := by
  intro _ w h; cases h

theorem Laws.RoundTrip.cancelProcess (die channel : Nat) : Laws.RoundTrip.Statement (.cancelProcess die channel) := by
  intro _ w h; cases h

theorem Laws.RoundTrip.cancelAckArrival (index : Nat) : Laws.RoundTrip.Statement (.cancelAckArrival index) := by
  intro _ w h; cases h

theorem Laws.RoundTrip.retransmitTimeout (die channel seq : Nat) : Laws.RoundTrip.Statement (.retransmitTimeout die channel seq) := by
  intro _ w h; cases h

theorem Laws.RoundTrip.sluiceStop (die channel : Nat) : Laws.RoundTrip.Statement (.sluiceStop die channel) := by
  intro _ w h; cases h

theorem Laws.RoundTrip.sluiceGo (die channel : Nat) : Laws.RoundTrip.Statement (.sluiceGo die channel) := by
  intro _ w h; cases h

theorem Laws.RoundTrip.packageLost (package : Nat) : Laws.RoundTrip.Statement (.packageLost package) := by
  intro _ w h; cases h

theorem Laws.RoundTrip.fabricRequestArrival (port source seq : Nat) (op : FabricOp) : Laws.RoundTrip.Statement (.fabricRequestArrival port source seq op) := by
  intro _ w h; cases h

theorem Laws.RoundTrip.fabricReplayTimeout (port seq : Nat) : Laws.RoundTrip.Statement (.fabricReplayTimeout port seq) := by
  intro _ w h; cases h

theorem Laws.RoundTrip.fabricRequestExpiry (port seq : Nat) : Laws.RoundTrip.Statement (.fabricRequestExpiry port seq) := by
  intro _ w h; cases h

theorem Laws.RoundTrip.planeFailure (plane : Nat) : Laws.RoundTrip.Statement (.planeFailure plane) := by
  intro _ w h; cases h

theorem Laws.RoundTrip.retrainFailure (dieA dieB : Nat) : Laws.RoundTrip.Statement (.retrainFailure dieA dieB) := by
  intro _ w h; cases h

theorem Laws.RoundTrip.trapRecordLand (ctx : Nat) : Laws.RoundTrip.Statement (.trapRecordLand ctx) := by
  intro _ w h; cases h

theorem Laws.RoundTrip.contextKill (ctx cause : Nat) : Laws.RoundTrip.Statement (.contextKill ctx cause) := by
  intro _ w h; cases h

theorem Laws.RoundTrip.rollback (ctx cause : Nat) : Laws.RoundTrip.Statement (.rollback ctx cause) := by
  intro _ w h; cases h

theorem Laws.RoundTrip.memrd (port ctx : Nat) (va : Word) (size : Nat) : Laws.RoundTrip.Statement (.memrd port ctx va size) := by
  intro _ w h; cases h

theorem Laws.RoundTrip.memwr (port ctx : Nat) (va : Word) (data : List Byte) : Laws.RoundTrip.Statement (.memwr port ctx va data) := by
  intro _ w h; cases h

theorem Laws.RoundTrip.hostAtomic (port ctx : Nat) (va : Word) (op : HostAtomicOp) (wide : Bool) (operand compare : Word) : Laws.RoundTrip.Statement (.hostAtomic port ctx va op wide operand compare) := by
  intro _ w h; cases h

theorem Laws.RoundTrip.qwrite (port queue : Nat) (packet : List Byte) : Laws.RoundTrip.Statement (.qwrite port queue packet) := by
  intro _ w h; cases h

theorem Laws.RoundTrip.qbind (port queue ctx : Nat) : Laws.RoundTrip.Statement (.qbind port queue ctx) := by
  intro _ w h; cases h

theorem Laws.RoundTrip.ctxset (port ctx pa : Nat) : Laws.RoundTrip.Statement (.ctxset port ctx pa) := by
  intro _ w h; cases h

theorem Laws.RoundTrip.ctxdrop (port ctx : Nat) : Laws.RoundTrip.Statement (.ctxdrop port ctx) := by
  intro _ w h; cases h

theorem Laws.RoundTrip.pooladd (port ctx die : Nat) (list : Word) (count : Nat) : Laws.RoundTrip.Statement (.pooladd port ctx die list count) := by
  intro _ w h; cases h

theorem Laws.RoundTrip.spgrant (port die : Nat) (ctx : Option Nat) (first count : Nat) : Laws.RoundTrip.Statement (.spgrant port die ctx first count) := by
  intro _ w h; cases h

theorem Laws.RoundTrip.keyload (port slot : Nat) (wrapped : BitVec 576) : Laws.RoundTrip.Statement (.keyload port slot wrapped) := by
  intro _ w h; cases h

theorem Laws.RoundTrip.keyzap (port slot : Nat) : Laws.RoundTrip.Statement (.keyzap port slot) := by
  intro _ w h; cases h

theorem Laws.RoundTrip.keySlotFlushDone (slot : Nat) : Laws.RoundTrip.Statement (.keySlotFlushDone slot) := by
  intro _ w h; cases h

theorem Laws.RoundTrip.mgmtrd (port address : Nat) : Laws.RoundTrip.Statement (.mgmtrd port address) := by
  intro _ w h; cases h

theorem Laws.RoundTrip.mgmtwr (port address : Nat) (value : Word) : Laws.RoundTrip.Statement (.mgmtwr port address value) := by
  intro _ w h; cases h

theorem Laws.RoundTrip.pbudget (port : Nat) (value : Word) : Laws.RoundTrip.Statement (.pbudget port value) := by
  intro _ w h; cases h

theorem Laws.RoundTrip.rampt (port die : Nat) (value : Word) : Laws.RoundTrip.Statement (.rampt port die value) := by
  intro _ w h; cases h

theorem Laws.RoundTrip.elogSelect (port stack : Nat) (value : Word) : Laws.RoundTrip.Statement (.elogSelect port stack value) := by
  intro _ w h; cases h

theorem Laws.RoundTrip.energySelect (port : Nat) (value : Word) : Laws.RoundTrip.Statement (.energySelect port value) := by
  intro _ w h; cases h

theorem Laws.RoundTrip.sensclr (port : Nat) (value : Word) : Laws.RoundTrip.Statement (.sensclr port value) := by
  intro _ w h; cases h

theorem Laws.RoundTrip.portLosesLink (port : Nat) : Laws.RoundTrip.Statement (.portLosesLink port) := by
  intro _ w h; cases h

theorem Laws.RoundTrip.powerOn (signatureOk : Bool) (retired : List Nat) : Laws.RoundTrip.Statement (.powerOn signatureOk retired) := by
  intro _ w h; cases h

theorem Laws.RoundTrip.resetPin  : Laws.RoundTrip.Statement .resetPin := by
  intro _ w h; cases h

theorem Laws.RoundTrip.spgrantTakesEffect (die : Nat) : Laws.RoundTrip.Statement (.spgrantTakesEffect die) := by
  intro _ w h; cases h

end Sys2Proof
end

