-- ==== Sys2Proof/Tests/Slice0.lean ====
section
/-!
SUPPORT. Tests of the model: decodings of words written out from the encodings of the spec, one ill-formed instruction for
each check of WellFormed, small results worked out by hand, and for every statement with hypotheses a state and operands
that meet them (`wit_…`).
-/
namespace Sys2Proof.Tests
open Sys2Proof Sys2Proof.Machine Sys2Proof.Claims

set_option Elab.async false

/-! ## Helpers -/

/-- The access completed. -/
def accOk {α : Type} (a : Acc α) : Bool := match a with
  | .ok _ _ => true
  | _ => false

theorem acc_ok {α : Type} {a : Acc α} (h : accOk a = true) : ∃ v s, a = .ok v s := by
  cases a with
  | ok v s => exact ⟨v, s, rfl⟩
  | wait s => cases h
  | fault c t s => cases h

/-- The access faulted. -/
def accFault {α : Type} (a : Acc α) : Bool := match a with
  | .fault _ _ _ => true
  | _ => false

theorem acc_fault {α : Type} {a : Acc α} (h : accFault a = true) : ∃ c t s, a = .fault c t s := by
  cases a with
  | ok v s => cases h
  | wait s => cases h
  | fault c t s => exact ⟨c, t, s, rfl⟩

/-- The access completed with a value and a state that pass a check. -/
def accTest {α : Type} (p : α → State → Bool) (a : Acc α) : Bool := match a with
  | .ok v s => p v s
  | _ => false

theorem acc_test {α : Type} {a : Acc α} {p : α → State → Bool} (h : accTest p a = true) : ∃ v s, a = .ok v s ∧ p v s = true := by
  cases a with
  | ok v s => exact ⟨v, s, rfl, h⟩
  | wait s => cases h
  | fault c t s => cases h

/-- The result is a success, or an error, that passes a check. -/
def excTest {ε α : Type} (q : ε → Bool) (p : α → Bool) (a : Except ε α) : Bool := match a with
  | .ok v => p v
  | .error e => q e

theorem exc_ok {ε α : Type} {a : Except ε α} {p : α → Bool} (h : excTest (fun _ => false) p a = true) : ∃ v, a = .ok v ∧ p v = true := by
  cases a with
  | ok v => exact ⟨v, rfl, h⟩
  | error e => cases h

theorem exc_error {ε α : Type} {a : Except ε α} {q : ε → Bool} (h : excTest q (fun _ => false) a = true) : ∃ e, a = .error e ∧ q e = true := by
  cases a with
  | ok v => cases h
  | error e => exact ⟨e, rfl, h⟩

theorem opt_some {α : Type} {a : Option α} {p : α → Bool} (h : a.any p = true) : ∃ v, a = some v ∧ p v = true := by
  cases a with
  | none => cases h
  | some v => exact ⟨v, rfl, h⟩

/-! ## A small package -/

/-- A context that may use every die, with its page tables at 0x10000. -/
def cx : Ctx := { root := 0x10000, dmask := BitVec.allOnes 64, pool := 0x20000#64, osize := 0x10000, tq := 0x30000#64, tvec := 0x900#64,
                  undo := 0x40000#64, undosz := 0x1000, ovf := 0x50000#64, ovfsz := 0x10000, msspill := 0x60000#64, spinl := 4 }

/-- A running unit of context 3 that has the spin limit 4. -/
def running : UnitInfo := { running := true, ctx := 3, prio := 1, uid := 9, isStep := true, sweep := 1, stepNo := 0, handedBy := 36 }

/-- Core 36 × 64 runs for context 3; g1 to g5 hold pointers to its LOCAL memory, g6 to g9 small numbers. -/
def w0 : State :=
  { cur := 2304, ctxs := [(3, cx)], host := { keySlots := [(0, 0), (1, 1)] },
    core := { pc := 0x1000#64, unit := running, ctl := { tvec := 0x900#64, spinl := 4 },
              regs := ((((((((Vector.replicate 64 0#64).set! 1 (mkPtr 2 0xFFF 0x100)).set! 2 (mkPtr 2 0xFFF 0x17FFF8)).set! 3 (mkPtr 3 0xFFF 0x40)).set! 4
                (mkPtr 1 0xFFF 0x80)).set! 5 0x2000#64).set! 6 7#64).set! 7 (BitVec.allOnes 64)).set! 8 1#64 } }

/-- A store of 8 bytes in the buffer for the own LOCAL memory. -/
def storeE : StoreEntry := { va := mkPtr 2 0xFFF 0x100, loc := .lcl 2304 0x100, bytes := zeros 8, cls := 2, seq := 0 }

/-- The buffer of the core holds one store. -/
def w1 : State := { w0 with core := { w0.core with stores := [storeE], seq := 1 } }

/-- A store that may not perform yet: an earlier command of the core still writes its place. -/
def w2 : State := { w1 with core := { w1.core with stores := [{ storeE with loc := .global (2 ^ 47) {}, performed := false }] } }

/-- A translation of the first GiB that the core holds. -/
def cachedT : TEntry := { ctx := 3, vpage := 0, bits := 30, frame := 0, leafPa := 0x12000, r := true, w := true, x := true, dirty := true, attr := { key := 1 } }
def held : State := { w0 with core := { w0.core with tcache := [cachedT] } }

/-- The sweep of the running step. -/
def sweepRec : SweepRec :=
  { kernel := 0x2000#64, nloop := 1, prio := 1, queue := 0, mode := 0, rlimit := 0, bound := [4], tile := [1], order := [0],
    dmask := 1, group := 0#64, signal := [0#64, 0#64, 0#64], lkeep := 0, sptop := 0 }
def theSweep : Sweep := { id := 1, ctx := 3, ptr := 0x3000#64, record := sweepRec, dies := [36], admitted := true, queue := 0, running := 1 }
def swept : State := { w0 with head := { sweeps := [theSweep] }, dies := [(36, { sweeps := [{ id := 1, next := 1, expanded := true }] })] }

/-- An object parked on a variable. -/
def waiter : ObjRec := { ctx := 3, ptr := 0x80000#64, version := 5, running := false, cls := 1, prio := 1, hdie := 36 }

/-- Eight bytes of GLOBAL memory. -/
def bytes8 (pa v : Nat) : List Host.Cell := (List.range 8).map fun k => (pa + k, BitVec.ofNat 8 (v / 256 ^ k))

/-- The page tables: one page of 1 GiB at its own address, readable, writable, executable, dirty, key slot 1, and none after it. -/
def pages : List Host.Cell := bytes8 0x10000 0x11001 ++ bytes8 0x11000 0x12001 ++ bytes8 0x12000 (0x7F + 2 ^ 52) ++ bytes8 0x12008 0

/-- A control word of a D-core's object. -/
def cs (st : Nat) : CState := { version := 5, hdie := 0, cause := 0, cls := 1, layout := 1, pool := false, prio := 0, state := st }

/-- The fields of an object that are read: control word, KEY and RIGHTS, OUTST and SIZE, WHW and LKEEP, NEXT. -/
def objectAt (pa : Nat) (c : CState) : List Host.Cell :=
  bytes8 pa c.pack ++ bytes8 (pa + 8) (0x55 + 2 ^ 32 * 0xF) ++ bytes8 (pa + 16) (2 ^ 32 * 0x100) ++ bytes8 (pa + 24) 0 ++ bytes8 (pa + 0x58) 0 ++ bytes8 (pa + 0x68) 0

/-- A send descriptor: 16 positions of one head of dimension 16, XID 3. -/
def sendDesc : List Host.Cell :=
  bytes8 0x32000 0x100000 ++ bytes8 0x32008 (mkPtr 4 0xFFF 0x5000).toNat ++ bytes8 0x32010 (16 * 2 ^ 32) ++ bytes8 0x32018 (1 + 16 * 2 ^ 16 + 3 * 2 ^ 32) ++
    bytes8 0x32020 1 ++ bytes8 0x32028 0 ++ bytes8 0x32030 0 ++ bytes8 0x32038 0

/-- The same package with memory: objects FREE at 0x70000, PARKED at 0x80000 and DISCARDED at 0x90000, and pointers to them
in g10, g12 and g14; g16 holds their access word, g18 an address that is not mapped; a block table of two entries at 0x71000; a send
descriptor at 0x32000, whose pointer g20 holds, for the channel of g19; trap slots 0 and 3 are empty;
the pool holds the FREE object, and a kernel header without a dictionary stands before 0x2000. -/
def wg : State := { w0 with
  mem := bytes8 0x1FF0 0x2040 ++ bytes8 0x1FF8 0x10000 ++ pages ++ bytes8 0x20000 0x70000 ++ bytes8 0x20008 0 ++ bytes8 0x30000 0 ++ bytes8 0x300C0 0 ++ sendDesc ++ objectAt 0x70000 (cs 0) ++ bytes8 0x71000 0x9FFFFFFFF ++ objectAt 0x80000 (cs 2) ++ objectAt 0x90000 (cs 4)
  tags := [(0x1FF, 1), (0x1000, 0), (0x1100, 0), (0x1200, 0), (0x2000, 1), (0x3000, 1), (0x300C, 1), (0x3200, 1), (0x3201, 1), (0x3202, 1), (0x3203, 1), (0x7000, 1), (0x7001, 1), (0x7005, 1), (0x7006, 1), (0x7100, 1), (0x8000, 1), (0x8001, 1), (0x8005, 1), (0x8006, 1), (0x9000, 1), (0x9001, 1), (0x9005, 1), (0x9006, 1)]
  core := { w0.core with
    regs := ((((((w0.core.regs.set! 10 0x70000#64).set! 12 0x80000#64).set! 14 0x90000#64).set! 16 0xFFFFFFFF00000055#64).set! 18 0x40000000#64).set! 19 (BitVec.ofNat 64 (1 + 36 * 256 + 40 * 2 ^ 16))).set! 20 0x32000#64 } }

/-- The context has an open interval that core 36 × 64 owns. -/
def opened : State := { wg with ctxs := [(3, { cx with ckptOpen := true, ckptOwner := some 2304, ckptObj := some 0x90000#64 })] }

/-- The same package with a task. -/
def wgTask : State := { wg with core := { wg.core with unit := { running with isStep := false } } }

/-- A state of a trap level, with return positions 0x2002 and 2^60. -/
def atLevel (l : BitVec 2) : State :=
  { w0 with core := { w0.core with ctl := { w0.core.ctl with tlevel := l, tret1 := 0x2002#64, tret2 := 0x1000000000000000#64 } } }

/-- The package with one stream: its pointer in g40, an operand in g41, the pair g42 and g43. -/
def streamed (t : Stream) (v : Word) : State := { wg with
  head := { streams := [t] }
  core := { wg.core with regs := (((wg.core.regs.set! 40 (mkPtr 4 0xFFF 0x5000)).set! 41 v).set! 42 v).set! 43 0x70000#64 } }

theorem test_wg_wf : Memory.wf wg.mem = true := by decide +kernel

/-- A stream: positions G 20, P 10 and C 4, version 7, snapshots every 4 positions, a block table of two entries. -/
def strm : Stream := { ctx := 3, handle := 5, g := 20, p := 10, c := 4, version := 7, ddie := 36, btab := 0x71000#64, nblk := 2, snapint := 4, nsnap := 4 }

/-- A region of GLOBAL memory from a 16-byte boundary on, and its tags. -/
def region (pa : Nat) : List Byte → List Host.Cell
  | [] => []
  | b :: l => (pa, b) :: region (pa + 1) l
def regionTags (pa n : Nat) : List (Nat × Nat) := (List.range (n / 16)).map fun k => (pa / 16 + k, 1)

/-- A group descriptor of 2 by 1 cores and two stages; a sweep record of one loop of 4 on die 36; a stream image; a batch descriptor of one
member; an object list. -/
def groupBytes : List Byte := bytesOf 8 (2 + 1 * 2 ^ 8 + 2 * 2 ^ 16) ++ zeros 8 ++ bytesOf 8 0x1000 ++ zeros 40
def recBytes : List Byte :=
  bytesOf 8 0x2000 ++ [1#8, 1#8] ++ zeros 6 ++ bytesOf 4 4 ++ zeros 20 ++ bytesOf 4 1 ++ zeros 20 ++ [1#8] ++ zeros 7 ++ bytesOf 8 (2 ^ 36) ++ zeros 176
def strmBytes : List Byte := bytesOf 4 20 ++ bytesOf 4 7 ++ bytesOf 4 10 ++ bytesOf 4 4 ++ zeros 56 ++ bytesOf 8 0x71000 ++ bytesOf 4 2 ++ bytesOf 4 0 ++ [36#8] ++ zeros 423
def batchBytes : List Byte := bytesOf 8 0xA1000 ++ bytesOf 8 0xA5000 ++ bytesOf 8 0xA3080 ++ bytesOf 2 1 ++ bytesOf 2 1 ++ bytesOf 4 1 ++ zeros 96
def memberBytes : List Byte := bytesOf 8 (mkPtr 4 0xFFF 0x5000).toNat ++ zeros 8
def listBytes : List Byte := bytesOf 8 1 ++ bytesOf 8 0x80000

theorem test_lengths : [groupBytes, recBytes, strmBytes, batchBytes, memberBytes, listBytes].map (·.length) = [64, 256, 512, 128, 16, 16] := by decide +kernel

/-- The package with these regions, the one stream, and a packet at the head of queue 2, which context 3 is bound to. -/
def wr (p : List Byte) : State := { wg with
  mem := wg.mem ++ region 0xA0000 groupBytes ++ region 0xA1000 recBytes ++ region 0xA2000 strmBytes ++ region 0xA3000 batchBytes ++ region 0xA3080 memberBytes ++
    region 0xA4000 listBytes
  tags := wg.tags ++ regionTags 0xA0000 64 ++ regionTags 0xA1000 256 ++ regionTags 0xA2000 512 ++ regionTags 0xA3000 144 ++ regionTags 0xA4000 16
  host := { wg.host with queues := [(2, 3)], packets := [(2, [p])] }
  head := { streams := [strm] } }

/-- A packet: its kind, its pointer and a number. -/
def pkt (kind : Nat) (p : Word) (n : Nat) : List Byte := bytesOf 8 kind ++ w8 p ++ bytesOf 8 n ++ zeros 40

/-- A tile descriptor (07 R130). -/
def tile (off rows cols stride fmt : Nat) (aw sc : Bool := false) (sco awo : Nat := 0) : BitVec 128 :=
  BitVec.ofNat 128 (off + rows * 2 ^ 24 + cols * 2 ^ 38 + stride * 2 ^ 52 + fmt * 2 ^ 76 + (if aw then 2 ^ 80 else 0) + (if sc then 2 ^ 81 else 0)
    + sco / 16 * 2 ^ 88 + awo / 16 * 2 ^ 108)

/-- Descriptors: FP32 4×4, INT8 4×16 twice, UINT8 4×4, UINT32 16×16 and 4×1, FP32 4×3, F8A 4×4 with scales, BF16 4×4, UINT8 4×256
with an arrival word, FP32 1×4 and 4×1, a reserved format, no rows, INT8 4×16 at offset 0, INT32 4×4, FP32 4×8. -/
def tiles : Vector (BitVec 128) 32 :=
  let l : List (BitVec 128) := [tile 0x1000 4 4 16 0, tile 0x2000 4 16 16 6, tile 0x3000 4 16 16 6, tile 0x4000 4 4 16 7, tile 0x5000 16 16 64 12,
    tile 0x6000 4 1 16 12, tile 0x7000 4 3 16 0, tile 0x8000 4 4 16 2 false true 0x8800, tile 0x9000 4 4 16 1, tile 0xA000 4 256 256 7 true false 0 0xB000,
    tile 0xC000 1 4 16 0, tile 0xD000 4 1 16 0, tile 0xE000 4 4 16 13, tile 0xF000 0 4 16 0, tile 0 4 16 16 6, tile 0x6800 4 4 16 11, tile 0x7800 4 8 32 0]
  l.zipIdx.foldl (fun v x => v.set! x.2 x.1) (Vector.replicate 32 0#128)

/-- A core of a rank with these descriptors, a weight buffer of 4096 valid bytes, and operands in g24 to g33. -/
def wt (rank : Nat) : State := { w0 with cur := rank, core := { w0.core with
  tds := tiles, ctl := { w0.core.ctl with whw := 0x1000 }, fetchBuf := [{ line := 32, bytes := zeros 4 ++ bytesOf 4 ((encode (.mzero 0#5)).getD 0#32).toNat ++ zeros 120 }],
  regs := (((((w0.core.regs.set! 24 (mkPtr 2 0xFFF 0x400)).set! 25 64#64).set! 26 (BitVec.ofNat 64 (16 + 4 * 2 ^ 16 + 4 * 2 ^ 32 + 2 ^ 48))).set! 28
    0x2000#64).set! 29 0x100#64).set! 30 0x40#64 } }

/-- The value and state of a result pass a check. -/
def okTest {ε α : Type} (p : α → State → Bool) (a : Except ε α × State) : Bool := match a.1 with
  | .ok v => p v a.2
  | .error _ => false

def noneTest {ε : Type} (p : State → Bool) (a : Option ε × State) : Bool := match a.1 with
  | none => p a.2
  | some _ => false

def someTest {α : Type} (p : α → State → Bool) (a : Option α × State) : Bool := match a.1 with
  | none => false
  | some v => p v a.2

theorem fst_ok {ε α : Type} {a : Except ε α × State} {p : α → State → Bool} (h : okTest p a = true) : ∃ v s, a = (.ok v, s) ∧ p v s = true := by
  obtain ⟨x, s⟩ := a
  cases x with
  | ok v => exact ⟨v, s, rfl, h⟩
  | error e => cases h

theorem fst_none {ε : Type} {a : Option ε × State} {p : State → Bool} (h : noneTest p a = true) : ∃ s, a = (none, s) ∧ p s = true := by
  obtain ⟨x, s⟩ := a
  cases x with
  | none => exact ⟨s, rfl, h⟩
  | some e => cases h

theorem fst_some {α : Type} {a : Option α × State} {p : α → State → Bool} (h : someTest p a = true) : ∃ v s, a = (some v, s) ∧ p v s = true := by
  obtain ⟨x, s⟩ := a
  cases x with
  | none => cases h
  | some e => exact ⟨e, s, rfl, h⟩

/-- The decoder reads this instruction. -/
def decodeTest (i : Instr) (w : W32) : Bool := match decode w with
  | .ok j => decide (j = i)
  | .error _ => false

theorem dec_ok {i : Instr} {w : W32} (h : decodeTest i w = true) : decode w = .ok i := by
  unfold decodeTest at h
  split at h
  · next e => rw [e, of_decide_eq_true h]
  · cases h

/-- The word of an instruction. -/
def wordOf (i : Instr) : W32 := (encode i).getD 0#32

/-- The outcome is a next state that passes a check. -/
def nextTest (p : State → Bool) (o : Host.Outcome State Fault Refusal) : Bool := match o with
  | .next t => p t
  | _ => false

theorem next_ok {o : Host.Outcome State Fault Refusal} {p : State → Bool} (h : nextTest p o = true) : ∃ t, o = .next t ∧ p t = true := by
  cases o with
  | next t => exact ⟨t, rfl, h⟩
  | fault f => cases h
  | refused r => cases h

/-- A variable at SYNC offset 0x40 of die 36. -/
def withVar (k : SyncKind) (l : List ObjRec) : State := { w0 with dies := [(36, { syncs := [{ ctx := 3, off := 0x40, kind := k, waiters := l }] })] }

/-- The pool gives an object. -/
def popTest (p : Word → State → Bool) (r : PopRes) : Bool := match r with
  | .ok w s => p w s
  | _ => false

theorem pop_ok {r : PopRes} {p : Word → State → Bool} (h : popTest p r = true) : ∃ w s, r = .ok w s ∧ p w s = true := by
  cases r with
  | ok w s => exact ⟨w, s, rfl, h⟩
  | none s => cases h
  | bad c w s => cases h

/-- An engine's operand resolves, and an access of it performs, with a result that passes a check. -/
def resTest (p : Loc → State → Bool) (r : RRes) : Bool := match r with
  | .ok l s => p l s
  | _ => false

theorem res_ok {r : RRes} {p : Loc → State → Bool} (h : resTest p r = true) : ∃ l s, r = .ok l s ∧ p l s = true := by
  cases r with
  | ok l s => exact ⟨l, s, rfl, h⟩
  | miss s => cases h
  | fault c s => cases h

def perfTest {α : Type} (p : α → State → Bool) (r : Perf α) : Bool := match r with
  | .ok v s => p v s
  | _ => false

theorem perf_ok {α : Type} {r : Perf α} {p : α → State → Bool} (h : perfTest p r = true) : ∃ v s, r = .ok v s ∧ p v s = true := by
  cases r with
  | ok v s => exact ⟨v, s, rfl, h⟩
  | hold => cases h
  | bad c s => cases h

def decTile (n : Nat) (t : Tile) : Decidable (TileOk n t) := by delta TileOk Apart; exact inferInstance
theorem tile_ok {n : Nat} {t : Tile} (h : (decTile n t).decide = true) : TileOk n t := @of_decide_eq_true _ (decTile n t) h

/-- A handle of this package asks for nothing. -/
theorem asks_nothing {s : State} {h : Word} (t : ((handleParts h).all fun x => x.2.2.1 == s.fab.pkg) = true) : s.handleAsks h = s := by
  unfold State.handleAsks
  split
  · next e _ => rw [e] at t; rw [if_pos (.inl (by simpa using t))]
  · rfl

theorem fst_eq {α : Type} {a : α × State} {v : α} (h : a.1 = v) : a = (v, a.2) := by subst h; rfl

/-! ## Witnesses: registers, control transfer, accesses -/

theorem wit_DivideResults : (∃ s : State, s.core.ctl.dzt = true ∧ (s.reg 6#6).toNat ≠ 0 ∧ (s.reg 6#6).toNat % 2 ^ 32 ≠ 0) ∧
    (∃ s : State, s.core.ctl.dzt = false ∧ (s.reg 0#6).toNat = 0) :=
  ⟨⟨{ w0 with core := { w0.core with ctl := { w0.core.ctl with dzt := true } } }, by decide +kernel⟩, ⟨w0, by decide +kernel⟩⟩

theorem wit_DivideByZeroTraps : ∃ s : State, s.core.ctl.dzt = true ∧ (s.reg 0#6).toNat = 0 ∧ (s.reg 0#6).toNat % 2 ^ 32 = 0 :=
  ⟨{ w0 with core := { w0.core with ctl := { w0.core.ctl with dzt := true } } }, by decide +kernel⟩

/-- A state with two values in g1 and g2. -/
def two (x y : Word) : State := { w0 with core := { w0.core with regs := ((Vector.replicate 64 0#64).set! 1 x).set! 2 y } }

theorem test_two : (two 5#64 9#64).reg 1#6 = 5#64 ∧ (two 5#64 9#64).reg 2#6 = 9#64 := by decide +kernel

/-- The offsets on both sides of both ends of a field: 2^57 in GLOBAL, 2^48 elsewhere, and 0. -/
theorem wit_PointerAddition :
    (let s := two 0x01FFFFFFFFFFFFF8#64 7#64; let o : Int := ((s.reg 1#6).toNat % 2 ^ 60 : Nat) + (s.reg 2#6).toInt
     (s.reg 1#6).toNat / 2 ^ 60 = 0 ∧ 0 ≤ o ∧ o < 2 ^ 57) ∧
    (let s := two 0x01FFFFFFFFFFFFF8#64 8#64; let o : Int := ((s.reg 1#6).toNat % 2 ^ 60 : Nat) + (s.reg 2#6).toInt
     (s.reg 1#6).toNat / 2 ^ 60 = 0 ∧ 2 ^ 57 ≤ o) ∧
    (let s := two 0x2FFFFFFFFFFFFFF8#64 7#64; let o : Int := ((s.reg 1#6).toNat % 2 ^ 48 : Nat) + (s.reg 2#6).toInt
     (s.reg 1#6).toNat / 2 ^ 60 ≠ 0 ∧ 0 ≤ o ∧ o < 2 ^ 48) ∧
    (let s := two 0x2FFFFFFFFFFFFFF8#64 8#64; let o : Int := ((s.reg 1#6).toNat % 2 ^ 48 : Nat) + (s.reg 2#6).toInt
     (s.reg 1#6).toNat / 2 ^ 60 ≠ 0 ∧ 2 ^ 48 ≤ o) ∧
    (let s := two 0x2FFF000000000000#64 (BitVec.allOnes 64); let o : Int := ((s.reg 1#6).toNat % 2 ^ 48 : Nat) + (s.reg 2#6).toInt
     (s.reg 1#6).toNat / 2 ^ 60 ≠ 0 ∧ o < 0) := by decide +kernel

/-- A branch that is taken to a target of R10, one that would leave GLOBAL, and one that is not taken. -/
theorem wit_BranchWords : Target (wordsOn w0.core.pc 3#14) ∧ ¬Target (wordsOn (0x0FFFFFFFFFFFFFFC#64) 1#14) ∧
    w0.reg 0#6 = w0.reg 0#6 ∧ w0.reg 6#6 ≠ w0.reg 0#6 := by
  unfold Target; decide +kernel

/-- JALR to a position that is no multiple of 4, and to one that is. -/
theorem wit_JumpWords : Target (BitVec.ofInt 64 ((w0.reg 5#6).toNat + (4#14 : BitVec 14).toInt)) ∧
    ¬Target (BitVec.ofInt 64 ((w0.reg 5#6).toNat + (2#14 : BitVec 14).toInt)) := by
  unfold Target; decide +kernel

theorem wit_LoopWord :
    (w0.reg 6#6 ≠ 0#64 ∧ (5#14 : BitVec 14) ≠ 0#14 ∧ w0.core.ctl.tlevel ≠ 3#2 ∧ w0.core.ir.index = none ∧
      ∀ k : Fin 4, k.val ≠ (2#2 : BitVec 2).toNat → (level w0 k).active = true → (level w0 k).stop ≠ w0.core.pc) ∧
    (w0.reg 0#6 = 0#64 ∧ Target (BitVec.ofNat 64 (w0.core.pc.toNat + 4 * ((5#14 : BitVec 14).toNat + 1)))) ∧
    (let s : State := { w0 with core := { w0.core with pc := 0x0FFFFFFFFFFFFFF8#64 } }
     s.reg 0#6 = 0#64 ∧ ¬Target (BitVec.ofNat 64 (s.core.pc.toNat + 4 * ((1#14 : BitVec 14).toNat + 1)))) := by
  unfold Target level; decide +kernel

/-- Two levels that end at the word: the outer with one pass left and the inner with `n`. -/
def looping (n : Word) : State :=
  let b : Vector LoopLevel 4 := Vector.replicate 4 {}
  let b := b.set! 0 { active := true, start := 0xF00#64, stop := 0x1000#64, remaining := 1#64 }
  let b := b.set! 2 { active := true, start := 0xF80#64, stop := 0x1000#64, remaining := n }
  { w0 with core := { w0.core with loops := w0.core.loops.set! 0 b } }

theorem wit_LoopStep :
    (let s := looping 2#64
     s.core.ctl.tlevel ≠ 3#2 ∧ s.core.ir.index = none ∧ ((level s 2).active = true ∧ (level s 2).stop = s.core.pc) ∧
      1 < (level s 2).remaining.toNat ∧
      ∀ k : Fin 4, k < 2 → (level s k).active = true ∧ (level s k).stop = s.core.pc → (level s k).remaining = 1#64) ∧
    (let s := looping 1#64
     s.core.ctl.tlevel ≠ 3#2 ∧ s.core.ir.index = none ∧
      ∀ k : Fin 4, (level s k).active = true ∧ (level s k).stop = s.core.pc → (level s k).remaining = 1#64) := by
  unfold level; decide +kernel

/-- The inner loop goes back to its start, and the outer one, which ends with this pass, stays as it is below it. -/
theorem test_loop_step : (∃ t, exec .nop (looping 2#64) = .next t ∧ t.core.pc = 0xF80#64 ∧ (level t 2).remaining = 1#64 ∧ (level t 0).active = true) ∧
    ∃ t, exec .nop (looping 1#64) = .next t ∧ t.core.pc = 0x1004#64 ∧ (level t 2).active = false ∧ (level t 0).active = false :=
  ⟨⟨_, rfl, by unfold level; decide +kernel⟩, ⟨_, rfl, by unfold level; decide +kernel⟩⟩

theorem ownLocal_w0 : OwnLocal w0 (w0.reg 1#6) 8 ∧ OwnLocal w0 (w0.reg 1#6) 16 ∧ OwnLocal w0 (w0.reg 2#6) 8 ∧
    OwnLocal w0 (mkPtr 2 0xFFF 0x17FFFF) 1 := by
  unfold OwnLocal; decide +kernel

theorem quiet_w0 : Quiet w0 := by unfold Quiet; decide +kernel

/-- A load that completes, one outside the LOCAL memory, and a base whose offset leaves its field. -/
theorem wit_LoadWords :
    (∃ ptr bs s1, ptrAdd (w0.reg 1#6) ((1#6 : BitVec 6).toInt * 8) = some ptr ∧ w0.loadBytes ptr 8 0 0 = .ok bs s1) ∧
    (∃ ptr c t s1, ptrAdd (w0.reg 2#6) ((1#6 : BitVec 6).toInt * 8) = some ptr ∧ w0.loadBytes ptr 8 0 0 = .fault c t s1) ∧
    ptrAdd (w0.reg 0#6) ((63#6 : BitVec 6).toInt * 8) = none := by
  refine ⟨?_, ?_, by decide +kernel⟩
  · obtain ⟨p, hp, h⟩ := opt_some (a := ptrAdd (w0.reg 1#6) ((1#6 : BitVec 6).toInt * 8)) (p := fun p => accOk (w0.loadBytes p 8 0 0)) (by decide +kernel)
    obtain ⟨bs, s1, e⟩ := acc_ok h
    exact ⟨p, bs, s1, hp, e⟩
  · obtain ⟨p, hp, h⟩ := opt_some (a := ptrAdd (w0.reg 2#6) ((1#6 : BitVec 6).toInt * 8)) (p := fun p => accFault (w0.loadBytes p 8 0 0)) (by decide +kernel)
    obtain ⟨c, t, s1, e⟩ := acc_fault h
    exact ⟨p, c, t, s1, hp, e⟩

theorem wit_LocalLoads : ∀ x ∈ loads, ∃ ptr, ptrAdd (w0.reg 1#6) ((2#6 : BitVec 6).toInt * x.1) = some ptr ∧ OwnLocal w0 ptr x.1 ∧ Quiet w0 := by
  intro x hx
  have : ∃ ptr, ptrAdd (w0.reg 1#6) ((2#6 : BitVec 6).toInt * x.1) = some ptr ∧ OwnLocal w0 ptr x.1 := by
    simp only [loads, List.mem_cons, List.not_mem_nil, or_false] at hx
    obtain rfl | rfl | rfl | rfl | rfl | rfl | rfl := hx
    · exact ⟨mkPtr 2 0xFFF 0x102, by unfold OwnLocal; decide +kernel⟩
    · exact ⟨mkPtr 2 0xFFF 0x104, by unfold OwnLocal; decide +kernel⟩
    · exact ⟨mkPtr 2 0xFFF 0x108, by unfold OwnLocal; decide +kernel⟩
    · exact ⟨mkPtr 2 0xFFF 0x110, by unfold OwnLocal; decide +kernel⟩
    · exact ⟨mkPtr 2 0xFFF 0x102, by unfold OwnLocal; decide +kernel⟩
    · exact ⟨mkPtr 2 0xFFF 0x104, by unfold OwnLocal; decide +kernel⟩
    · exact ⟨mkPtr 2 0xFFF 0x108, by unfold OwnLocal; decide +kernel⟩
  obtain ⟨p, h1, h2⟩ := this
  exact ⟨p, h1, h2, quiet_w0⟩

/-- A store without and one with a release. -/
theorem wit_StoreWords :
    (∃ ptr loc s2, ptrAdd (w0.reg 1#6) ((0#6 : BitVec 6).toInt * 8) = some ptr ∧ w0.locate ptr 8 8 .store = .ok loc s2 ∧
      s2.ownWatch ptr loc 8 = none ∧ s2.core.stores.length < 16) ∧
    (∃ l s0 s1 loc s2, w1.locate (w0.reg 1#6) 8 8 .store = .ok l s0 ∧ s0.release allClasses = .ok s1 ∧ s1.reg 6#6 = w1.reg 6#6 ∧
      s1.locate (w0.reg 1#6) 8 8 .store = .ok loc s2 ∧ s2.ownWatch (w0.reg 1#6) loc 8 = none ∧ s2.core.stores.length < 16) := by
  constructor
  · obtain ⟨loc, s2, e, h⟩ := acc_test (a := w0.locate (mkPtr 2 0xFFF 0x100) 8 8 .store)
      (p := fun l s => s.ownWatch (mkPtr 2 0xFFF 0x100) l 8 == none && decide (s.core.stores.length < 16)) (by decide +kernel)
    simp only [Bool.and_eq_true, beq_iff_eq, decide_eq_true_eq] at h
    exact ⟨_, loc, s2, by decide +kernel, e, h.1, h.2⟩
  · obtain ⟨l, s0, e0, h0⟩ := acc_test (a := w1.locate (w0.reg 1#6) 8 8 .store)
      (p := fun _ s => excTest (fun _ => false) (fun s1 => s1.reg 6#6 == w1.reg 6#6 && accTest (fun l s => s.ownWatch (w0.reg 1#6) l 8 == none && decide (s.core.stores.length < 16))
        (s1.locate (w0.reg 1#6) 8 8 .store)) (s.release allClasses)) (by decide +kernel)
    obtain ⟨s1, e1, h1⟩ := exc_ok h0
    simp only [Bool.and_eq_true, beq_iff_eq] at h1
    obtain ⟨loc, s2, e2, h2⟩ := acc_test h1.2
    simp only [Bool.and_eq_true, beq_iff_eq, decide_eq_true_eq] at h2
    exact ⟨l, s0, s1, loc, s2, e0, e1, h1.1, e2, h2.1, h2.2⟩

/-- A store for the own LOCAL memory, one for the SHARED memory of a P-die, one that has performed, and one behind it in its class. -/
theorem wit_StorePerforms :
    (w1.unitAt 2304).stores[0]? = some storeE ∧ (w1.unitAt 2304).mayPerform 2304 storeE = true ∧
    (∀ x ∈ w1.fab.outstanding, x.isStore 2304 storeE.seq = false) ∧ w1.cutOff 2304 storeE.loc = false ∧ w1.portAllows (w1.unitAt 2304).unit.ctx 2304 2304 = true ∧
    (let e : StoreEntry := { storeE with loc := .shared 0 0x40 }
     let s : State := ({ w0 with core := { w0.core with stores := [e] } } : State).modDie 0 fun d => { d with grants := [⟨3, 0, 1⟩] }
     (s.unitAt 2304).stores[0]? = some e ∧ (s.unitAt 2304).mayPerform 2304 e = true ∧ isPDie 0 = true ∧
       0x40 + e.bytes.length ≤ s.sharedSize (s.unitAt 2304).unit.ctx 0 ∧ (s.die 0).slices = [] ∧ s.cutOff 2304 e.loc = false) ∧
    (let e : StoreEntry := { storeE with performed := true }
     let f : StoreEntry := { storeE with seq := 1 }
     let s : State := { w0 with core := { w0.core with stores := [e, f] } }
     (s.unitAt 2304).stores[0]? = some e ∧ e.performed = true ∧ (∀ x ∈ (s.unitAt 2304).stores, x.cls = e.cls → e.seq ≤ x.seq) ∧
     (s.unitAt 2304).stores[1]? = some f ∧ ¬∀ x ∈ (s.unitAt 2304).stores, x.cls = f.cls → f.seq ≤ x.seq) := by
  decide +kernel

theorem wit_LocalAtomics : ∀ x ∈ atomics, OwnLocal w0 (w0.reg 1#6) x.2.1 ∧ Quiet w0 := by
  intro x hx
  have h : x.2.1 = 4 ∨ x.2.1 = 8 := by
    simp only [atomics, List.mem_cons, List.not_mem_nil, or_false] at hx
    rcases hx with rfl | rfl | rfl | rfl | rfl | rfl | rfl | rfl | rfl | rfl | rfl | rfl | rfl | rfl | rfl | rfl | rfl | rfl | rfl | rfl | rfl <;> simp
  refine ⟨?_, quiet_w0⟩
  rcases h with h | h <;> rw [h]
  · unfold OwnLocal; decide +kernel
  · exact ownLocal_w0.1

/-- The compared bytes are equal to g10 and g11 (all zero), and are not equal to g6 and g7. -/
theorem wit_LocalCas2 : OwnLocal w0 (w0.reg 1#6) 16 ∧ Quiet w0 ∧ w0.reg 10#6 = 0#64 ∧ w0.reg 11#6 = 0#64 ∧ w0.reg 6#6 ≠ 0#64 :=
  ⟨ownLocal_w0.2.1, quiet_w0, by decide +kernel⟩

/-- An atomic that completes after a release, one without, and one that faults. -/
theorem wit_AtomicWords (f : List Byte → Option (List Byte)) (hf : ∀ bs, f bs = none) :
    (∃ s0, w1.release allClasses = .ok s0 ∧ ∃ bs s1, s0.atomicBytes (w1.reg 1#6) 8 0 f = .ok bs s1 ∧ bs.length = 8) ∧
    (∃ bs s1, w0.atomicBytes (w0.reg 1#6) 8 0 f = .ok bs s1 ∧ bs.length = 8) ∧
    (∃ c t s1, w0.atomicBytes (w0.reg 5#6) 8 0 f = .fault c t s1 ∨ w0.atomicBytes (w0.reg 3#6) 8 0 f = .fault c t s1) := by
  obtain rfl : f = fun _ => none := funext hf
  refine ⟨?_, ?_, ?_⟩
  · obtain ⟨s0, e0, h0⟩ := exc_ok (a := w1.release allClasses) (p := fun s => accTest (fun (bs : List Byte) _ => decide (bs.length = 8)) (s.atomicBytes (w1.reg 1#6) 8 0 fun _ => none)) (by decide +kernel)
    obtain ⟨bs, s1, e1, h1⟩ := acc_test h0
    exact ⟨s0, e0, bs, s1, e1, by simpa using h1⟩
  · obtain ⟨bs, s1, e1, h1⟩ := acc_test (a := w0.atomicBytes (w0.reg 1#6) 8 0 fun _ => none) (p := fun (bs : List Byte) _ => decide (bs.length = 8)) (by decide +kernel)
    exact ⟨bs, s1, e1, by simpa using h1⟩
  · obtain ⟨c, t, s1, e⟩ := acc_fault (a := w0.atomicBytes (w0.reg 3#6) 8 0 fun _ => none) (by decide +kernel)
    exact ⟨c, t, s1, .inr e⟩

/-- The stack pointer in the middle of the LOCAL memory. -/
def stacked (off : Nat) : State := { w0 with core := { w0.core with ssp := mkPtr 2 0xFFF off } }

/-- A PUSHM of 20 registers of which 16 have entered the buffer. -/
def pushing (at_ : List (Word × Nat × Loc)) : State := { stacked 0x200 with core := { (stacked 0x200).core with stall := .pushing 16 at_ } }

/-- A range of 3 registers, one of 3 that waits for a full buffer, one of 20 in parts, its last part, and one below the LOCAL
memory's SPACE that faults. -/
theorem wit_PushMultiple :
    (∃ base locs s1, ptrAdd (stacked 0x200).core.ssp (-(8 * (3 : Int))) = some base ∧ (∀ k at_, (stacked 0x200).core.stall ≠ .pushing k at_) ∧
      (stacked 0x200).locateRange base (8 * 3) .store = .ok locs s1 ∧
      (∀ x ∈ locs, s1.ownWatch x.1 x.2.2 x.2.1 = none) ∧ s1.core.stores.length + 3 ≤ 16) ∧
    (let s : State := { stacked 0x200 with core := { (stacked 0x200).core with stores := List.replicate 16 { storeE with performed := true } } }
     ∃ base locs s1 s2, ptrAdd s.core.ssp (-(8 * (3 : Int))) = some base ∧ (∀ k at_, s.core.stall ≠ .pushing k at_) ∧
      s.locateRange base (8 * 3) .store = .ok locs s1 ∧
      (∀ x ∈ locs, s1.ownWatch x.1 x.2.2 x.2.1 = none) ∧ ¬s1.core.stores.length + 3 ≤ 16 ∧ s1.release allClasses = .ok s2) ∧
    (∃ base locs s1, ptrAdd (stacked 0x200).core.ssp (-(8 * (20 : Int))) = some base ∧ (stacked 0x200).locateRange base (8 * 20) .store = .ok locs s1 ∧
      (∀ x ∈ locs, s1.ownWatch x.1 x.2.2 x.2.1 = none) ∧ ¬s1.core.stores.length + 20 ≤ 16) ∧
    (∀ at_, (pushing at_).core.stall = .pushing 16 at_ ∧ (pushing at_).core.stores = [] ∧ 16 < 20 ∧ 20 ≤ 16 + 16) ∧
    (∃ base c t s1, ptrAdd (stacked 0x204).core.ssp (-(8 * (3 : Int))) = some base ∧ (stacked 0x204).locateRange base (8 * 3) .store = .fault c t s1) := by
  refine ⟨?_, ?_, ?_, fun _ => ⟨rfl, rfl, by decide, by decide⟩, ?_⟩
  · obtain ⟨l, s1, e, h⟩ := acc_test (a := (stacked 0x200).locateRange (mkPtr 2 0xFFF 0x1E8) (8 * 3) .store)
      (p := fun l s => l.all (fun x => s.ownWatch x.1 x.2.2 x.2.1 == none) && decide (s.core.stores.length + 3 ≤ 16)) (by decide +kernel)
    simp only [Bool.and_eq_true, List.all_eq_true, beq_iff_eq, decide_eq_true_eq] at h
    exact ⟨_, l, s1, by decide +kernel, fun _ _ => by simp [stacked, w0], e, h.1, h.2⟩
  · intro s
    obtain ⟨l, s1, e, h⟩ := acc_test (a := s.locateRange (mkPtr 2 0xFFF 0x1E8) (8 * 3) .store)
      (p := fun l s => l.all (fun x => s.ownWatch x.1 x.2.2 x.2.1 == none) && decide (¬s.core.stores.length + 3 ≤ 16) &&
        excTest (fun _ => false) (fun _ => true) (s.release allClasses)) (by decide +kernel)
    simp only [Bool.and_eq_true, List.all_eq_true, beq_iff_eq, decide_eq_true_eq] at h
    obtain ⟨s2, e2, _⟩ := exc_ok h.2
    exact ⟨_, l, s1, s2, by decide +kernel, fun _ _ => by simp [s, stacked, w0], e, h.1.1, h.1.2, e2⟩
  · obtain ⟨l, s1, e, h⟩ := acc_test (a := (stacked 0x200).locateRange (mkPtr 2 0xFFF 0x160) (8 * 20) .store)
      (p := fun l s => l.all (fun x => s.ownWatch x.1 x.2.2 x.2.1 == none) && decide (¬s.core.stores.length + 20 ≤ 16)) (by decide +kernel)
    simp only [Bool.and_eq_true, List.all_eq_true, beq_iff_eq, decide_eq_true_eq] at h
    exact ⟨_, l, s1, by decide +kernel, e, h.1, h.2⟩
  · obtain ⟨c, t, s1, e⟩ := acc_fault (a := (stacked 0x204).locateRange (mkPtr 2 0xFFF 0x1EC) (8 * 3) .store) (by decide +kernel)
    exact ⟨_, c, t, s1, by decide +kernel, e⟩

/-- LDD g9, [g1] and LDD g10, [g9]. -/
def ld9 : Instr := .ldd 9#6 1#6 2#4 0#2 0#2 0#6
def ld10 : Instr := .ldd 10#6 9#6 2#4 0#2 0#2 0#6

/-- The core fetches a word at 0x1000, and may issue it to perform later. -/
def fetching (i : Instr) (l : List Late) : State := { w0 with
  agenda := [.late 2304], core := { w0.core with ssp := mkPtr 2 0xFFF 0x200, loads := l, fetchBuf := [{ line := 32, bytes := bytesOf 4 (wordOf i).toNat ++ zeros 124 }] } }

/-- A load of g9 that has issued. -/
def lateLd (seq : Nat) : Late :=
  { ir := { word := wordOf ld9 }, pc := 0x1000#64, ssp := w0.core.ssp, sel := none, regs := w0.core.regs, tds := w0.core.tds,
    loops := w0.core.loops, loc := .lcl 2304 0x100, size := 8, cls := 2, atomic := false, acq := false, seq := seq }

/-- The unit that the agenda names, for a turn. -/
def turnOf (s : State) : State := State.focus { s.elapse with agenda := [] } 2304

/-- The word at the pc is an access that may issue late. -/
def lateTest (i : Instr) : Bool := let s := fetching i []
  let u := turnOf s
  !s.halted && s.host.boot.isNone && decide (s.agenda = [.late 2304]) && u.core.unit.running && !u.stopping u.ctx && decide (u.core.unit.fence = none) &&
  !u.core.faultDue && u.core.sel.isNone && u.core.loads.isEmpty &&
  accTest (fun w s1 => !s1.core.pairMissing w && s1.core.loads.isEmpty && !s1.core.inWord && decodeTest i w && ((s1.begin { word := w }).access i).any fun a => a.ptr.any fun p =>
    accTest (fun l s3 => !l.isEmpty && s3.core.loads.isEmpty && (!a.atomic || l.all fun y => s3.ownWatch y.1 y.2.2 y.2.1 == none)) ((s1.begin { word := w }).locateParts a p))
    (u.fetchWord u.core.wordAddr)

theorem late_ok {i : Instr} (t : lateTest i = true) : let s := fetching i []
    let u := turnOf s
    s.halted = false ∧ s.host.boot = none ∧ s.agenda = [.late 2304] ∧ u.core.unit.running = true ∧ u.stopping u.ctx = false ∧ u.core.unit.fence = none ∧
    u.core.faultDue = false ∧ u.core.sel = none ∧ u.core.loads = [] ∧ ∃ w s1, u.fetchWord u.core.wordAddr = .ok w s1 ∧ s1.core.pairMissing w = false ∧ s1.core.loads = [] ∧
      s1.core.inWord = false ∧ decode w = .ok i ∧ ∃ a, (s1.begin { word := w }).access i = some a ∧ ∃ p, a.ptr = some p ∧
        ∃ x more s3, (s1.begin { word := w }).locateParts a p = .ok (x :: more) s3 ∧ s3.core.loads = [] ∧
          (a.atomic = true → ∀ y ∈ x :: more, s3.ownWatch y.1 y.2.2 y.2.1 = none) := by
  simp only [lateTest, Bool.and_eq_true, Bool.not_eq_true', decide_eq_true_eq, Option.isNone_iff_eq_none, List.isEmpty_iff] at t
  obtain ⟨⟨⟨⟨⟨⟨⟨⟨⟨h1, h2⟩, h3⟩, h4⟩, h5⟩, h6⟩, h7⟩, h8⟩, h9⟩, h⟩ := t
  obtain ⟨w, s1, e, h⟩ := acc_test h
  simp only [Bool.and_eq_true, Bool.not_eq_true', List.isEmpty_iff] at h
  obtain ⟨⟨⟨⟨a1, a2⟩, a3⟩, a4⟩, h⟩ := h
  obtain ⟨a, ea, ha⟩ := opt_some h
  obtain ⟨p, ep, hp⟩ := opt_some ha
  obtain ⟨l, s3, e3, h3'⟩ := acc_test hp
  simp only [Bool.and_eq_true, Bool.or_eq_true, Bool.not_eq_true', List.all_eq_true, beq_iff_eq, List.isEmpty_iff] at h3'
  obtain ⟨⟨b1, b2⟩, b3⟩ := h3'
  cases l with
  | nil => simp at b1
  | cons x more => exact ⟨h1, h2, h3, h4, h5, h6, h7, h8, h9, w, s1, e, a1, a2, a3, dec_ok a4, a, ea, p, ep, x, more, s3, e3, b2,
      fun ha y hy => b3.resolve_left (by simp [ha]) y hy⟩

/-- A load, a POPM and an atomic. -/
theorem wit_LateLoads_issue : ∀ i ∈ [ld9, .popm 16#6 17#6, .amoaddD 0#2 10#6 1#6 8#6 2#4], lateTest i = true := by decide +kernel

/-- A word that reads the destination of a load still out, and a PUSHM behind one, wait. -/
def heldTest (i : Instr) : Bool := let u := turnOf (fetching i [lateLd 0])
  !u.core.loads.isEmpty && u.core.sel.isNone && accTest (fun w s1 => !s1.core.pairMissing w && !s1.core.loads.isEmpty &&
    (!s1.core.clearOf w || decide (fld w 26 6 ∈ ([0x18#6, 0x25#6, 0x30#6, 0x31#6, 0x36#6, 0x37#6] : List (BitVec 6))))) (u.fetchWord u.core.wordAddr)

theorem wit_LateLoads_waits : ∀ i ∈ [ld10, .pushm 16#6 17#6], heldTest i = true := by decide +kernel

/-- Of two loads of one class the later waits; a load that may perform. -/
theorem wit_LateLoads_performs :
    (let u := (fetching .nop [lateLd 0, lateLd 1]).unitAt 2304
     u.loads[1]? = some (lateLd 1) ∧ (lateLd 1).pend = none ∧ ∃ x ∈ u.loads, x.seq < (lateLd 1).seq ∧ x.cls = (lateLd 1).cls) ∧
    (let s := fetching .nop [lateLd 0]
     let s0 := (s.focus 2304).modCore fun u => u.backTo (lateLd 0)
     (s.unitAt 2304).loads[0]? = some (lateLd 0) ∧ (∀ x ∈ (s.unitAt 2304).loads, x = lateLd 0) ∧ decode (lateLd 0).ir.word = .ok ld9 ∧
     ∃ a, s0.access ld9 = some a ∧ ∃ v, a.run s0 = .next v ∧ v.cur = 2304 ∧ v.core.ctl.tlevel = (s.unitAt 2304).ctl.tlevel ∧
       v.core.unit = (s.unitAt 2304).unit ∧ v.core.seq = (lateLd 0).seq + 1) := by
  refine ⟨by decide +kernel, by decide +kernel, by decide +kernel, dec_ok (by decide +kernel), ?_⟩
  obtain ⟨a, ea, ha⟩ := opt_some (a := (((fetching .nop [lateLd 0]).focus 2304).modCore fun u => u.backTo (lateLd 0)).access ld9)
    (p := fun a => nextTest (fun v => decide (v.cur = 2304) && decide (v.core.ctl.tlevel = ((fetching .nop [lateLd 0]).unitAt 2304).ctl.tlevel) &&
      decide (v.core.unit = ((fetching .nop [lateLd 0]).unitAt 2304).unit) && decide (v.core.seq = (lateLd 0).seq + 1))
        (a.run (((fetching .nop [lateLd 0]).focus 2304).modCore fun u => u.backTo (lateLd 0)))) (by decide +kernel)
  obtain ⟨v, ev, hv⟩ := next_ok ha
  simp only [Bool.and_eq_true, decide_eq_true_eq] at hv
  exact ⟨a, ea, v, ev, hv.1.1.1, hv.1.1.2, hv.1.2, hv.2⟩

/-- Up to the last byte of the LOCAL memory. -/
theorem wit_PopMultiple : (4#6 : RegNo).toNat ≤ (6#6 : RegNo).toNat ∧ ptrAdd (stacked 0x17FFE8).core.ssp (8 * (3 : Int)) = some (mkPtr 2 0xFFF 0x180000) ∧
    OwnLocal (stacked 0x17FFE8) (stacked 0x17FFE8).core.ssp 8 ∧
    offOf (stacked 0x17FFE8).core.ssp + 8 * 3 ≤ localSize (stacked 0x17FFE8).cur ∧ Quiet (stacked 0x17FFE8) := by
  unfold OwnLocal Quiet; decide +kernel

/-- A release that completes. -/
theorem wit_FenceWords : ∃ s1, w1.release (classMask 4#16) = .ok s1 := by
  obtain ⟨s1, e, _⟩ := exc_ok (a := w1.release (classMask 4#16)) (p := fun _ => true) (by decide +kernel)
  exact ⟨s1, e⟩

theorem wit_FenceWords_waits : ∃ s1, w2.release (classMask 4#16) = .error s1 := by
  obtain ⟨s1, e, _⟩ := exc_error (a := w2.release (classMask 4#16)) (q := fun _ => true) (by decide +kernel)
  exact ⟨s1, e⟩

theorem wit_DescriptorWords : classOf w0.cur ≠ 2 ∧ ptrAdd (w0.reg 1#6) ((0#8 : BitVec 8).toInt * 16) = some (w0.reg 1#6) ∧
    (∃ bs s1, w0.loadBytes (w0.reg 1#6) 16 0 0 = .ok bs s1) ∧
    (∃ loc s1, w0.locate (w0.reg 1#6) 16 16 .store = .ok loc s1 ∧ s1.ownWatch (w0.reg 1#6) loc 16 = none ∧ s1.core.stores.length < 16) := by
  refine ⟨by decide +kernel, by decide +kernel, acc_ok (by decide +kernel), ?_⟩
  obtain ⟨l, s1, e, h⟩ := acc_test (a := w0.locate (w0.reg 1#6) 16 16 .store)
    (p := fun l s => s.ownWatch (w0.reg 1#6) l 16 == none && decide (s.core.stores.length < 16)) (by decide +kernel)
  simp only [Bool.and_eq_true, beq_iff_eq, decide_eq_true_eq] at h
  exact ⟨l, s1, e, h.1, h.2⟩

/-! ## Witnesses: traps, control registers, synchronisation, ends of units -/

theorem quiet_of {s : State} (h : decide (s.core.stores = [] ∧ s.core.cmdsAll = [] ∧ s.core.badLocal = []) = true) : Quiet s := by
  unfold Quiet; simpa using h

theorem wit_TrapEntry : (atLevel 0#2).core.ctl.tlevel = 0#2 ∧ ¬DataFaultHere (atLevel 0#2) 0x020 ∧ 0x020 < 2 ^ 16 ∧
    (atLevel 1#2).core.ctl.tlevel = 1#2 ∧ ¬DataFaultHere (atLevel 1#2) 0xFFFF := by
  unfold DataFaultHere; decide +kernel

theorem wit_TrapBreakNop : (w0.core.ir.index = none ∧ w0.core.ctl.tlevel = 0#2) ∧
    (let s : State := { atLevel 1#2 with core := { (atLevel 1#2).core with ir := { index := some 0x3FF#10 } } }
     s.core.ir.index = some 0x3FF#10 ∧ s.core.ctl.tlevel = 1#2) := by decide +kernel

theorem wit_TrapReturn : ((atLevel 1#2).core.ctl.tret1.toNat % 2 = 0 ∧ (atLevel 1#2).core.ctl.tret1.toNat / 2 ^ 60 = 0) ∧
    ¬((atLevel 2#2).core.ctl.tret2.toNat % 2 = 0 ∧ (atLevel 2#2).core.ctl.tret2.toNat / 2 ^ 60 = 0) ∧
    (atLevel 0#2).core.ctl.tlevel = 0#2 ∧ (atLevel 1#2).core.ctl.tlevel = 1#2 ∧ (atLevel 2#2).core.ctl.tlevel = 2#2 := by decide +kernel

theorem wit_ReadControl : crValue w0 0x000 = some 0#64 ∧ crValue w0 0x08B = some 0#64 ∧ crValue w0 0x028 = some 0x1900#64 ∧
    crValue w0 0x029 = some 3#64 ∧ crValue w0 0x08C = none ∧ crValue w0 0x00A = none ∧ crValue w0 0xFFF = none := by
  decide +kernel

/-- The largest SPINL and LKEEP pass and the next values do not; TVEC takes a multiple of 4 in GLOBAL. -/
theorem wit_WriteControl : plainCr 0x011 ∧ plainCr 0x013 ∧ plainCr 0x009 ∧ plainCr 0x05F ∧
    crAfter 2304 0x011 0x100000#64 ≠ none ∧ crAfter 2304 0x011 0x100001#64 = none ∧
    crAfter 2304 0x013 0x180000#64 ≠ none ∧ crAfter 2304 0x013 0x181000#64 = none ∧
    crAfter 2304 0x009 0x0FFFFFFFFFFFFFFC#64 ≠ none ∧ crAfter 2304 0x009 0x1000000000000000#64 = none ∧ crAfter 2304 0x009 2#64 = none := by
  unfold plainCr; decide +kernel

theorem wit_ReadOnlyControl : readOnlyCr 0x000 ∧ readOnlyCr 0x02B ∧ readOnlyCr 0x060 ∧ readOnlyCr 0x08B ∧ ¬readOnlyCr 0x08C := by
  unfold readOnlyCr; decide +kernel

/-- A dictionary of no words, one of 1024 that no translation reaches, and the sizes and addresses that are refused. -/
theorem wit_DictionaryAndFetch :
    (∃ s1, wg.release allClasses = .ok s1 ∧ ∃ ws s2, s1.readDict (dieOf s1.cur) s1.ctx (wg.reg 5#6) 0 = (.ok ws, s2)) ∧
    (∃ s1, wg.release allClasses = .ok s1 ∧ ∃ c va s2, s1.readDict (dieOf s1.cur) s1.ctx (wg.reg 18#6) 1024 = (.error (c, va), s2)) ∧
    ((wg.reg 5#6).toNat / 2 ^ 57 = 0 ∧ (wg.reg 5#6).toNat % 64 = 0) ∧ (wg.reg 1#6).toNat / 2 ^ 60 ≠ 0 ∧
    ((wg.reg 6#6).toNat / 2 ^ 60 = 0 ∧ (wg.reg 6#6).toNat % 64 ≠ 0) ∧ (wg.reg 7#6).toNat > 1024 ∧
    (∃ s1, w2.release allClasses = .error s1) := by
  refine ⟨⟨wg, State.release_of_no_stores _ _ (by decide +kernel), ?_⟩, ⟨wg, State.release_of_no_stores _ _ (by decide +kernel), ?_⟩, by decide +kernel,
    by decide +kernel, by decide +kernel, by decide +kernel, ?_⟩
  · obtain ⟨v, e, _⟩ := exc_ok (a := (wg.readDict (dieOf wg.cur) wg.ctx (wg.reg 5#6) 0).1) (p := fun _ => true) (by decide +kernel)
    exact ⟨v, _, by rw [← e]⟩
  · obtain ⟨v, e, _⟩ := exc_error (a := (wg.readDict (dieOf wg.cur) wg.ctx (wg.reg 18#6) 1024).1) (q := fun _ => true) (by decide +kernel)
    exact ⟨v.1, v.2, _, by rw [show (v.1, v.2) = v from rfl, ← e]⟩
  · obtain ⟨s1, e, _⟩ := exc_error (a := w2.release allClasses) (q := fun _ => true) (by decide +kernel)
    exact ⟨s1, e⟩

/-- The last entry of a dictionary of two, one past it, and an entry that is TRET, which R20 forbids. -/
def dicted : State := { w0 with core := { w0.core with dict := { ptr := 0x2000#64, count := 2, words := [(encode .tret).getD 0#32, (encode .nop).getD 0#32] } } }

theorem wit_DictionaryPair : (1 < dicted.core.dict.count ∧ forbiddenEntry (dicted.core.dict.words.getD 1 0#32) = false) ∧
    dicted.core.dict.count ≤ 2 ∧ forbiddenEntry (dicted.core.dict.words.getD 0 0#32) = true := by decide +kernel

theorem atVar_w0 : AtVar w0 (w0.reg 3#6) 36 0x40 := ⟨by decide +kernel, by
  obtain ⟨v, e, h⟩ := exc_ok (a := w0.syncPtr (w0.reg 3#6)) (p := fun v => v == (36, 0x40)) (by decide +kernel)
  exact ⟨by rw [e, (by simpa using h : v = (36, 0x40))], rfl⟩⟩

theorem syncPtr_congr (s t : State) (p : Word) (h1 : s.cur = t.cur)
    (h2 : (s.ctx? s.ctx).map (·.dmask) = (t.ctx? t.ctx).map (·.dmask)) (h3 : (s.ctx? s.ctx).map (·.ovfsz) = (t.ctx? t.ctx).map (·.ovfsz)) :
    s.syncPtr p = t.syncPtr p := by
  have e1 : ∀ d, s.dieAllowed s.ctx d = t.dieAllowed t.ctx d := by
    intro d; unfold State.dieAllowed
    revert h2; cases s.ctx? s.ctx <;> cases t.ctx? t.ctx <;> simp
    intro e; rw [e]
  have e2 : s.syncSize s.ctx = t.syncSize t.ctx := by
    unfold State.syncSize
    revert h3; cases s.ctx? s.ctx <;> cases t.ctx? t.ctx <;> simp
  unfold State.syncPtr State.rankFault
  simp [e1, e2, h1]

theorem atVar_with (k : SyncKind) (l : List ObjRec) : AtVar (withVar k l) ((withVar k l).reg 3#6) 36 0x40 :=
  ⟨rfl, (syncPtr_congr (withVar k l) w0 _ rfl rfl rfl).trans atVar_w0.2.1, rfl⟩

theorem release_with (k : SyncKind) (l : List ObjRec) : (withVar k l).release allClasses = .ok (withVar k l) := State.release_of_no_stores _ _ rfl

/-- One variable with many waiters fills the SRAM of the engine, and what is over the overflow area. -/
def full (l : List ObjRec) : State :=
  { w0 with dies := [(36, { syncs := [{ ctx := 3, off := 0x80, kind := .counter 0, waiters := l },
                              { ctx := 3, off := 0xC0, kind := .counter 0, waiters := l, spilled := true }] })] }

theorem full_none (l : List ObjRec) (h : 2 ^ 18 ≤ l.length) : (full l).initVar 36 3 0x40 (.counter 7) = none := by
  have h1 : (full l).syncVar 36 3 0x40 = none := rfl
  have h2 : ¬(((full l).die 36).sramUsed + 32 ≤ sramBytes) := by
    show ¬(0 + (32 + 16 * l.length) + 32 ≤ 2 ^ 22)
    omega
  have h3 : (full l).ovfRoom 3 32 = false := by
    show decide (0 + (32 + 16 * l.length) + 32 ≤ 0x10000) = false
    simp; omega
  unfold State.initVar State.syncRoom
  rw [h1]
  simp only []
  rw [if_neg h2, h3]; rfl

theorem atVar_full (l : List ObjRec) : AtVar (full l) ((full l).reg 3#6) 36 0x40 :=
  ⟨rfl, (syncPtr_congr (full l) w0 _ rfl rfl rfl).trans atVar_w0.2.1, rfl⟩

theorem wit_CounterWords :
    -- CTRINIT of a variable that is UNSET, and of one the engine has no room for
    (∃ s2, AtVar w0 (w0.reg 3#6) 36 0x40 ∧ w0.release allClasses = .ok w0 ∧ w0.syncVar 36 w0.ctx 0x40 = none ∧
      w0.initVar 36 w0.ctx 0x40 (.counter (w0.reg 6#6).toInt) = some s2) ∧
    (∃ l, AtVar (full l) ((full l).reg 3#6) 36 0x40 ∧ (full l).release allClasses = .ok (full l) ∧
      (full l).initVar 36 (full l).ctx 0x40 (.counter ((full l).reg 6#6).toInt) = none) ∧
    -- a variable with a waiter; counters that reach 0, that stay above it, and at the ends of the range
    (∀ k, ((withVar k [waiter]).syncVar 36 3 0x40).map (·.waiters) = some [waiter]) ∧
    (0 < (7 : Int) ∧ counterAfter 7 7 ≤ 0) ∧ ¬(0 < (8 : Int) ∧ counterAfter 8 7 ≤ 0) ∧ counterAfter (-2 ^ 63) 7 = -2 ^ 63 ∧
    counterAfter (2 ^ 63 - 1) (-1) = 2 ^ 63 - 1 ∧
    (∀ n, ((withVar (.counter n) []).syncVar 36 3 0x40).map (·.kind) = some (.counter n)) ∧
    -- a variable that is no counter
    (∀ n, SyncKind.barrier 2 0 0 ≠ .counter n) := by
  refine ⟨?_, ⟨List.replicate (2 ^ 18) waiter, atVar_full _, State.release_of_no_stores _ _ rfl, full_none _ (by first | (rw [List.length_replicate]; done) | (rw [List.length_replicate]; decide))⟩, fun k => rfl, by decide +kernel, by decide +kernel, by decide +kernel, by decide +kernel,
    fun n => rfl, fun n h => by cases h⟩
  obtain ⟨s2, e, _⟩ := opt_some (a := w0.initVar 36 w0.ctx 0x40 (.counter (w0.reg 6#6).toInt)) (p := fun _ => true) (by decide +kernel)
  exact ⟨s2, atVar_w0, State.release_of_no_stores _ _ rfl, rfl, e⟩

/-- A target of 7 passes; 0 and 2^64 − 1 do not; an arrival that is the last, and one that is not. -/
theorem wit_BarrierWords :
    (∃ s2, AtVar w0 (w0.reg 3#6) 36 0x40 ∧ w0.release allClasses = .ok w0 ∧ w0.initVar 36 w0.ctx 0x40 (.barrier (w0.reg 6#6).toNat 0 0) = some s2 ∧
      0 < (w0.reg 6#6).toNat ∧ (w0.reg 6#6).toNat < 2 ^ 32) ∧
    ¬(0 < (w0.reg 0#6).toNat ∧ (w0.reg 0#6).toNat < 2 ^ 32) ∧ ¬(0 < (w0.reg 7#6).toNat ∧ (w0.reg 7#6).toNat < 2 ^ 32) ∧
    (∀ n, ((withVar (.barrier 2 n 0xFFFFFFFF) [waiter]).syncVar 36 3 0x40).map (·.kind) = some (.barrier 2 n 0xFFFFFFFF) ∧
      (withVar (.barrier 2 n 0xFFFFFFFF) [waiter]).core.arrived = none) ∧ 1 + 1 = 2 ∧ 0 + 1 ≠ 2 := by
  refine ⟨?_, by decide +kernel, by decide +kernel, fun n => ⟨rfl, rfl⟩, rfl, by decide⟩
  obtain ⟨s2, e, _⟩ := opt_some (a := w0.initVar 36 w0.ctx 0x40 (.barrier (w0.reg 6#6).toNat 0 0)) (p := fun _ => true) (by decide +kernel)
  exact ⟨s2, atVar_w0, State.release_of_no_stores _ _ rfl, e, by decide +kernel, by decide +kernel⟩

/-- Counters at 0 and at 1; barriers whose phase is, and is not, that of gB; an arrival of BARARV .w at this word on that variable. -/
theorem wit_VariableWaits :
    (∀ k, AtVar (withVar k []) ((withVar k []).reg 3#6) 36 0x40 ∧ (withVar k []).syncVar 36 3 0x40 = some { ctx := 3, off := 0x40, kind := k } ∧
      (withVar k []).core.looks < (withVar k []).core.ctl.spinl ∧ (withVar k []).core.ctl.prq = false) ∧
    ((w0.reg 6#6).toNat % 2 ^ 32 = 7 ∧ (w0.reg 7#6).toNat % 2 ^ 32 ≠ 7) ∧
    (∀ ph, let x : Arrived := { pc := 0x1000#64, var := w0.reg 3#6, phase := ph }
     let s : State := { withVar (.barrier 2 0 7) [] with core := { w0.core with unit := { running with arvDone := some x } } }
     s.core.unit.arvDone = some x ∧ x.pc = s.core.pc ∧ AtVar s x.var 36 0x40 ∧
      s.syncVar 36 3 0x40 = some { ctx := 3, off := 0x40, kind := .barrier 2 0 7 } ∧ s.core.looks < s.core.ctl.spinl ∧ s.core.ctl.prq = false) :=
  ⟨fun k => ⟨atVar_with k [], rfl, by show (0 : Nat) < 4; decide, rfl⟩, by decide +kernel, fun _ => ⟨rfl, rfl,
    ⟨rfl, (syncPtr_congr _ w0 _ rfl rfl rfl).trans atVar_w0.2.1, rfl⟩, rfl, by show (0 : Nat) < 4; decide, rfl⟩⟩

theorem wit_ArriveAndWait (n : Nat) :
    AtVar (withVar (.barrier 2 n 0) []) ((withVar (.barrier 2 n 0) []).reg 3#6) 36 0x40 ∧
    (withVar (.barrier 2 n 0) []).release allClasses = .ok (withVar (.barrier 2 n 0) []) ∧ (withVar (.barrier 2 n 0) []).core.arrived = none ∧
    (withVar (.barrier 2 n 0) []).syncVar 36 3 0x40 = some { ctx := 3, off := 0x40, kind := .barrier 2 n 0 } ∧
    (withVar (.barrier 2 n 0) []).core.looks < (withVar (.barrier 2 n 0) []).core.ctl.spinl ∧ (withVar (.barrier 2 n 0) []).core.ctl.prq = false :=
  ⟨atVar_with _ _, release_with _ _, rfl, rfl, by show (0 : Nat) < 4; decide, rfl⟩

/-- A counter with 7 issued and 6 completed; gA is 8, 6 and 7. -/
def lined : State := { w0 with core := { w0.core with
  cpe := { issued := 7, queue := [{ word := 0#32, num := 7, seq := 0, idx := 0, pos := 0#64 }] },
  regs := ((w0.core.regs.set! 20 8#64).set! 21 6#64).set! 22 7#64 } }

theorem wit_TimelineWords : lined.core.unit.packets = 0 ∧ lined.core.cpe.issued < (lined.reg 20#6).toNat ∧
    (lined.reg 21#6).toNat ≤ lined.core.cpe.completed ∧ lined.core.cpe.completed < (lined.reg 22#6).toNat ∧
    (lined.reg 22#6).toNat ≤ lined.core.cpe.issued ∧ lined.core.looks < lined.core.ctl.spinl ∧ lined.core.ctl.prq = false := by decide +kernel

/-- A handle of channel 1 from die 36 to die 40 of package 0; nothing of it has been issued. -/
theorem wit_ChannelTimelineWords : w0.core.unit.packets = 0 ∧ w0.channelHandle (BitVec.ofNat 64 (1 + 36 * 256 + 40 * 2 ^ 16)) = some (36, 1, 0, 40) ∧
    w0.handleAsks (BitVec.ofNat 64 (1 + 36 * 256 + 40 * 2 ^ 16)) = w0 ∧ (w0.slTimeline 36 1 3).issued = 0 ∧ (w0.slTimeline 36 1 3).completed = 0 ∧ 0 < (w0.reg 6#6).toNat ∧ (w0.reg 0#6).toNat ≤ 0 :=
  ⟨by decide +kernel, by decide +kernel, asks_nothing (by decide +kernel), by decide +kernel⟩

/-- A store on an arrival word that a queued copy into its bytes holds back. -/
def copied : Cmd := { word := wordOf (.cpin 0#5 1#6 0#1), num := 1, seq := 0, idx := 0, pos := 0#64, d0 := tile 0x100 1 16 16 7 }
def blocked : State := { w0 with core := { w0.core with cpe := { issued := 1, queue := [copied] }, stores := [{ storeE with seq := 1 }], seq := 2 } }

/-- GEN is 0: reached by gB = 0 and 2^31 + 1, not by 7. No store is on the word, or one that may not perform yet. -/
theorem wit_ArrivalWords : w0.core.unit.packets = 0 ∧
    (∃ off, w0.arrivalPtr (w0.reg 1#6) = .ok off ∧ w0.orderUpon (.lcl w0.cur off) 16 = .ok w0 ∧ Holds w0.mem (localKey w0.cur off + 8) 4 0) ∧
    (∃ off s1, blocked.core.unit.packets = 0 ∧ blocked.arrivalPtr (blocked.reg 1#6) = .ok off ∧ blocked.orderUpon (.lcl blocked.cur off) 16 = .error s1) ∧
    ((0 + 2 ^ 32 - (w0.reg 0#6).toNat) % 2 ^ 32 < 2 ^ 31) ∧ (0 + 2 ^ 32 - 0x80000001) % 2 ^ 32 < 2 ^ 31 ∧ 2 ^ 31 ≤ (0 + 2 ^ 32 - 0x80000000) % 2 ^ 32 ∧
    2 ^ 31 ≤ (0 + 2 ^ 32 - (w0.reg 6#6).toNat) % 2 ^ 32 ∧ w0.core.looks < w0.core.ctl.spinl ∧ w0.core.ctl.prq = false := by
  refine ⟨by decide +kernel, ?_, ?_, by decide +kernel⟩
  · obtain ⟨v, e, h⟩ := exc_ok (a := w0.arrivalPtr (w0.reg 1#6)) (p := fun v => v == 0x100) (by decide +kernel)
    obtain rfl : v = 0x100 := by simpa using h
    exact ⟨_, e, State.release_of_no_stores _ _ (by decide +kernel), by unfold Holds; decide +kernel⟩
  · obtain ⟨v, e, h⟩ := exc_ok (a := blocked.arrivalPtr (blocked.reg 1#6)) (p := fun v => v == 0x100) (by decide +kernel)
    obtain rfl : v = 0x100 := by simpa using h
    obtain ⟨s1, e1, _⟩ := exc_error (a := blocked.orderUpon (.lcl blocked.cur 0x100) 16) (q := fun _ => true) (by decide +kernel)
    exact ⟨_, s1, by decide +kernel, e, e1⟩

/-- An entry R10 accepts and one it refuses; a fence value issued and one not; targets in LOCAL, SHARED and GLOBAL. -/
theorem wit_SpawnWords : lined.core.unit.packets = 0 ∧ Target (lined.reg 5#6) ∧ ¬Target (lined.reg 6#6) ∧ (lined.reg 22#6).toNat ≤ lined.core.cpe.issued ∧
    lined.core.cpe.issued < (lined.reg 20#6).toNat ∧ lined.release allClasses = .ok lined ∧
    (spaceOf (lined.reg 1#6) = 2 ∧ lined.rankFault lined.ctx lined.cur 2 (rankField (lined.reg 1#6)) (offOf (lined.reg 1#6)) 1 = none) ∧
    (let s := lined.modDie 36 fun d => { d with dgrant := some 3, split := 0 }
     spaceOf (s.reg 4#6) = 1 ∧ s.rankFault s.ctx s.cur 1 (rankField (s.reg 4#6)) (offOf (s.reg 4#6)) 1 = none) := by
  refine ⟨by decide +kernel, ?_, ?_, by decide +kernel, by decide +kernel, State.release_of_no_stores _ _ (by decide +kernel), by decide +kernel, ?_⟩
  · unfold Target; decide +kernel
  · unfold Target; decide +kernel
  · decide +kernel

/-- A target in the package, and one whose page lies in package 1, which is set up in the domain. -/
def cachedAway : TEntry := { cachedT with frame := 2 ^ 41 }
def heldAway : State := { w0 with ctxs := [(3, { cx with pmask := 3 })], fab := { w0.fab with domain := [0, 1] }, core := { w0.core with tcache := [cachedAway] } }

theorem wit_SpawnWords_global : ∀ x ∈ [(held, 0), (heldAway, 1)], ∃ pa at_ s2 s3, x.1.locate (x.1.reg 5#6) 1 1 .load = .ok (.global pa at_) s2 ∧ pkgOf pa = x.2 ∧
    s2.release allClasses = .ok s3 ∧ spaceOf (x.1.reg 5#6) = 0 ∧ Target (x.1.reg 5#6) := by
  intro x hx
  have hp : accTest (fun l s => (match l with
    | .global pa _ => pkgOf pa == x.2
    | _ => false) && s.core.stores.isEmpty) (x.1.locate (x.1.reg 5#6) 1 1 .load) = true ∧ spaceOf (x.1.reg 5#6) = 0 ∧ Target (x.1.reg 5#6) := by
    unfold Target; revert x; decide +kernel
  obtain ⟨l, s2, e, h⟩ := acc_test hp.1
  cases l with
  | global pa a =>
    simp only [Bool.and_eq_true, beq_iff_eq, List.isEmpty_iff] at h
    exact ⟨pa, a, s2, s2, e, h.1, State.release_of_no_stores _ _ h.2, hp.2⟩
  | shared d o => simp at h
  | lcl r o => simp at h
  | stream x o => simp at h

theorem wit_YieldAndEnd :
    (w0.core.unit.packets = 0 ∧ w0.rivals = false ∧ w0.core.ctl.prq = false) ∧
    (lined.dropHeld lined.cur).core.cmdsAll ≠ [] ∧
    (∃ s1, (swept.dropHeld swept.cur).core.cmdsAll = [] ∧ (swept.dropHeld swept.cur).release allClasses = .ok s1 ∧
      s1.core.unit.group = none ∧ s1.core.cpe.queue = [] ∧ s1.core.unit.isStep = true ∧ s1.core.unit.origin = none ∧
      (s1.ctx? s1.ctx).map (·.ckptOpen) = some false ∧ (∃ w, s1.sweep? s1.core.unit.sweep = some w ∧ w.record.signals 1 = [] ∧ w.stop = false) ∧
      ∃ x ∈ (s1.die s1.core.unit.handedBy).sweeps, x.id = s1.core.unit.sweep ∧ s1.core.unit.stepNo ∉ x.done) ∧
    (let s : State := { w0 with core := { w0.core with unit := { running with isStep := false } } }
     ∃ s1, (s.dropHeld s.cur).core.cmdsAll = [] ∧ (s.dropHeld s.cur).release allClasses = .ok s1 ∧ s1.core.unit.group = none ∧
      s1.core.cpe.queue = [] ∧ s1.core.unit.isStep = false ∧ s1.core.unit.origin = none ∧ (s1.ctx? s1.ctx).map (·.ckptOpen) = some false) := by
  refine ⟨by decide +kernel, by decide +kernel, ⟨_, by decide +kernel, State.release_of_no_stores _ _ (by decide +kernel), by decide +kernel, by decide +kernel,
    by decide +kernel, by decide +kernel, by decide +kernel, ⟨theSweep, by decide +kernel, by decide +kernel, by decide +kernel⟩, by decide +kernel⟩,
    ⟨_, by decide +kernel, State.release_of_no_stores _ _ (by decide +kernel), by decide +kernel, by decide +kernel, by decide +kernel, by decide +kernel, by decide +kernel⟩⟩

/-! ## Witnesses: objects, engine words, streams -/

theorem wit_CheckpointWords : opened.intervalOpen opened.ctx = true ∧ wg.intervalOpen wg.ctx = false ∧ wg.core.cmdsAll = [] ∧
    wg.release allClasses = .ok wg ∧ (∃ s2, wg.checkTarget (wg.reg 10#6) = (none, s2) ∧ (s2.ctx? s2.ctx).isSome) ∧
    (∃ c, wg.ctx? wg.ctx = some c ∧ c.ckptOpen = false) ∧
    (∃ c, opened.ctx? opened.ctx = some c ∧ c.ckptOpen = true ∧ c.ckptOwner = some opened.cur) ∧
    (∃ c, ({ opened with cur := 2305 } : State).ctx? opened.ctx = some c ∧ c.ckptOwner ≠ some 2305) := by
  refine ⟨by decide +kernel, by decide +kernel, by decide +kernel, State.release_of_no_stores _ _ (by decide +kernel), ?_, ?_, ?_, ?_⟩
  · obtain ⟨s2, e, h⟩ := fst_none (a := wg.checkTarget (wg.reg 10#6)) (p := fun s => (s.ctx? s.ctx).isSome) (by decide +kernel)
    exact ⟨s2, e, h⟩
  · obtain ⟨c, e, h⟩ := opt_some (a := wg.ctx? wg.ctx) (p := fun c => !c.ckptOpen) (by decide +kernel)
    exact ⟨c, e, by simpa using h⟩
  · obtain ⟨c, e, h⟩ := opt_some (a := opened.ctx? opened.ctx) (p := fun c => c.ckptOpen && c.ckptOwner == some opened.cur) (by decide +kernel)
    exact ⟨c, e, by simpa using h⟩
  · obtain ⟨c, e, h⟩ := opt_some (a := ({ opened with cur := 2305 } : State).ctx? opened.ctx) (p := fun c => c.ckptOwner != some 2305) (by decide +kernel)
    exact ⟨c, e, by simpa using h⟩

/-- What `Reaches` asks of a translation. -/
def reachTest (va : Nat) (v : Nat × PageAttr) (s : State) : Bool :=
  v.1 == va && s.keyId v.2.key == some 1 && decide (va % 8 = 0) && (s.partGate 36 3 v.1 8).1 && (s.stack (stackOf v.1)).bad.isEmpty && (s.stack (stackOf v.1)).lost.isEmpty &&
    (s.stack (stackOf v.1)).erased.isEmpty && (s.stack (stackOf v.1)).badLanes.isEmpty && (s.stack (stackOf v.1)).failedLines.isEmpty &&
    (s.stack (stackOf v.1)).episodes.isEmpty

/-- Objects are reached for a write. -/
theorem reaches_wg (va : Nat) (h : okTest (reachTest va) (wg.ctxXlate (dieOf wg.cur) wg.ctx va .store) = true) : Reaches wg va va 1 := by
  obtain ⟨v, s, e, h⟩ := fst_ok h
  simp only [reachTest, Bool.and_eq_true, beq_iff_eq, decide_eq_true_eq, List.isEmpty_iff] at h
  obtain ⟨⟨⟨⟨⟨⟨⟨⟨⟨h1, h2⟩, h3⟩, g⟩, h4⟩, h5⟩, h6⟩, h7⟩, h8⟩, h9⟩ := h
  obtain ⟨pa, a⟩ := v
  subst h1
  exact ⟨a, s, e, h2, h3, h3, g, h4, h5, h6, h7, h8, h9⟩

theorem wit_Reaches : Reaches wg 0x80000 0x80000 1 ∧ Reaches wg (0x80000 + 8) (0x80000 + 8) 1 :=
  ⟨reaches_wg _ (by decide +kernel), reaches_wg _ (by decide +kernel)⟩

def checkTest (st : Nat) (c : CState) (s : State) : Bool := c.state == st && c.cls == 1 && s.core.stores.isEmpty

/-- The checks of the words on objects pass on the PARKED one with the right they need, and with another state on the others. -/
theorem check_wg (p q : Word) (r : Option Nat) (k : AccKind) (st : Nat) (h : okTest (checkTest st) (wg.contCheck p q r k) = true) :
    ∃ c s1, wg.contCheck p q r k = (.ok c, s1) ∧ c.state = st ∧ c.cls = 1 ∧ s1.release allClasses = .ok s1 := by
  obtain ⟨c, s1, e, h⟩ := fst_ok h
  simp only [checkTest, Bool.and_eq_true, beq_iff_eq, List.isEmpty_iff] at h
  exact ⟨c, s1, e, h.1.1, h.1.2, State.release_of_no_stores _ _ h.2⟩

theorem wit_ObjectWords :
    wg.core.unit.packets = 0 ∧ (wg.reg 17#6).toNat < 2 ^ 36 ∧
    (∃ c s1, wg.contCheck (wg.reg 12#6) (wg.reg 16#6) (some 0) .atomic = (.ok c, s1) ∧ c.state = 2 ∧ c.cls = 1 ∧ s1.release allClasses = .ok s1) ∧
    (∃ c s1, wg.contCheck (wg.reg 14#6) (wg.reg 16#6) (some 0) .atomic = (.ok c, s1) ∧ c.state = 4 ∧ c.cls = 1 ∧ s1.release allClasses = .ok s1) ∧
    (∃ c s1, wg.contCheck (wg.reg 12#6) (wg.reg 16#6) (some 2) .atomic = (.ok c, s1) ∧ c.state = 2 ∧ c.cls = 1 ∧ s1.release allClasses = .ok s1) ∧
    (∃ c s1, wg.contCheck (wg.reg 14#6) (wg.reg 16#6) (some 2) .atomic = (.ok c, s1) ∧ c.state = 4 ∧ c.cls = 1 ∧ s1.release allClasses = .ok s1) ∧
    (∃ c s1, wg.contCheck (wg.reg 10#6) (wg.reg 16#6) none .atomic = (.ok c, s1) ∧ c.state = 0 ∧ c.cls = 1 ∧ s1.release allClasses = .ok s1) ∧
    (∃ c s1, wg.contCheck (wg.reg 12#6) (wg.reg 16#6) none .atomic = (.ok c, s1) ∧ c.state = 2 ∧ c.cls = 1 ∧ s1.release allClasses = .ok s1) :=
  ⟨by decide +kernel, by decide +kernel, check_wg _ _ _ _ _ (by decide +kernel), check_wg _ _ _ _ _ (by decide +kernel), check_wg _ _ _ _ _ (by decide +kernel),
    check_wg _ _ _ _ _ (by decide +kernel), check_wg _ _ _ _ _ (by decide +kernel), check_wg _ _ _ _ _ (by decide +kernel)⟩

def nowTest (p : Word) (c : CState) (s1 : State) : Bool :=
  let s2 := s1.dropHeld s1.cur
  c.state == 2 && c.cls == classOf s1.cur && s2.core.cmdsAll.isEmpty && s2.core.stores.isEmpty && s2.core.cpe.queue.isEmpty && s2.core.heldFor == none && !s2.core.unit.isStep &&
    s2.core.unit.group == none && (s2.parkedInfo s2.ctx p).bind (·.bound) == none

/-- RESUME .now from a task: a D-core's object, and nothing bound. -/
theorem wit_ObjectWords_now (p q : Word) (hp : p = wgTask.reg 12#6) (hq : q = wgTask.reg 16#6) : ∃ c s1 s2, wgTask.contCheck p q (some 0) .atomic = (.ok c, s1) ∧
    c.state = 2 ∧ c.cls = classOf s1.cur ∧
    (s1.dropHeld s1.cur).core.cmdsAll = [] ∧ (s1.dropHeld s1.cur).release allClasses = .ok s2 ∧ s2.core.cpe.queue = [] ∧ s2.core.heldFor = none ∧
    s2.core.unit.isStep = false ∧ s2.core.unit.group = none ∧ (s2.parkedInfo s2.ctx p).bind (·.bound) = none := by
  have h : okTest (nowTest p) (wgTask.contCheck p q (some 0) .atomic) = true := by rw [hp, hq]; decide +kernel
  obtain ⟨c, s1, e, h⟩ := fst_ok h
  simp only [nowTest, Bool.and_eq_true, beq_iff_eq, List.isEmpty_iff, Bool.not_eq_true'] at h
  obtain ⟨⟨⟨⟨⟨⟨⟨⟨h1, h2⟩, h3⟩, h4⟩, h5⟩, h6⟩, h7⟩, h8⟩, h9⟩ := h
  exact ⟨c, s1, _, e, h1, h2, h3, State.release_of_no_stores _ _ h4, h5, h6, h7, h8, h9⟩

def queryTest (p : Word) (_ : CState) (s1 : State) : Bool := s1.core.stores.isEmpty && okTest (fun _ _ => true) (s1.cstate (dieOf s1.cur) s1.ctx p)

theorem wit_ObjectWords_query (p q : Word) (hp : p = wg.reg 12#6) (hq : q = wg.reg 16#6) : ∃ c s1 s2 s3 c', wg.contCheck p q (some 3) .load = (.ok c, s1) ∧
    s1.orderBefore 0 none = .ok s2 ∧ s2.cstate (dieOf s2.cur) s2.ctx p = (.ok c', s3) := by
  have h : okTest (queryTest p) (wg.contCheck p q (some 3) .load) = true := by rw [hp, hq]; decide +kernel
  obtain ⟨c, s1, e, h⟩ := fst_ok h
  simp only [queryTest, Bool.and_eq_true, List.isEmpty_iff] at h
  obtain ⟨c', s3, e3, _⟩ := fst_ok h.2
  exact ⟨c, s1, s1, s3, c', e, State.orderBefore_of_no_stores _ _ _ h.1, e3⟩

def sizeAt (s1 : State) (p : Word) : Nat := max 256 (s1.objField (dieOf s1.cur) s1.ctx p 0x14)
def copyTest3 (p d : Word) (s1 : State) (st : Nat) (dc : CState) (s3 : State) : Bool :=
  dc.state == st && s3.outst (dieOf s1.cur) s3.ctx p == 0 && s3.outst (dieOf s1.cur) s3.ctx d == 0
def copyTest2 (p d : Word) (st : Nat) (s1 s2 : State) : Bool := okTest (copyTest3 p d s1 st) (s2.cstate (dieOf s1.cur) s2.ctx d)
def copyTest (p d : Word) (st : Nat) (c : CState) (s1 : State) : Bool :=
  c.state == 2 && noneTest (copyTest2 p d st s1) (s1.checkAccess (dieOf s1.cur) s1.ctx d (sizeAt s1 p) .atomic)

theorem copies (p q d : Word) (st : Nat) (h : okTest (copyTest p d st) (wg.contCheck p q (some 1) .load) = true) :
    ∃ c s1 s2 s3 dc, wg.contCheck p q (some 1) .load = (.ok c, s1) ∧ c.state = 2 ∧
      s1.checkAccess (dieOf s1.cur) s1.ctx d (max 256 (s1.objField (dieOf s1.cur) s1.ctx p 0x14)) .atomic = (none, s2) ∧
      s2.cstate (dieOf s1.cur) s2.ctx d = (.ok dc, s3) ∧ dc.state = st ∧ s3.outst (dieOf s1.cur) s3.ctx p = 0 ∧
      s3.outst (dieOf s1.cur) s3.ctx d = 0 := by
  obtain ⟨c, s1, e1, h1⟩ := fst_ok h
  simp only [copyTest, Bool.and_eq_true, beq_iff_eq] at h1
  obtain ⟨s2, e2, h2⟩ := fst_none h1.2
  obtain ⟨dc, s3, e3, h3⟩ := fst_ok h2
  simp only [copyTest3, Bool.and_eq_true, beq_iff_eq] at h3
  exact ⟨c, s1, s2, s3, dc, e1, h1.1, e2, e3, h3.1.1, h3.1.2, h3.2⟩

/-- CCOPY to an object that is FREE, and to one that is PARKED: `copies` applies to both. -/
theorem wit_ObjectWords_copy : (∀ v, wg.core.stall ≠ .copying v) ∧ (wg.reg 10#6).toNat % 256 = 0 ∧ okTest (copyTest (wg.reg 12#6) (wg.reg 10#6) 0) (wg.contCheck (wg.reg 12#6) (wg.reg 16#6) (some 1) .load) = true ∧
    okTest (copyTest (wg.reg 12#6) (wg.reg 12#6) 2) (wg.contCheck (wg.reg 12#6) (wg.reg 16#6) (some 1) .load) = true :=
  ⟨fun _ h => (by cases h), by decide +kernel, by decide +kernel, by decide +kernel⟩

/-- The second turn of a CCOPY whose source had version v at its start. -/
def copying (v : Nat) : State := { wg with core := { wg.core with stall := .copying v } }
def endTest2 (p : Word) (v : Nat) (sc : CState) (s3 : State) : Bool :=
  sc.version == v && dieOf s3.cur == 36 && okTest (fun bs _ => decide (256 ≤ bs.length)) (s3.ctxRead 36 s3.ctx p.toNat (max 256 (s3.objField 36 s3.ctx p 0x14)))
def endTest (p : Word) (v : Nat) (_ : CState) (s2 : State) : Bool := okTest (endTest2 p v) (s2.cstate 36 s2.ctx p)

/-- The source still has version 5, with which the copy began, or the copy began with version 4. -/
theorem wit_ObjectWords_copied : (5 : Nat) ≠ 4 ∧
    ∀ v ∈ [4, 5], (copying v).core.stall = .copying v ∧ okTest (endTest ((copying v).reg 12#6) 5) ((copying v).cstate 36 3 ((copying v).reg 10#6)) = true :=
  ⟨by decide, by decide +kernel⟩

def suspendTest (p : RegNo) (s1 : State) : Bool :=
  s1.core.unit.origin.isNone && s1.core.cpe.queue.isEmpty && excTest (fun _ => false) (fun _ => true) (s1.done.cstate (dieOf s1.cur) s1.ctx (s1.reg p)).1

theorem wit_SuspendWord : 2 ^ 36 ≤ (wg.reg 16#6).toNat ∧ (wg.reg 6#6).toNat < 2 ^ 36 ∧ (wg.core.stores = [] ∧ wg.core.cmdsAll = [] ∧ wg.core.badLocal = []) ∧
    wg.core.half = none ∧ wg.core.faultDue = false ∧
    ∃ s1 c, wg.checkTarget (wg.reg 10#6) = (none, s1) ∧ s1.core.unit.origin = none ∧ s1.core.cpe.queue = [] ∧
      (s1.done.cstate (dieOf s1.cur) s1.ctx (s1.reg 10#6)).1 = .ok c := by
  refine ⟨by decide +kernel, by decide +kernel, by decide +kernel, by decide +kernel, by decide +kernel, ?_⟩
  obtain ⟨s1, e, h⟩ := fst_none (a := wg.checkTarget (wg.reg 10#6)) (p := suspendTest 10#6) (by decide +kernel)
  simp only [suspendTest, Bool.and_eq_true, Option.isNone_iff_eq_none, List.isEmpty_iff] at h
  obtain ⟨c, ec, _⟩ := exc_ok h.2
  exact ⟨s1, c, e, h.1.1, h.1.2, ec⟩

/-- Tiles without scales whose rows lie apart share no byte. -/
theorem apart_rows {x y : Tile} (hx : x.sc = false) (hy : y.sc = false) (h : Apart x.off x.span y.off y.span) : ∀ n, ¬(TileByte x n ∧ TileByte y n) := by
  have key : ∀ {t : Tile} {n : Nat}, t.sc = false → TileByte t n → t.off ≤ n ∧ n < t.off + t.span := by
    intro t n ht hb
    rcases hb with ⟨r, hr, h1, h2⟩ | ⟨h1, _⟩
    · have := Nat.mul_le_mul_right t.stride (show r ≤ t.rows - 1 by omega)
      exact ⟨by omega, by unfold Tile.span; omega⟩
    · rw [ht] at h1; cases h1
  intro n ⟨h1, h2⟩
  have := key hx h1; have := key hy h2
  unfold Apart at h; omega

/-! ### Engine words: descriptors of `tiles` by number -/

def decClass (k : Nat) (l : List Nat) : Decidable (ClassOk k l) := by dsimp only [ClassOk, FloatFmt, IntFmt]; exact inferInstance
theorem class_ok {k : Nat} {l : List Nat} (h : (decClass k l).decide = true) : ClassOk k l := @of_decide_eq_true _ (decClass k l) h

/-- The checks of a word with modes, but for those of the single tiles. -/
theorem modes_ok {s : State} {d a : TileNo} {b : RegNo} {m : BitVec 2} {fmts : Nat → Nat → List Nat → Prop}
    (hd : Ordinary s d) (ha : Ordinary s a) (hb : m ≠ 3#2 → Ordinary s (BitVec.ofNat 5 b.toNat))
    (hs : (let td := tileAt s d; let ta := tileAt s a; let tb := tileAt s (BitVec.ofNat 5 b.toNat)
      td.sc = false ∧ ta.sc = false ∧ (ta.rows = td.rows ∧ ta.cols = td.cols) ∧ (m ≠ 3#2 → tb.sc = false) ∧ (m = 0#2 → tb.rows = td.rows ∧ tb.cols = td.cols) ∧
      (m = 1#2 → tb.rows = 1 ∧ tb.cols = td.cols) ∧ (m = 2#2 → tb.rows = td.rows ∧ tb.cols = 1)))
    (hf : fmts (tileAt s d).fmt (tileAt s a).fmt (if m = 3#2 then [] else [(tileAt s (BitVec.ofNat 5 b.toNat)).fmt])) : ModesOk s d a b m fmts :=
  ⟨hd, ha, hs.1, hs.2.1, hs.2.2.1, fun h => ⟨hb h, hs.2.2.2.1 h⟩, hs.2.2.2.2.1, hs.2.2.2.2.2.1, hs.2.2.2.2.2.2, hf⟩

theorem room_wt : Room (wt 2304) .cpe ∧ Room (wt 2304) .mat ∧ Room (wt 2304) .vec ∧ Room (wt 0) .mat := by unfold Room; decide +kernel

theorem ordinary_wt : Ordinary (wt 2304) 0#5 ∧ Ordinary (wt 2304) 1#5 ∧ Ordinary (wt 2304) 2#5 ∧ Ordinary (wt 2304) 9#5 :=
  ⟨tile_ok (by decide +kernel), tile_ok (by decide +kernel), tile_ok (by decide +kernel), tile_ok (by decide +kernel)⟩

/-- g24 names LOCAL bytes, the pair of g28 a GLOBAL address and a stride of 256, the pair of g24 LOCAL bytes and 64. -/
theorem wit_CopyIssue :
    let s := wt 2304
    Room s .cpe ∧ Ordinary s 0#5 ∧ MemOk (s.reg 24#6) (tileAt s 0#5).imageSize ∧
    ((tileAt s 0#5).sc = false ∧ MemOk (s.reg (pairLo 14#5)) (((tileAt s 0#5).rows - 1) * (s.reg (pairHi 14#5)).toNat + (tileAt s 0#5).rb) ∧
      (s.reg (pairHi 14#5)).toNat % 16 = 0 ∧ (s.reg (pairHi 14#5)).toNat < 2 ^ 32) ∧
    (Ordinary s 2#5 ∧ SameSize (tileAt s 1#5) (tileAt s 2#5) ∧ (tileAt s 1#5).fmt = (tileAt s 2#5).fmt ∧ (tileAt s 1#5).sc = (tileAt s 2#5).sc) ∧
    ((tileAt s 0#5).rows % 2 ^ (2#3 : BitVec 3).toNat = 0 ∧ MemOk (s.reg (pairLo 14#5)) 0 ∧ (s.reg (pairHi 14#5)).toNat < 2 ^ 48) ∧
    (MemOk (s.reg (pairLo 12#5)) (4 * ((s.reg (pairHi 12#5)).toNat % 128)) ∧ (s.reg (pairHi 12#5)).toNat % 128 ≤ 64 ∧
      (s.reg (pairHi 12#5)).toNat / 128 % 2 ^ 25 = 0) ∧
    MemOk (s.reg (BitVec.ofNat 6 (4 * (6#4 : BitVec 4).toNat))) 48 ∧
    (Ordinary s 9#5 ∧ (tileAt s 9#5).rb = 256 ∧ (tileAt s 9#5).rows ≤ 256 ∧ (tileAt s 9#5).aw = true ∧ spaceOf (s.reg (pairLo 14#5)) = 0) ∧
    (s.reg 6#6).toNat < 2 ^ 9 := by
  refine ⟨room_wt.1, ordinary_wt.1, ?_, ?_, ⟨ordinary_wt.2.2.1, ?_⟩, ?_, ?_, ?_, ⟨ordinary_wt.2.2.2, ?_⟩, by decide +kernel⟩
  all_goals (first | (unfold MemOk; decide +kernel) | (unfold SameSize; decide +kernel) | decide +kernel)

/-- The word after the copy is MZERO, in the fetch buffer. -/
theorem wit_AttachedIssue :
    let s := wt 2304
    classOf s.cur ≠ 2 ∧ s.core.ir.index = none ∧ NoLoopEnd s ∧ ∃ w s1 i, s.fetchWord (s.core.pc + 4#64) = .ok w s1 ∧ w.toNat / 2 ^ 26 = 0x33 ∧
      decode w = .ok i ∧ wrongClass s1.cur i = false ∧ s1.matTiles i = none ∧ s1.matFault i = none ∧ s1.core.cpe.queue.length < 16 ∧ s1.core.mat.queue.length < 16 := by
  intro s
  refine ⟨by decide +kernel, by decide +kernel, by unfold NoLoopEnd; decide +kernel, ?_⟩
  obtain ⟨w, s1, e, h⟩ := acc_test (a := s.fetchWord (s.core.pc + 4#64)) (p := fun w s1 => decide (w.toNat / 2 ^ 26 = 0x33) && decide (s1.core.cpe.queue.length < 16) &&
    decide (s1.core.mat.queue.length < 16) && match decode w with
      | .ok i => !wrongClass s1.cur i && (s1.matTiles i).isNone && (s1.matFault i).isNone
      | .error _ => false) (by decide +kernel)
  simp only [Bool.and_eq_true, decide_eq_true_eq] at h
  obtain ⟨⟨⟨h1, h2⟩, h3⟩, h4⟩ := h
  revert h4
  cases hd : decode w with
  | error x => simp
  | ok i =>
    simp only [Bool.and_eq_true, Bool.not_eq_true', Option.isNone_iff_eq_none]
    exact fun h => ⟨w, s1, i, e, h1, hd, h.1.1, h.1.2, h.2, h2, h3⟩

theorem compute_dl : ComputeOk (wt 2304) 0#5 (some 1#5) 2#5 ((wt 2304).reg 26#6) false := by
  refine ⟨tile_ok (by decide +kernel), by decide +kernel, by decide +kernel, by decide +kernel, by decide +kernel, by decide +kernel, by decide +kernel, by decide +kernel,
    by decide +kernel, fun x hx => ?_, by decide +kernel, by decide +kernel, by decide +kernel, ?_, ?_⟩
  · cases hx; exact ⟨tile_ok (by decide +kernel), by decide +kernel, by decide +kernel, by decide +kernel, by decide +kernel, apart_rows (by decide +kernel) (by decide +kernel) (by unfold Apart; decide +kernel)⟩
  · exact fun _ => ⟨tile_ok (by decide +kernel), by decide +kernel, apart_rows (by decide +kernel) (by decide +kernel) (by unfold Apart; decide +kernel)⟩
  · exact fun h => by cases h

theorem compute_dw : ComputeOk (wt 2304) 0#5 (some 1#5) 14#5 ((wt 2304).reg 26#6) true := by
  refine ⟨tile_ok (by decide +kernel), by decide +kernel, by decide +kernel, by decide +kernel, by decide +kernel, by decide +kernel, by decide +kernel, by decide +kernel,
    by decide +kernel, fun x hx => ?_, by decide +kernel, by decide +kernel, by decide +kernel, ?_, ?_⟩
  · cases hx; exact ⟨tile_ok (by decide +kernel), by decide +kernel, by decide +kernel, by decide +kernel, by decide +kernel, apart_rows (by decide +kernel) (by decide +kernel) (by unfold Apart; decide +kernel)⟩
  · exact fun h => by cases h
  · exact fun _ => ⟨tile_ok (by decide +kernel), by decide +kernel, by decide +kernel, by decide +kernel, by decide +kernel, by decide +kernel⟩

theorem compute_pw : ComputeOk (wt 0) 0#5 (some 1#5) 14#5 ((wt 0).reg 26#6) true := by
  refine ⟨tile_ok (by decide +kernel), by decide +kernel, by decide +kernel, by decide +kernel, by decide +kernel, by decide +kernel, by decide +kernel, by decide +kernel,
    by decide +kernel, fun x hx => ?_, by decide +kernel, by decide +kernel, by decide +kernel, ?_, ?_⟩
  · cases hx; exact ⟨tile_ok (by decide +kernel), by decide +kernel, by decide +kernel, by decide +kernel, by decide +kernel, apart_rows (by decide +kernel) (by decide +kernel) (by unfold Apart; decide +kernel)⟩
  · exact fun h => by cases h
  · exact fun _ => ⟨tile_ok (by decide +kernel), by decide +kernel, by decide +kernel, by decide +kernel, by decide +kernel, by decide +kernel⟩

theorem compute_pwn : ComputeOk (wt 0) 0#5 none 14#5 ((wt 0).reg 26#6) true := by
  refine ⟨tile_ok (by decide +kernel), by decide +kernel, by decide +kernel, by decide +kernel, by decide +kernel, by decide +kernel, by decide +kernel, by decide +kernel,
    by decide +kernel, fun x hx => ?_, by decide +kernel, by decide +kernel, by decide +kernel, ?_, ?_⟩
  · cases hx
  · exact fun h => by cases h
  · exact fun _ => ⟨tile_ok (by decide +kernel), by decide +kernel, by decide +kernel, by decide +kernel, by decide +kernel, by decide +kernel⟩

theorem wit_MatrixIssue :
    Room (wt 2304) .mat ∧ Room (wt 0) .mat ∧ classOf (wt 2304).cur = 1 ∧ classOf (wt 0).cur = 0 ∧
    ComputeOk (wt 2304) 0#5 (some 1#5) 2#5 ((wt 2304).reg 26#6) false ∧ ComputeOk (wt 2304) 0#5 (some 1#5) 14#5 ((wt 2304).reg 26#6) true ∧
    ComputeOk (wt 0) 0#5 (some 1#5) 14#5 ((wt 0).reg 26#6) true ∧ ComputeOk (wt 0) 0#5 none 14#5 ((wt 0).reg 26#6) true ∧
    (TileOk (wbSize 2304) (tileAt (wt 2304) 14#5) ∧ (tileAt (wt 2304) 14#5).aw = false ∧ SameSize (tileAt (wt 2304) 14#5) (tileAt (wt 2304) 1#5) ∧
      (tileAt (wt 2304) 14#5).fmt = (tileAt (wt 2304) 1#5).fmt ∧ (tileAt (wt 2304) 14#5).sc = (tileAt (wt 2304) 1#5).sc) ∧
    ((tileAt (wt 2304) 4#5).fmt = 12 ∧ (tileAt (wt 2304) 4#5).sc = false ∧ (tileAt (wt 2304) 4#5).rows * (tileAt (wt 2304) 4#5).cols = 256) ∧
    ((tileAt (wt 2304) 0#5).fmt = 0 ∧ (tileAt (wt 2304) 0#5).sc = false) := by
  refine ⟨room_wt.2.1, room_wt.2.2.2, by decide +kernel, by decide +kernel, compute_dl, compute_dw, compute_pw, compute_pwn, ⟨tile_ok (by decide +kernel), ?_⟩,
    by decide +kernel, by decide +kernel⟩
  unfold SameSize; decide +kernel

/-- A word of each class with the second operand in each of the four modes. -/
theorem wit_ElementwiseIssue :
    let s := wt 2304
    Room s .vec ∧
    ModesOk s 0#5 8#5 0#6 0#2 (fun fd fa fb => ClassOk 0 ([fd, fa] ++ fb)) ∧ ModesOk s 0#5 8#5 10#6 1#2 (fun fd fa fb => ClassOk 2 ([fd, fa] ++ fb)) ∧
    ModesOk s 0#5 8#5 11#6 2#2 (fun fd fa fb => ClassOk 0 ([fd, fa] ++ fb)) ∧ ModesOk s 15#5 15#5 6#6 3#2 (fun fd fa fb => ClassOk 1 ([fd, fa] ++ fb)) ∧
    ModesOk s 3#5 3#5 3#6 0#2 (fun fd fa fb => ClassOk 3 ([fd, fa] ++ fb)) ∧
    ModesOk s 3#5 0#5 8#6 0#2 (fun fd fa fb => fd = 7 ∧ ClassOk 2 (fa :: fb)) ∧
    ModesOk s 0#5 3#5 0#6 0#2 (fun fd fa fb => fa = 7 ∧ fd ≠ 4 ∧ fd ≠ 5 ∧ fd ≠ 8 ∧ fd ≠ 9 ∧ ∀ f ∈ fb, f = fd) ∧
    (SameSize (tileAt s 8#5) (tileAt s 0#5) ∧ ClassOk 0 [(tileAt s 0#5).fmt, (tileAt s 8#5).fmt] ∧ ClassOk 2 [(tileAt s 15#5).fmt, (tileAt s 15#5).fmt]) ∧
    FloatFmt (tileAt s 0#5).fmt ∧ FloatFmt (tileAt s 8#5).fmt := by
  refine ⟨room_wt.2.2.1,
    modes_ok (tile_ok (by decide +kernel)) (tile_ok (by decide +kernel)) (fun _ => tile_ok (by decide +kernel)) (by decide +kernel) (class_ok (by decide +kernel)),
    modes_ok (tile_ok (by decide +kernel)) (tile_ok (by decide +kernel)) (fun _ => tile_ok (by decide +kernel)) (by decide +kernel) (class_ok (by decide +kernel)),
    modes_ok (tile_ok (by decide +kernel)) (tile_ok (by decide +kernel)) (fun _ => tile_ok (by decide +kernel)) (by decide +kernel) (class_ok (by decide +kernel)),
    modes_ok (tile_ok (by decide +kernel)) (tile_ok (by decide +kernel)) (fun h => absurd rfl h) (by decide +kernel) (class_ok (by decide +kernel)),
    modes_ok (tile_ok (by decide +kernel)) (tile_ok (by decide +kernel)) (fun _ => tile_ok (by decide +kernel)) (by decide +kernel) (class_ok (by decide +kernel)),
    modes_ok (tile_ok (by decide +kernel)) (tile_ok (by decide +kernel)) (fun _ => tile_ok (by decide +kernel)) (by decide +kernel) (⟨by decide +kernel, class_ok (by decide +kernel)⟩),
    modes_ok (tile_ok (by decide +kernel)) (tile_ok (by decide +kernel)) (fun _ => tile_ok (by decide +kernel)) (by decide +kernel) (by decide +kernel), ⟨by unfold SameSize; decide +kernel, class_ok (by decide +kernel), class_ok (by decide +kernel)⟩, .inl rfl, .inr rfl⟩

theorem wit_VectorIssue :
    let s := wt 2304
    let t := fun (n : Nat) => tileAt s (BitVec.ofNat 5 n)
    Room s .vec ∧ ((t 0).sc = false ∧ (t 0).fmt = 0) ∧ (SameSize (t 0) (t 8) ∧ (t 7).sc = true ∧ (t 7).fmt = 2 ∧ SameSize (t 7) (t 0)) ∧
    ((t 0).fmt = (t 10).fmt ∧ (t 0).cols = (t 10).cols ∧ (t 0).rows = (t 11).rows ∧ (t 10).rows = (t 11).cols ∧ (t 10).cols = (t 11).rows) ∧
    ((t 5).fmt = 12 ∧ (t 5).rows = (t 0).rows ∧ FloatFmt (t 0).fmt) ∧
    (Ordinary s 6#5 ∧ (t 6).sc = false ∧ (t 6).fmt = 0 ∧ (t 6).rows = (t 0).rows ∧ 3 ≤ (t 6).cols) ∧
    ((t 0).cols % 2 = 0 ∧ (s.reg 28#6).toNat < 2 ^ 24 ∧ (s.reg 28#6).toNat % 16 = 0 ∧ (s.reg 28#6).toNat + (t 0).cols / 2 * 4 ≤ localSize s.cur ∧
      (s.reg 29#6).toNat % 2 ^ 32 + ((t 0).rows - 1) * ((s.reg 29#6).toNat / 2 ^ 32) ≤ 2 ^ 31 - 1) := by
  refine ⟨room_wt.2.2.1, by decide +kernel, by unfold SameSize; decide +kernel, by decide +kernel, by unfold FloatFmt; decide +kernel,
    ⟨tile_ok (by decide +kernel), by decide +kernel⟩, by decide +kernel⟩

/-- A memory-side unit; queues of 16; a tile that passes, in both roles; a reserved format; no rows; an arrival word in weight-buffer role. -/
theorem wit_IssueStops :
    classOf (wt (36 * 64 + 56)).cur = 2 ∧
    (let c : Cmd := { word := 0#32, num := 1, seq := 0, idx := 0, pos := 0#64 }
     let s : State := { wt 2304 with core := { (wt 2304).core with cpe := { queue := List.replicate 16 c }, mat := { queue := List.replicate 16 c }, vec := { queue := List.replicate 16 c } } }
     classOf s.cur = 1 ∧ ∀ e ∈ ([.cpe, .mat, .vec] : List EngId), 16 ≤ (s.core.engine e).queue.length) ∧
    (Room (wt 2304) .cpe ∧ Room (wt 2304) .mat ∧ Room (wt 2304) .vec ∧ Room (wt 0) .mat) ∧
    Passes (wt 2304) (false, 0#5) ∧ Passes (wt 2304) (true, 14#5) ∧ Fails (wt 2304) (false, 12#5) 0x030 ∧ Fails (wt 2304) (false, 13#5) 0x031 ∧
    Fails (wt 2304) (true, 9#5) 0x031 := by
  refine ⟨by decide +kernel, by decide +kernel, room_wt, ⟨ordinary_wt.1, by decide +kernel⟩, ⟨tile_ok (by decide +kernel), by decide +kernel⟩,
    .inl ⟨by unfold FormatOk; decide +kernel, rfl⟩, .inr ⟨by unfold FormatOk; decide +kernel, fun h => absurd h.1.2.2.2.1 (by decide +kernel), rfl⟩,
    .inr ⟨by unfold FormatOk; decide +kernel, fun h => absurd (h.2 rfl) (by decide +kernel), rfl⟩⟩

/-! ## Witnesses: streams, sluice words, containment, memory events -/

theorem onStream_of (s : State) (p : Word) (t : Stream)
    (h : (s.core.stores.isEmpty && decide (s.core.unit.packets = 0) && s.streamFault p == none && s.stream? s.ctx (offOf p / 4096) == some t) = true) :
    OnStream s p t s := by
  simp only [Bool.and_eq_true, beq_iff_eq, decide_eq_true_eq, List.isEmpty_iff] at h
  exact ⟨h.1.1.2, h.1.2, State.release_of_no_stores _ _ h.1.1.1, h.2⟩

/-- VERSION ‖ n for the version of `strm`. -/
def op (n : Nat) : Word := BitVec.ofNat 64 (7 * 2 ^ 32 + n)

theorem streamed_on : OnStream (streamed strm (op 2)) ((streamed strm (op 2)).reg 40#6) strm (streamed strm (op 2)) ∧
    (streamed strm (op 2)).head.snaps = [] ∧
    OnStream (streamed { strm with tpend := true, tanch := 6, snapint := 0 } (op 0)) ((streamed { strm with tpend := true, tanch := 6, snapint := 0 } (op 0)).reg 40#6)
      { strm with tpend := true, tanch := 6, snapint := 0 } (streamed { strm with tpend := true, tanch := 6, snapint := 0 } (op 0)) :=
  ⟨onStream_of _ _ _ (by decide +kernel), rfl, onStream_of _ _ _ (by decide +kernel)⟩

/-- Operands of another version, of this one and of any; advances up to and past G and 2^31; frames at C, at G and below C; commits. -/
theorem wit_StreamCursorWords :
    ¬((BitVec.ofNat 64 (6 * 2 ^ 32)).toNat / 2 ^ 32 = 2 ^ 32 - 1 ∨ (BitVec.ofNat 64 (6 * 2 ^ 32)).toNat / 2 ^ 32 = strm.version) ∧
    (op 2).toNat / 2 ^ 32 = strm.version ∧ (BitVec.allOnes 64).toNat / 2 ^ 32 = 2 ^ 32 - 1 ∧ strm.tpend = false ∧
    (2 ^ 31 - 3) + (op 2).toNat % 2 ^ 32 < 2 ^ 31 ∧ 2 ^ 31 ≤ (2 ^ 31 - 3) + (op 3).toNat % 2 ^ 32 ∧
    strm.p + (op 10).toNat % 2 ^ 32 ≤ strm.g ∧ strm.g < strm.p + (op 11).toNat % 2 ^ 32 ∧
    (strm.c ≤ 4 ∧ 4 ≤ strm.g) ∧ (strm.c ≤ 20 ∧ 20 ≤ strm.g) ∧ 3 < strm.c ∧ (op 0).toNat % 2 ^ 32 = 0 ∧
    (3 < strm.c ∨ strm.p < 3) ∧ (11 < strm.c ∨ strm.p < 11) ∧ (strm.c ≤ 10 ∧ 10 ≤ strm.p) := by decide +kernel

/-- STRUNC with nothing left to trim, and to free the second block. -/
theorem wit_StreamCursorWords_trim : ∀ h ∈ [0, 2],
    let t := { strm with tpend := true, tanch := 6, snapint := 0, hiblk := h }
    ∃ s2, (streamed t (op 0)).entriesFault t ((t.tanch + 15) / 16) (t.hiblk - (t.tanch + 15) / 16) = (none, s2) := by
  intro h hh t
  obtain ⟨s2, e, _⟩ := fst_none (a := (streamed t (op 0)).entriesFault t ((t.tanch + 15) / 16) (t.hiblk - (t.tanch + 15) / 16)) (p := fun _ => true)
    (by revert h; decide +kernel)
  exact ⟨s2, e⟩

theorem wit_StreamCursorWords_commit : (streamed strm (op 10)).core.cmdsAll = [] ∧ (streamed strm (op 10)).intervalOpen (streamed strm (op 10)).ctx = false ∧
    (streamed strm (op 10)).reg (pairLo 21#5) = op 10 ∧
    (∃ c, (streamed strm (op 10)).ctx? (streamed strm (op 10)).ctx = some c ∧ c.ckptOpen = false) ∧
    ∃ s2 c, (streamed strm (op 10)).checkTarget ((streamed strm (op 10)).reg (pairHi 21#5)) = (none, s2) ∧ s2.ctx? s2.ctx = some c ∧ c.ckptOpen = false := by
  refine ⟨by decide +kernel, by decide +kernel, by decide +kernel, ?_, ?_⟩
  · obtain ⟨c, e, h⟩ := opt_some (a := (streamed strm (op 10)).ctx? (streamed strm (op 10)).ctx) (p := fun c => !c.ckptOpen) (by decide +kernel)
    exact ⟨c, e, by simpa using h⟩
  · obtain ⟨s2, e, h⟩ := fst_none (a := (streamed strm (op 10)).checkTarget ((streamed strm (op 10)).reg (pairHi 21#5)))
      (p := fun s => (s.ctx? s.ctx).any fun c => !c.ckptOpen) (by decide +kernel)
    obtain ⟨c, ec, hc⟩ := opt_some h
    exact ⟨s2, c, e, ec, by simpa using hc⟩

/-- Pools: die 36 has one near page, its neighbour 28 + 9 = 37 has 128. -/
def pooled : State := { streamed strm (op 0) with head := { streams := [strm], pools := [(3 * 64 + 36, { near := [12] }), (3 * 64 + 37, { near := List.range 128 })] } }

def allocTest (s2 : State) : Bool := someTest (fun e s3 => noneTest (fun _ => true) (s3.writeEntryAt strm 0 e)) (s2.takePage strm.ctx strm.ddie)

/-- A block table whose page may be read and not written: 2^30 maps to the page at 0x71000's frame. -/
def roTab : Word := 0x40071000#64
def roTable : State := { streamed { strm with btab := roTab } (op 0) with
  mem := (streamed strm (op 0)).mem.map fun c => if 0x12008 ≤ c.1 ∧ c.1 < 0x12010 then (c.1, BitVec.ofNat 8 ((0x77 + 2 ^ 52) / 256 ^ (c.1 - 0x12008))) else c }

theorem wit_StreamPageWords :
    -- SSNAP of position 8, not at the newest snapshot at or below C; and once it is over
    (strm.snapint ≠ 0 ∧ 8 % strm.snapint = 0 ∧ 8 ≤ strm.g ∧ strm.snaplast < 8 ∧ (strm.snapAt strm.c).map (·.1) ≠ some (8 / strm.snapint % strm.nsnap)) ∧
    ((∀ k, (streamed strm (op 8)).core.stall ≠ .control k) ∧ (∀ w, (streamed strm (op 8)).core.stall ≠ .took w) ∧ (streamed strm (op 8)).snapBusy strm = false ∧
      ∃ bs s2, (streamed strm (op 8)).ctxRead strm.ddie strm.ctx strm.rstate.toNat strm.rsize = (.ok bs, s2)) ∧
    (∀ k ∈ [.control false, .control true, .took 9#64], ({ streamed strm (op 8) with core := { (streamed strm (op 8)).core with stall := k } } : State).core.stall = k) ∧
    -- KVALLOC of an empty block, with a page and with none; KVFREE of a block that is not the last; a block past the table
    (∃ s0 s2, pooled.readEntryAt strm 0 = (.ok 0xFFFFFFFF, s0) ∧ s0.ctxCheck headDie strm.ctx strm.btab.toNat 4 .store = (none, s2) ∧
      ∃ e s3 s4, s2.takePage strm.ctx strm.ddie = (some e, s3) ∧ s3.writeEntryAt strm 0 e = (none, s4)) ∧
    (∃ s0 s2, (streamed strm (op 0)).readEntryAt strm 0 = (.ok 0xFFFFFFFF, s0) ∧ s0.ctxCheck headDie strm.ctx strm.btab.toNat 4 .store = (none, s2) ∧
      ∃ s3, s2.takePage strm.ctx strm.ddie = (none, s3)) ∧
    (∃ s0 c va s2, (roTable.readEntryAt { strm with btab := roTab } 0 = (.ok 0xFFFFFFFF, s0)) ∧ s0.ctxCheck headDie strm.ctx roTab.toNat 4 .store = (some (c, va), s2)) ∧
    (∃ e s2, (streamed strm (op 1)).freeBlock strm 1 = (.ok e, s2)) ∧
    (∃ c s2, (streamed { strm with btab := 0x40000000#64 } (op 1)).freeBlock { strm with btab := 0x40000000#64 } 1 = (.error c, s2)) ∧ 1 + 1 ≠ strm.hiblk ∧ strm.nblk ≤ 2 ∧ 1 < strm.nblk ∧
    -- KVBORROW: a lender, none, a neighbour that has too few pages, a die that is no neighbour
    pooled.lender strm.ctx strm.ddie = some 37 ∧ (streamed strm 0xFF#64).lender strm.ctx strm.ddie = none ∧ 44 ∈ neighbours strm.ddie ∧
    pooled.canSpare strm.ctx 44 = false ∧ 36 ∉ neighbours strm.ddie := by
  refine ⟨by decide +kernel, ⟨fun k h => (by cases h), fun k h => (by cases h), by decide +kernel, ?_⟩, by decide +kernel, ?_, ?_, ?_, ?_, ?_, by decide +kernel, by decide +kernel, by decide +kernel, by decide +kernel,
    by decide +kernel, by decide +kernel, by decide +kernel, by decide +kernel⟩
  · obtain ⟨v, s2, e, _⟩ := fst_ok (a := (streamed strm (op 8)).ctxRead strm.ddie strm.ctx strm.rstate.toNat strm.rsize) (p := fun _ _ => true) (by decide +kernel)
    exact ⟨v, s2, e⟩
  · obtain ⟨v, s0, e, h⟩ := fst_ok (a := pooled.readEntryAt strm 0) (p := fun v s0 => v == 0xFFFFFFFF && noneTest allocTest (s0.ctxCheck headDie strm.ctx strm.btab.toNat 4 .store)) (by decide +kernel)
    simp only [Bool.and_eq_true, beq_iff_eq] at h
    obtain ⟨s2, e2, h2⟩ := fst_none h.2
    obtain ⟨x, s3, e3, h3⟩ := fst_some h2
    obtain ⟨s4, e4, _⟩ := fst_none h3
    exact ⟨s0, s2, by rw [e, h.1], e2, x, s3, s4, e3, e4⟩
  · obtain ⟨v, s0, e, h⟩ := fst_ok (a := (streamed strm (op 0)).readEntryAt strm 0) (p := fun v s0 => v == 0xFFFFFFFF &&
      noneTest (fun s2 => noneTest (fun _ => true) (s2.takePage strm.ctx strm.ddie)) (s0.ctxCheck headDie strm.ctx strm.btab.toNat 4 .store)) (by decide +kernel)
    simp only [Bool.and_eq_true, beq_iff_eq] at h
    obtain ⟨s2, e2, h2⟩ := fst_none h.2
    obtain ⟨s3, e3, _⟩ := fst_none h2
    exact ⟨s0, s2, by rw [e, h.1], e2, s3, e3⟩
  · obtain ⟨v, s0, e, h⟩ := fst_ok (a := roTable.readEntryAt { strm with btab := roTab } 0) (p := fun v s0 => v == 0xFFFFFFFF &&
      someTest (fun _ _ => true) (s0.ctxCheck headDie strm.ctx roTab.toNat 4 .store)) (by decide +kernel)
    simp only [Bool.and_eq_true, beq_iff_eq] at h
    obtain ⟨x, s2, e2, _⟩ := fst_some h.2
    exact ⟨s0, x.1, x.2, s2, by rw [e, h.1], e2⟩
  · obtain ⟨v, s2, e, _⟩ := fst_ok (a := (streamed strm (op 1)).freeBlock strm 1) (p := fun _ _ => true) (by decide +kernel)
    exact ⟨v, s2, e⟩
  · obtain ⟨v, e, _⟩ := exc_error (a := ((streamed { strm with btab := 0x40000000#64 } (op 1)).freeBlock { strm with btab := 0x40000000#64 } 1).1)
      (q := fun _ => true) (by decide +kernel)
    exact ⟨v, _, fst_eq e⟩

/-- The package whose core holds the translation of the first GiB. -/
def wx : State := { wg with core := { wg.core with tcache := [cachedT] } }

def sendTest (s2 : State) (bs : List Byte) (s3 : State) : Bool :=
  let x := slDescOf (wx.reg 19#6) (wx.reg 20#6) s3.ctx ((s3.slTimeline 36 1 s3.ctx).issued + 1) (s3.chan 36 1).opened bs
  x.valid bs && (s3.openXfer 36 1 s3.ctx x.xid).isNone && s2.core.stores.isEmpty

theorem wit_SluiceWords :
    wx.core.unit.packets = 0 ∧ wx.sendHandle (wx.reg 19#6) = some (36, 1) ∧ wx.handleAsks (wx.reg 19#6) = wx ∧ spaceOf (wx.reg 20#6) = 0 ∧
    (∃ loc s1 s3 bs, wx.locate (wx.reg 20#6) 64 64 .atomic = .ok loc s1 ∧ s1.release allClasses = .ok s1 ∧ s1.ctxRead 36 s1.ctx (wx.reg 20#6).toNat 64 = (.ok bs, s3) ∧
      (slDescOf (wx.reg 19#6) (wx.reg 20#6) s3.ctx ((s3.slTimeline 36 1 s3.ctx).issued + 1) (s3.chan 36 1).opened bs).valid bs = true ∧
      s3.openXfer 36 1 s3.ctx (slDescOf (wx.reg 19#6) (wx.reg 20#6) s3.ctx ((s3.slTimeline 36 1 s3.ctx).issued + 1) (s3.chan 36 1).opened bs).xid = none) ∧
    2 ^ 16 ≤ (wx.reg 20#6).toNat ∧ (wx.reg 6#6).toNat < 2 ^ 16 ∧ wx.release allClasses = .ok wx ∧ wx.openXfer 36 1 wx.ctx (wx.reg 6#6).toNat = none := by
  refine ⟨by decide +kernel, by decide +kernel, asks_nothing (by decide +kernel), by decide +kernel, ?_, by decide +kernel, by decide +kernel, State.release_of_no_stores _ _ (by decide +kernel), by decide +kernel⟩
  obtain ⟨loc, s1, e1, h1⟩ := acc_test (a := wx.locate (wx.reg 20#6) 64 64 .atomic) (p := fun _ s1 => okTest (sendTest s1) (s1.ctxRead 36 s1.ctx (wx.reg 20#6).toNat 64)) (by decide +kernel)
  obtain ⟨bs, s3, e3, h3⟩ := fst_ok h1
  simp only [sendTest, Bool.and_eq_true, List.isEmpty_iff, Option.isNone_iff_eq_none] at h3
  exact ⟨loc, s1, s3, bs, e1, State.release_of_no_stores _ _ h3.2, e3, h3.1.1, h3.1.2⟩

/-- A transfer with XID 7 is open on the channel, whose words SLSEND of XID 7 and SLCANCEL of 7 meet. -/
theorem wit_SluiceWords_open :
    let x : SlDesc := { handle := wx.reg 19#6, ctx := 3, num := 1, ptr := 0#64, xid := 7, src := 0#64, dst := 0#64, pos0 := 0, npos := 16, nh := 1, hd := 16, narrow := false, ver := 1, loff := 0 }
    let s := wx.modDie 36 fun d => { d with chans := [(1, { transfers := [{ desc := x }] })] }
    s.sendHandle (s.reg 19#6) = some (36, 1) ∧ s.openXfer 36 1 s.ctx (s.reg 6#6).toNat = some { desc := x } := by
  decide +kernel

/-- A running step of a sweep that has a restart left, handed out by die 36. -/
def restarting : State := { wg with
  head := { sweeps := [{ theSweep with record := { sweepRec with rlimit := 1 } }] }
  dies := [(36, { sweeps := [{ id := 1, next := 1 }] })] }

/-- The unit waits inside its word, a write of SPLIT. -/
def inWordOf (s : State) : State := { s with core := { s.core with stall := .control false } }

theorem wit_ContainmentCodes : wgTask.core.unit.isStep = false ∧
    ((restarting.unitAt 2304).unit.running = true ∧ (restarting.unitAt 2304).unit.isStep = true ∧ (restarting.unitAt 2304).unit.group = none ∧
      (restarting.unitAt 2304).unit.origin = none ∧ (restarting.unitAt 2304).stores = [] ∧ (restarting.unitAt 2304).loads = [] ∧ (restarting.unitAt 2304).cmdsAll = [] ∧
      restarting.sweep? (restarting.unitAt 2304).unit.sweep = some { theSweep with record := { sweepRec with rlimit := 1 } } ∧
      dieSweep restarting (restarting.unitAt 2304).unit.handedBy 1 = some { id := 1, next := 1 } ∧
      ({ id := 1, next := 1 } : DieSweep).restartsOf (restarting.unitAt 2304).unit.stepNo < 1 ∧
      (restarting.unitAt 2304).unit.stepNo ∉ ({ id := 1, next := 1 } : DieSweep).done ∧ theSweep.stop = false ∧ restarting.stepUndo = []) ∧
    wg.intervalOpen wg.ctx = false ∧ opened.intervalOpen opened.ctx = true ∧ (opened.ctx? 3).map (·.killDue) = some false ∧
    opened.atBoundary 3 = true ∧ (inWordOf opened).atBoundary 3 = false ∧ (inWordOf opened).intervalOpen 3 = true := by unfold dieSweep; decide +kernel

theorem wit_ContainmentCodes_rollback : ∃ s1, opened.fatalFull opened.ctx = (false, s1) ∧ (s1.ctx? opened.ctx).isSome :=
  ⟨_, fst_eq (by decide +kernel), by decide +kernel⟩

def livesAfter (s : State) (r : Option Nat) (cause : Nat) (l : LastTrap) : Bool :=
  (s.putFatal s.ctx r cause 1 l).1 && ((s.putFatal s.ctx r cause 1 l).2.ctx? s.ctx).any fun c => !c.killed && c.drop.isNone && !c.killDue

theorem fatal_ok (s : State) (r : Option Nat) (cause : Nat) (l : LastTrap) (h : livesAfter s r cause l = true) :
    ∃ s1 k, s.putFatal s.ctx r cause 1 l = (true, s1) ∧ s1.ctx? s.ctx = some k ∧ k.killed = false ∧ k.drop = none ∧ k.killDue = false := by
  simp only [livesAfter, Bool.and_eq_true] at h
  obtain ⟨k, ek, hk⟩ := opt_some h.2
  simp only [Bool.and_eq_true, Bool.not_eq_true', Option.isNone_iff_eq_none] at hk
  exact ⟨_, k, fst_eq h.1, ek, hk.1.1, hk.1.2, hk.2⟩

/-- TRAP 0xFF2 by the unit, and CONTEXT_KILL of a cause: `fatal_ok` applies to both. -/
theorem wit_ContainmentCodes_kill : livesAfter wg (some wg.cur) 0x074 { packed := 0x074, pos := wg.core.pc } = true ∧
    livesAfter wg none 0x070 { packed := 0x070 } = true ∧ livesAfter (inWordOf wg) none 0x070 { packed := 0x070 } = true ∧
    (wg.putFatal 3 none 0x070 1 { packed := 0x070 }).2.atBoundary 3 = true ∧ ((inWordOf wg).putFatal 3 none 0x070 1 { packed := 0x070 }).2.atBoundary 3 = false ∧ ((wg.ctx? wg.ctx).any fun k => !k.killed) = true := by decide +kernel

/-- The context holds the D-die; 16 and 17; a change is on its way; it has taken effect. -/
theorem wit_SplitEvents :
    let s := w0.modDie 36 fun d => { d with dgrant := some 3, splitTo := [(2304, 3, 4)] }
    (∀ old, w0.core.stall ≠ .took old) ∧ (w0.die 36).splitTo = [] ∧ isPDie (dieOf w0.cur) = false ∧ (s.die 36).dgrant = some s.ctx ∧ (16#64).toNat % 32 ≤ 16 ∧
    16 < (17#64).toNat % 32 ∧ (w0.die 36).dgrant ≠ some w0.ctx ∧ (s.die 36).splitTo = (2304, 3, 4) :: [] ∧ 4 ≤ 16 ∧ (s.die 36).split ≤ 16 ∧
    4 < (s.die 36).split ∧ (s.stack (36 - 32)).sram = [] ∧
    (s.units.all fun u => u.2.stores.isEmpty) = true ∧
    (({ w0 with core := { w0.core with stall := .took 5#64 } } : State).core.stall = .took 5#64) := by
  intro s
  refine ⟨fun old h => (by cases h), by decide +kernel⟩

/-- No other unit; a watchpoint of 8 bytes at the address in WPADDR0, GLOBAL and translated; a line of the first GiB. -/
theorem wit_RegisterEvents :
    let s : State := { held with core := { held.core with ctl := { held.core.ctl with wpaddr := held.core.ctl.wpaddr.set 0 0x2000#64 } } }
    s.release allClasses = .ok s ∧ (∀ u ∈ s.units, u.2.stores = [] ∧ u.2.loads = [] ∧ u.2.pend = none ∧ u.2.outgoing = [] ∧ (∀ k l, u.2.stall ≠ .pushing k l)) ∧
    (∃ die sh at_ s2, s.watchRange (s.core.ctl.wpaddr[0]) (7 % 65536 + 1) = .ok (die, sh, at_) s2) ∧
    s.core.unit.running = true ∧ (0x2080#64).toNat < 2 ^ 57 ∧ s.core.fetched 0x2080 = none ∧ ∃ s2, s.fillFetch 0x2080 = .ok () s2 := by
  intro s
  refine ⟨State.release_of_no_stores _ _ (by decide +kernel), fun u hu => ?_, ?_, by decide +kernel, by decide +kernel, by decide +kernel, ?_⟩
  · rw [List.mem_singleton.1 (show u ∈ [(2304, s.core)] from hu)]
    exact ⟨by decide +kernel, by decide +kernel, by decide +kernel, by decide +kernel, fun k l h => (by cases h)⟩
  · obtain ⟨v, s2, e⟩ := acc_ok (a := s.watchRange (s.core.ctl.wpaddr[0]) (7 % 65536 + 1)) (by decide +kernel)
    exact ⟨v.1, v.2.1, v.2.2, s2, e⟩
  · obtain ⟨_, s2, e⟩ := acc_ok (a := s.fillFetch 0x2080) (by decide +kernel)
    exact ⟨s2, e⟩

/-- A miss of the first page and walks whose next entries are a pointer, an invalid entry, a leaf and one of a line that is lost. -/
def walking : State := { wg.modDie 36 fun d => { d with
  missq := [{ ctx := 3, region := 0, level := 4, table := 0 }]
  walks := [{ ctx := 3, region := 0, level := 4, table := 0x10000 }, { ctx := 3, region := 0x4000, level := 2, table := 0x12000 },
            { ctx := 3, region := 1, level := 2, table := 0x12000 }, { ctx := 3, region := 1, level := 2, table := 0x14000 }] } with
  hbm := [(0, { lost := [0x280] })] }

/-- The read of a walk's next entry, and what it says: a pointer, a bad entry or a leaf. -/
def walkTest (k : Nat) (w : Walk) : Bool := w.ended.isNone && walking.reaches 36 (homeDie w.table) &&
  okTest (fun e s1 => match readEntry e w.level with
    | .next _ => k == 0
    | .bad _ => k == 1
    | .leaf _ => k == 2 && (s1.setLeafBits 36 w.ctx (w.table + 8 * levelIndex (w.region * 65536) w.level) 32).1 == none)
    (walking.tableRead 36 w.ctx (w.table + 8 * levelIndex (w.region * 65536) w.level))

theorem walk_ok (i k : Nat) (h : ((walking.die 36).walks[i]?).any (walkTest k) = true) : ∃ w e s1, (walking.die 36).walks[i]? = some w ∧ w.ended = none ∧
    walking.reaches 36 (homeDie w.table) = true ∧ walking.tableRead 36 w.ctx (w.table + 8 * levelIndex (w.region * 65536) w.level) = (.ok e, s1) ∧
    (k = 0 → ∃ n, readEntry e w.level = .next n) ∧ (k = 1 → ∃ c, readEntry e w.level = .bad c) ∧
    (k = 2 → (∃ f, readEntry e w.level = .leaf f) ∧ (s1.setLeafBits 36 w.ctx (w.table + 8 * levelIndex (w.region * 65536) w.level) 32).1 = none) := by
  obtain ⟨w, ew, hw⟩ := opt_some h
  simp only [walkTest, Bool.and_eq_true, Option.isNone_iff_eq_none] at hw
  obtain ⟨e, s1, e1, h1⟩ := fst_ok hw.2
  refine ⟨w, e, s1, ew, hw.1.1, hw.1.2, e1, ?_⟩
  revert h1
  cases readEntry e w.level <;> simp <;> rintro rfl <;> simp

/-- `walk_ok` applies to each of the first three; a miss that begins at the root, and one that begins below a pointer; a read that fails. -/
theorem wit_WalkerEvents :
    ((walking.die 36).missq = [{ ctx := 3, region := 0, level := 4, table := 0 }] ∧ ((walking.die 36).walks.filter fun x => x.ended.isNone).length < 32 ∧
      (walking.ctx? 3).isSome = true ∧ ∀ p ∈ (walking.die 36).ptrs, p.ctx ≠ 3) ∧
    ({ ptrs := [{ ctx := 3, level := 3, pre := 0, table := 0x11000 }] } : Die).walkStart 3 0 0x10000 = (2, 0x11000) ∧
    ((walking.die 36).walks[0]?).any (walkTest 0) = true ∧ ((walking.die 36).walks[1]?).any (walkTest 1) = true ∧
    ((walking.die 36).walks[2]?).any (walkTest 2) = true ∧
    ((walking.die 36).walks[3]?).any (fun w => w.ended.isNone && walking.reaches 36 (homeDie w.table) &&
      !okTest (fun _ _ => true) (walking.tableRead 36 w.ctx (w.table + 8 * levelIndex (w.region * 65536) w.level))) = true := by decide +kernel

/-- A stack of which lane 3 of the pseudo-channel of line 5 is bad. -/
def sick (f : Stack → Stack) : State := { w0 with hbm := [(4, f { badLanes := [{ pch := pchOf 5, lane := 3 }] })] }
def epi : Episode := { pch := pchOf 5, line := 5 }

theorem wit_StackEvents :
    let st := fun (s : State) => s.stack 4
    let on := fun (e : Episode) => sick fun x => { x with episodes := [e] }
    let due : Episode := { epi with testing := true, fails := [(0, 1), (0, 0), (1, 0)] }
    let first := fun (l : List (Nat × Nat)) => l.head? = some (0, 0)
    ((st (sick id)).episode (pchOf 5) = none ∧ 5 ∉ (st (sick id)).moved ∧ first ((st (sick id)).failing 5)) ∧
    (∀ e ∈ [epi, { epi with retry := false }, { epi with fresh := true }, { epi with retries := 2 }],
      (st (on e)).episode (pchOf 5) = some e ∧ e.testing = false ∧ e.line = 5 ∧ 5 ∉ (st (on e)).moved ∧ first ((st (on e)).failing 5)) ∧
    (let s := sick fun _ => { episodes := [epi], badLanes := [{ pch := pchOf 5, lane := 3, left := some 0 }] }
     (st s).episode (pchOf 5) = some epi ∧ (st s).failing 5 = []) ∧
    ((st (on due)).episode (pchOf 5) = some due ∧ (st (on due)).testFinds (pchOf 5) 1 = none ∧ (st (on due)).testFinds (pchOf 5) 0 = some 3 ∧
      (st (on due)).freeSpare (pchOf 5) = some 0) ∧
    (let s := sick fun _ => { episodes := [due], badLanes := [{ pch := pchOf 5, lane := 3, left := some 1 }] }
     (st s).episode (pchOf 5) = some due ∧ ∀ x ∈ due.fails, (st s).testFinds (pchOf 5) x.2 = none) ∧
    (∀ r ∈ [([], 1), ([], 2), ([pchOf 5], 1)],
     let s := sick fun x => { x with episodes := [due], swaps := [(pchOf 5, 1, 0), (pchOf 5, 2, 1)], reserveUsed := r.2, retired := r.1 }
     (st s).episode (pchOf 5) = some due ∧ (st s).testFinds (pchOf 5) 0 = some 3 ∧ (st s).testFinds (pchOf 5) 1 = none ∧ (st s).freeSpare (pchOf 5) = none) ∧
    (let s := sick fun x => { x with retired := [pchOf 5], erased := [(pchOf 5, 3)] }
     pchOf 5 ∈ (st s).retired ∧ 5 ∉ (st s).moved ∧ 5 ∉ (st s).lost ∧ (s.readLine 4 5).1 = true) ∧
    (let s := sick fun _ => { badLanes := [{ pch := pchOf 5, lane := 3 }, { pch := pchOf 5, lane := 4 }], retired := [pchOf 5], erased := [(pchOf 5, 3), (pchOf 5, 4)] }
     pchOf 5 ∈ (st s).retired ∧ 5 ∉ (st s).moved ∧ 5 ∉ (st s).lost ∧ (s.readLine 4 5).1 = false) ∧
    (let s := sick fun _ => { sram := [{ line := 5, key := 1, dirty := true }] }
     (st s).cached 5 = some { line := 5, key := 1, dirty := true } ∧ (st s).classAt 1 = 4 ∧ Sound (st s)) := by
  unfold Sound; decide +kernel

/-! ## Witnesses: engine commands -/

/-- A command of core 36 × 64, its first. -/
def cmd (i : Instr) (st : CmdState) (d0 d1 : BitVec 128) (r0 : Word := 0#64) : Cmd :=
  { word := wordOf i, num := 1, seq := 0, idx := 0, pos := 0x1000#64, st := st, d0 := d0, d1 := d1, r0 := r0 }

/-- The core's engines hold the command. -/
def busy (e : EngId) (c : Cmd) : State := { wt 2304 with core := (wt 2304).core.setEngine e { queue := [c], issued := 1 } }

def onlyTest (s : State) (rank : Nat) (e : EngId) (c : Cmd) : Bool := ((s.unitAt rank).engine e).queue == [c]

theorem only_ok {s : State} {rank : Nat} {e : EngId} {c : Cmd} (h : onlyTest s rank e c = true) : Only s rank e c := by
  have h : ((s.unitAt rank).engine e).queue = [c] := by simpa [onlyTest] using h
  unfold Only; rw [h]; simp

def copyC (st : CmdState) : Cmd := cmd (.cpll 1#5 2#5 0#1) st (tile 0x2000 4 16 16 6) (tile 0x3000 4 16 16 6)
def arriveC : Cmd := cmd (.cpll 9#5 9#5 0#1) .running (tile 0xA000 4 256 256 7 true false 0 0xB000) (tile 0xE000 4 256 256 7)
def fillC : Cmd := cmd (.fill 14#5 6#6) .running (tile 0 1 16 16 6) 0#128 7#64
def vexpC (st : CmdState) : Cmd := cmd (.vexp 0#5 8#5) st (tile 0x1000 4 4 16 0) (tile 0x9000 4 4 16 1)
def mzeroC (st : CmdState) : Cmd := cmd (.mzero 10#5) st (tile 0xC000 1 4 16 0) 0#128
def wbldC : Cmd := cmd (.wbld 14#5 1#5) .running (tile 0 4 16 16 6) (tile 0x2000 4 16 16 6)
def cbldC : Cmd := cmd (.cbld 4#5) .running 0#128 (tile 0x5000 16 16 64 12)
def mvmC : Cmd := { cmd (.mvm 0#5 1#5 2#5 26#6 0#1) .queued (tile 0x1000 4 4 16 0) (tile 0x2000 4 16 16 6) ((wt 2304).reg 26#6) with d2 := tile 0x3000 4 16 16 6 }
def idxldC : Cmd := { cmd (.idxld 3#3 12#5) .running 0#128 0#128 (mkPtr 2 0xFFF 0x400) with r1 := 4#64, beat := 64 }
def slotC : Cmd := { cmd (.slotret 6#6 2#2) .running 0#128 0#128 7#64 with beat := 64 }

/-- A command of an engine that may start. -/
def startTest (s : State) (e : EngId) (c : Cmd) : Bool := onlyTest s 2304 e c && (s.unitAt 2304).ready 2304 e c && !s.stopping 3 && (s.unitAt 2304).unit.ctx == 3

theorem wit_EngineStart :
    (startTest (busy .cpe (copyC .queued)) .cpe (copyC .queued) = true ∧ decode (copyC .queued).word = .ok (.cpll 1#5 2#5 0#1)) ∧
    (startTest (busy .vec (vexpC .queued)) .vec (vexpC .queued) = true ∧ decode (vexpC .queued).word = .ok (.vexp 0#5 8#5)) ∧
    (startTest (busy .mat (mzeroC .queued)) .mat (mzeroC .queued) = true ∧ decode (mzeroC .queued).word = .ok (.mzero 10#5)) ∧
    (startTest (busy .mat mvmC) .mat mvmC = true ∧ decode mvmC.word = .ok (.mvm 0#5 1#5 2#5 26#6 0#1) ∧ (busy .mat mvmC).withheld 2304 = false) ∧
    (∀ c ∈ [mzeroC .queued, mvmC], (busy .mat c).rampDie (dieOf 2304) = busy .mat c) ∧
    (let s := (busy .mat mvmC).modDie 36 fun d => { d with clusters := [(clusterOf 2304, { withheld := true })] }
     startTest s .mat mvmC = true ∧ s.withheld 2304 = true ∧ s.rampDie (dieOf 2304) = s) :=
  ⟨⟨by decide +kernel, dec_ok (by decide +kernel)⟩, ⟨by decide +kernel, dec_ok (by decide +kernel)⟩, ⟨by decide +kernel, dec_ok (by decide +kernel)⟩,
    ⟨by decide +kernel, dec_ok (by decide +kernel), by decide +kernel⟩, by simpa using ⟨rfl, rfl⟩, by decide +kernel, by decide +kernel, rfl⟩

/-- The arrival word of `arriveC` as TARGET 512, COUNT 256, GEN 2^32 − 1. -/
def armed : State := { busy .cpe arriveC with mem := [(localKey 2304 0xB001, 2#8), (localKey 2304 0xB005, 1#8), (localKey 2304 0xB008, 255#8), (localKey 2304 0xB009, 255#8),
  (localKey 2304 0xB00A, 255#8), (localKey 2304 0xB00B, 255#8)] }

theorem wit_CopyBeat :
    (Only (busy .cpe (copyC .running)) 2304 .cpe (copyC .running) ∧ (copyC .running).st = .running ∧ (copyC .running).beat = 0 ∧
      decode (copyC .running).word = .ok (.cpll 1#5 2#5 0#1) ∧ ((busy .cpe (copyC .running)).unitAt 2304).badLocal = [] ∧
      ((busy .cpe (copyC .running)).unitAt 2304).badWb = [] ∧ (tileOf (copyC .running).d0).aw = false) ∧
    (Only armed 2304 .cpe arriveC ∧ decode arriveC.word = .ok (.cpll 9#5 9#5 0#1) ∧ (tileOf arriveC.d0).aw = true) ∧
    (Only (busy .cpe fillC) 2304 .cpe fillC ∧ decode fillC.word = .ok (.fill 14#5 6#6) ∧ (tileOf fillC.d0).fmt = 6 ∧ (tileOf fillC.d0).sc = false ∧
      (tileOf fillC.d0).aw = false ∧ (tileOf fillC.d0).rows = 1) :=
  ⟨⟨only_ok (by decide +kernel), rfl, rfl, dec_ok (by decide +kernel), by decide +kernel, by decide +kernel, by decide +kernel⟩,
    ⟨only_ok (by decide +kernel), dec_ok (by decide +kernel), by decide +kernel⟩,
    ⟨only_ok (by decide +kernel), dec_ok (by decide +kernel), by decide +kernel, by decide +kernel, by decide +kernel, by decide +kernel⟩⟩

/-- The copy leaves the arrival word as it is. -/
theorem wit_CopyBeat_arrival :
    let d := tileOf arriveC.d0
    let a := tileOf arriveC.d1
    Holds (d.imgPut armed.mem (localKey 2304 0) 0 (a.imgGet armed.mem (localKey 2304 0) 0 a.imageSize)) (localKey 2304 d.awo) 16 (512 + 256 * 2 ^ 32 + 0xFFFFFFFF * 2 ^ 64) := by
  unfold Holds; decide +kernel

def cpinC : Cmd := cmd (.cpin 0#5 24#6 0#1) .running (tile 0x1000 4 4 16 0) 0#128 (mkPtr 2 0xFFF 0x400)
def cpoutC : Cmd := cmd (.cpout 0#5 24#6) .running 0#128 (tile 0x1000 4 4 16 0) (mkPtr 2 0xFFF 0x400)
def blockC : Cmd := { cmd (.cpout 0#5 28#6) .running 0#128 (tile 0x1000 2 256 256 7) 0x2000#64 with beat := 1, early := [2, 3] }

/-- A unit of a copy of core 36 × 64 that is the next to move, and its place in own LOCAL memory. -/
def moveTest (s : State) (c : Cmd) (kind : AccKind) (after : Loc → State → Bool) : Bool :=
  onlyTest s 2304 .cpe c && c.pickBeat s.tick == c.beat && (c.beats[c.beat]?).any fun b => b.ptr.any fun p =>
    pieces p b.n == [(p, 0, b.n)] && b.parts p == [(p, b.n)] && resTest (fun loc s0 => !s0.isRemote loc && after loc s0) (s.resolve 2304 true p b.n kind)

/-- CPIN and CPOUT of own LOCAL memory, and the second unit of a whole block of GLOBAL memory. -/
theorem wit_CopyMoves :
    (moveTest (busy .cpe cpinC) cpinC .load (fun loc s0 => perfTest (fun bs _ => bs.length == 64) (s0.loadAt 2304 3 loc loc.alloc 64)) = true ∧
      decode cpinC.word = .ok (.cpin 0#5 24#6 0#1) ∧ (tileOf cpinC.d0).aw = false ∧ (cpinC.noteBeat 0).beat = 1) ∧
    (moveTest (busy .cpe cpoutC) cpoutC .store (fun loc s0 => perfTest (fun _ _ => true) (s0.storeAt (cpeWriter 2304 3) 2304 3 loc loc.alloc (zeros 64))) = true ∧
      decode cpoutC.word = .ok (.cpout 0#5 24#6)) ∧
    (onlyTest (busy .cpe blockC) 2304 .cpe blockC = true ∧ blockC.pickBeat 0 = 1 ∧ (blockC.beats[1]?).any (fun b => b.parts 0x2080#64 == [] && b.ptr == some 0x2080#64) = true) :=
  ⟨⟨by decide +kernel, dec_ok (by decide +kernel), by decide +kernel, by decide +kernel⟩, ⟨by decide +kernel, dec_ok (by decide +kernel)⟩,
    by decide +kernel, by decide +kernel, by decide +kernel⟩

/-- Descriptors with and without scales. -/
theorem wit_TileImage : TileOk 0x180000 (tileOf (tile 0x1000 4 4 16 0)) ∧ TileOk 0x180000 (tileOf (tile 0x8000 4 4 16 2 false true 0x8800)) :=
  ⟨tile_ok (by decide +kernel), tile_ok (by decide +kernel)⟩

theorem accumulates (rank : Nat) (c : Cmd) (h : (decTile (localSize rank) (tileOf c.d0)).decide = true)
    (h' : ((tileOf c.d0).fmt = 0 ∧ (shapeOf c.r0).m ≤ (tileOf c.d0).rows ∧ (shapeOf c.r0).n ≤ (tileOf c.d0).cols)) : Accumulates rank c := ⟨tile_ok h, h'⟩

theorem wit_EngineComplete :
    (Only (busy .mat (mzeroC .running)) 2304 .mat (mzeroC .running) ∧ decode (mzeroC .running).word = .ok (.mzero 10#5) ∧
      ((busy .mat (mzeroC .running)).unitAt 2304).outgoing = [] ∧ (tileOf (mzeroC .running).d0).rows = 1 ∧ (tileOf (mzeroC .running).d0).fmt = 0) ∧
    (Only (busy .mat wbldC) 2304 .mat wbldC ∧ decode wbldC.word = .ok (.wbld 14#5 1#5)) ∧
    (Only (busy .mat cbldC) 2304 .mat cbldC ∧ decode cbldC.word = .ok (.cbld 4#5)) ∧
    (Only (busy .vec (vexpC .running)) 2304 .vec (vexpC .running) ∧ decode (vexpC .running).word = .ok (.vexp 0#5 8#5)) ∧
    (Only (busy .cpe { copyC .running with beat := 1 }) 2304 .cpe { copyC .running with beat := 1 } ∧ ({ copyC .running with beat := 1 } : Cmd).beats.length ≤ 1) ∧
    (Only (busy .cpe idxldC) 2304 .cpe idxldC ∧ decode idxldC.word = .ok (.idxld 3#3 12#5) ∧ idxldC.beats.length ≤ idxldC.beat) ∧
    (Only (busy .cpe slotC) 2304 .cpe slotC ∧ decode slotC.word = .ok (.slotret 6#6 2#2) ∧ slotC.beats.length ≤ slotC.beat) :=
  ⟨⟨only_ok (by decide +kernel), dec_ok (by decide +kernel), by decide +kernel, by decide +kernel, by decide +kernel⟩,
    ⟨only_ok (by decide +kernel), dec_ok (by decide +kernel)⟩, ⟨only_ok (by decide +kernel), dec_ok (by decide +kernel)⟩,
    ⟨only_ok (by decide +kernel), dec_ok (by decide +kernel)⟩, ⟨only_ok (by decide +kernel), by decide +kernel⟩,
    ⟨only_ok (by decide +kernel), dec_ok (by decide +kernel), by decide +kernel⟩, ⟨only_ok (by decide +kernel), dec_ok (by decide +kernel), by decide +kernel⟩⟩

def promotedC : Cmd := { cmd (.promote 6#4) .running 0#128 0#128 (mkPtr 2 0xFFF 0x400) with beat := 512, aux := [0#64, 0x20000#64, 0#64, 0#64, 0#64, 6#64, 1#64] }
def subscrC (len : Nat) : Cmd := { cmd (.subscr 9#5 14#5 2#2) .running (tile 0xA000 4 256 256 7 true false 0 0xB000) 0#128 0x2000#64 with r1 := BitVec.ofNat 64 len, beat := 1 }
def subscribing (len n : Nat) : State := { wg with
  core := { wg.core with cpe := { queue := [subscrC len], issued := 1 } }, dies := [(32, { subs := List.replicate n default })] }

/-- A subscription opens where fewer than 512 stand at the slice, and faults with 512. -/
def subTest (s : State) (c : Cmd) (p : Nat → Bool) : Bool := onlyTest s 2304 .cpe c && okTest (fun f s1 => 30 ≤ f.bits &&
  okTest (fun v s2 => homeDie v.1 == 32 && p (s2.die 32).subs.length) ((s1.closeSub 2304 2).ctxXlate 36 3 c.r0.toNat .load)) (s.leafOf 36 3 c.r0.toNat)

/-- The result word of a promotion goes to own LOCAL memory; a SUBSCR of length 0, one that opens, one too many. -/
theorem wit_EngineComplete_cpe :
    (onlyTest (busy .cpe promotedC) 2304 .cpe promotedC = true ∧ decode promotedC.word = .ok (.promote 6#4) ∧ promotedC.beats.length ≤ promotedC.beat ∧
      promotedC.aux.getD 6 0#64 ≠ 0#64 ∧ (ptrAdd promotedC.r0 44).any (fun p => resTest (fun loc s0 => !s0.isRemote loc &&
        perfTest (fun _ _ => true) (s0.storeAt (cpeWriter 2304 3) 2304 3 loc loc.alloc (bytesOf 4 1))) ((busy .cpe promotedC).resolve 2304 true p 4 .store)) = true) ∧
    (∀ n ∈ [0, 0x100], decode (subscrC n).word = .ok (.subscr 9#5 14#5 2#2) ∧ (subscrC n).beats.length ≤ (subscrC n).beat) ∧
    onlyTest (subscribing 0 0) 2304 .cpe (subscrC 0) = true ∧ (subscrC 0).r1 = 0#64 ∧
    ((subscrC 0x100).r1 ≠ 0#64 ∧ (subscrC 0x100).r0.toNat % 128 = 0 ∧ (subscrC 0x100).r1.toNat % 128 = 0) ∧
    subTest (subscribing 0x100 511) (subscrC 0x100) (fun n => decide (n < 512)) = true ∧ subTest (subscribing 0x100 512) (subscrC 0x100) (fun n => decide (512 ≤ n)) = true :=
  ⟨⟨by decide +kernel, dec_ok (by decide +kernel), by decide +kernel, by decide +kernel, by decide +kernel⟩,
    fun n hn => ⟨dec_ok (by revert n; decide +kernel), by revert n; decide +kernel⟩, by decide +kernel, by decide +kernel, by decide +kernel, by decide +kernel, by decide +kernel⟩

def engF : EngFault := { eng := 1, cause := 0x033, replayable := true, status := 0#32, addr := 0x2000#64, cmd := copyC .held }
def faulty (l : BitVec 2) : State := { atLevel l with core := { (atLevel l).core with faults := [engF] } }

theorem wit_EngineTrap : (engF.eng < 8 ∧ engF.cause < 2 ^ 16) ∧ sortFaults (faulty 0#2).core.faults = engF :: [] ∧ (faulty 0#2).core.faultDue = true ∧ (faulty 0#2).core.loads = [] ∧ (faulty 0#2).core.ctl.tlevel = 0#2 ∧
    sortFaults (faulty 1#2).core.faults = engF :: [] ∧ (faulty 1#2).core.faultDue = true ∧ (faulty 1#2).core.loads = [] ∧ (faulty 1#2).core.ctl.tlevel = 1#2 ∧
    ((faulty 0#2).ctx? (faulty 0#2).ctx).any (fun c => !c.killed) = true := by decide +kernel

/-- Halves of the pair of core 0 of P-die 0 and its partner, core 8. -/
def half (i : Instr) (st : CmdState) : Cmd := { cmd i st (tile 0x1000 4 4 16 0) (tile 0x2000 4 16 16 6) ((wt 0).reg 26#6) with epoch := some 0, d2 := tile 0 4 16 16 6 }
def lead (st : CmdState) : Cmd := half (.mmapLead 0#5 1#5 14#5 26#6) st
def foll (st : CmdState) : Cmd := half (.mmapFol 0#5 14#5 26#6) st
def paired (st : CmdState) : State := { wt 0 with
  core := { (wt 0).core with mat := { queue := [lead st], issued := 1 } }
  others := [(8, { (wt 0).core with mat := { queue := [foll st], issued := 1 } })] }
def alone : State := { paired .queued with clk := 4096, others := [] }
def stale : State := { paired .queued with core := { (paired .queued).core with mat := { queue := [{ lead .queued with epoch := some 1 }], issued := 1 } } }

theorem wit_PairEvents :
    isCoreRank 0 = true ∧ partner 0 = 8 ∧
    (((paired .queued).unitAt 0).half = some (lead .queued) ∧ ((paired .queued).unitAt (partner 0)).half = some (foll .queued)) ∧
    Only (paired .queued) 0 .mat (lead .queued) ∧ Only (paired .queued) 8 .mat (foll .queued) ∧
    ((lead .queued).met = false ∧ (lead .queued).epoch = (foll .queued).epoch ∧ (lead .queued).epoch = some ((paired .queued).epoch 0) ∧
      ((paired .queued).unitAt 0).unit.ctx = ((paired .queued).unitAt 8).unit.ctx ∧ (paired .queued).railHigh 0 = (paired .queued).railHigh 8 ∧
      (paired .queued).withheld 0 = false ∧ (paired .queued).withheld 8 = false ∧
      isLead (lead .queued).word ≠ isLead (foll .queued).word ∧ (shapeOf (lead .queued).r0).m = (shapeOf (foll .queued).r0).m ∧
      (shapeOf (lead .queued).r0).k = (shapeOf (foll .queued).r0).k ∧ (shapeOf (lead .queued).r0).n ≤ 128) ∧
    ((alone.unitAt 0).half = some (lead .queued) ∧ (lead .queued).met = false ∧ (lead .queued).epoch = some (alone.epoch 0) ∧
      (lead .queued).since + 4096 ≤ alone.clk ∧ alone.partnerCame 0 (lead .queued) = false) ∧
    ((stale.unitAt 0).half = some { lead .queued with epoch := some 1 } ∧ some 1 ≠ some (stale.epoch 0)) :=
  ⟨by decide +kernel, by decide +kernel, by decide +kernel, only_ok (by decide +kernel), only_ok (by decide +kernel), by decide +kernel, by decide +kernel, by decide +kernel⟩

/-- An MVM of a D-core, an MMA of a P-core, and a pair, which run. -/
def mvmR : Cmd := { mvmC with st := .running }
def mmaR : Cmd := { mvmC with st := .running, word := wordOf (.mma 0#5 1#5 2#5 26#6 0#1) }
def mmaBusy : State := { wt 0 with core := (wt 0).core.setEngine .mat { queue := [mmaR], issued := 1 } }

theorem wit_MatrixResults :
    (onlyTest (busy .mat mvmR) 2304 .mat mvmR = true ∧ decode mvmR.word = .ok (.mvm 0#5 1#5 2#5 26#6 0#1) ∧ Accumulates 2304 mvmR ∧
      ((busy .mat mvmR).unitAt 2304).badLocal = [] ∧ ((busy .mat mvmR).unitAt 2304).badWb = []) ∧
    (onlyTest mmaBusy 0 .mat mmaR = true ∧ decode mmaR.word = .ok (.mma 0#5 1#5 2#5 26#6 0#1) ∧ Accumulates 0 mmaR) ∧
    (Only (paired .running) 0 .mat (lead .running) ∧ Only (paired .running) 8 .mat (foll .running) ∧ ((paired .running).unitAt 0).half = some (lead .running) ∧
      ((paired .running).unitAt (partner 0)).half = some (foll .running) ∧ partner 0 ≠ 0 ∧ ((paired .running).unitAt 0).badLocal = [] ∧
      ((paired .running).unitAt 8).badWb = [] ∧ isLead (lead .running).word ≠ isLead (foll .running).word) ∧
    Accumulates 0 (lead .running) ∧ Accumulates 8 (foll .running) :=
  ⟨⟨by decide +kernel, dec_ok (by decide +kernel), accumulates _ _ (by decide +kernel) (by decide +kernel), by decide +kernel, by decide +kernel⟩,
    ⟨by decide +kernel, dec_ok (by decide +kernel), accumulates _ _ (by decide +kernel) (by decide +kernel)⟩,
    ⟨only_ok (by decide +kernel), only_ok (by decide +kernel), by decide +kernel⟩,
    accumulates _ _ (by decide +kernel) (by decide +kernel), accumulates _ _ (by decide +kernel) (by decide +kernel)⟩

/-- A push to a ring of 4 slots, a promotion of stream 5 that read version 6, and a limiter with nothing active. -/
def push : PushMsg := { ctx := 3, rank := 2304, slot := 2, ring := tile 0xA000 4 256 256 7 true false 0 0xB000, index := 5, drop := 0, resync := false,
                        line := zeros 128, va := 0x2000#64, cls := 0, ident := 0 }
def pushed : State := { armed with pushes := [push] }
def promoteC : Cmd := { cmd (.promote 6#4) .running 0#128 0#128 with
  beat := 512, owns := some 2, aux := [0#64, 0x20000#64, 0#64, 0#64, mkPtr 4 0xFFF 0x5000, 6#64, 0#64] }
def promoting : State := { streamed strm 0#64 with core := { (streamed strm 0#64).core with cpe := { queue := [promoteC], issued := 1 } } }

theorem wit_PushAndRamp :
    (pushed.pushes[0]? = some push ∧ pushWaits (pushed.pushes.take 0) push = false ∧ push.line.length = 128 ∧
      (let r := tileOf push.ring; let off := r.off + push.index % r.rows * r.stride; off + 256 ≤ r.awo ∨ r.awo + 16 ≤ off)) ∧
    Holds pushed.mem (localKey push.rank (tileOf push.ring).awo) 16 (512 + 256 * 2 ^ 32 + 0xFFFFFFFF * 2 ^ 64) ∧
    Only promoting 2304 .cpe promoteC ∧
    (promoteC.promoteDue = true ∧ promoteC.aux.length = 7 ∧
      promoting.stream? (promoting.unitAt 2304).unit.ctx (offOf (promoteC.aux.getD 4 0#64) / 4096) = some strm ∧ strm.version ≠ (promoteC.aux.getD 5 0#64).toNat ∧
      promoting.pageRec (promoting.unitAt 2304).unit.ctx 2 = none) ∧
    (∀ k ∈ [3, 4, 11], let s : State := { w0 with clk := k }
     (∀ u ∈ s.units, u.2.mat.queue = []) ∧ ∀ l ∈ [(s.die 36).limHigh, (s.die 36).limLow], l.recent = [] ∧ l.past = [] ∧ (s.clk - l.opened) / 4 = k / 4) :=
  ⟨by decide +kernel, by unfold Holds; decide +kernel, only_ok (by decide +kernel), by decide +kernel, by decide +kernel⟩

/-- A limiter of level 9, whose slots are 0, 0, 1, 1, 2, 2, 3 and 3; the one command is eligible since 1. -/
theorem wit_PushAndRamp_grant :
    let c : Cmd := { mvmC with eligible := some 1 }
    let s := { (busy .mat c).modDie 36 fun d => { d with limHigh := { level := 9 } } with clk := 2 }
    (s.clk - ((s.die 36).limiter true).opened) / 4 = 0 ∧ s.limited 36 true = [2304] ∧ s.eligibleCmd 2304 = some c ∧ isMmap c.word = false ∧
      s.slotsTaken 36 true = [] ∧ ((s.die 36).limiter true).slots.filter (fun x => decide (x ≤ s.clk)) = [0, 0] ++ 1 :: [1, 2, 2] ∧ 0 < 1 := by decide +kernel

/-! ## Witnesses: synchronisation engines, queues, scheduling, power, fabric -/

/-- An operation waits at the engine of die 36. -/
def operating (k : SyncKind) : State := { withVar k [waiter] with
  dies := [(36, { syncs := [{ ctx := 3, off := 0x40, kind := k, waiters := [waiter] }], syncOps := [{ ctx := 3, ptr := mkPtr 3 2304 0x40, amount := 1 }, { ctx := 3, ptr := mkPtr 3 2304 0x80, amount := 1 }] })] }

theorem wit_EngineOperations_engine :
    (∀ n, ((operating (.counter n)).die 36).syncOps = { ctx := 3, ptr := mkPtr 3 2304 0x40, amount := 1 } :: [{ ctx := 3, ptr := mkPtr 3 2304 0x80, amount := 1 }]) ∧
    (∀ n, (operating (.counter n)).syncVar 36 3 (offOf (mkPtr 3 2304 0x40) / 16 * 16) = some { ctx := 3, off := 0x40, kind := .counter n, waiters := [waiter] }) ∧
    (operating (.barrier 2 0 0)).syncVar 36 3 (offOf (mkPtr 3 2304 0x40) / 16 * 16) = some { ctx := 3, off := 0x40, kind := .barrier 2 0 0, waiters := [waiter] } ∧
    (let s := w0.modDie 36 fun d => { d with syncOps := [{ ctx := 3, ptr := mkPtr 3 2304 0x80, amount := 1 }] }
     s.syncVar 36 3 (offOf (mkPtr 3 2304 0x80) / 16 * 16) = none ∧ (s.ctx? 3).any (fun c => !c.killed) = true) :=
  ⟨fun _ => rfl, fun _ => rfl, rfl, by decide +kernel⟩

/-- Core 2305 waits in a word after n looks; the variable at SYNC offset 0x40 has a kind; GEN of its arrival word is g; its copy engine
holds one queued command, the first; g19 holds a channel handle. -/
def spinning (i : Instr) (n : Nat) (k : SyncKind) (g : Byte) : State := { wg with
  mem := wg.mem ++ [(localKey 2305 0x10B, g)], dies := [(36, { syncs := [{ ctx := 3, off := 0x40, kind := k }], slTime := [{ ctx := 3, chan := 1, issued := 1 }] })]
  others := [(2305, { wg.core with stall := .spin n, ir := { word := wordOf i }, cpe := { issued := 1, queue := [{ word := wordOf (.cpin 0#5 24#6 0#1), num := 1, seq := 0, idx := 0, pos := 0x1000#64 }] }
                                   unit := { running with isStep := false, arvDone := some { pc := 0x1000#64, var := mkPtr 3 0xFFF 0x40, phase := 1 } } })] }

/-- The unit in focus, as it looks. -/
def looking (i : Instr) (k : SyncKind) (g : Byte) : State := (spinning i 4 k g).focus 2305

/-- What the limit's expiry asks of the unit: it is quiet, and its pool gives an object while the engine has room. -/
def expiryTest (s : State) (i : Instr) (looked : State) : Bool :=
  let f := s.focus 2305
  decodeTest i (s.unitAt 2305).ir.word && (s.unitAt 2305).unit.ctx == 3 && (s.unitAt 2305).unit.running && !s.stopping 3 && f.ctx == 3 && s.cur != 2305 && decide ((s.unitAt 2305).stall = .spin 4) &&
    decide ((s.unitAt 2305).ctl.spinl ≤ 4) && decide (f.core.stores = [] ∧ f.core.badLocal = [] ∧ ∀ c ∈ f.core.cmdsAll, c.st ≠ .running) && !looked.core.faultDue &&
    f.core.unit.origin.isNone && f.core.half.isNone &&
    popTest (fun _ s1 => decide ((s1.die 36).sramUsed + 16 ≤ 2 ^ 22)) (looked.popPool 36 3 f.core.objSize)

theorem atVar_of {s : State} {p : Word} {off : Nat} (h : (decide (s.core.unit.packets = 0) && excTest (fun _ => false) (fun x => x == (36, off)) (s.syncPtr p) &&
    s.reaches (dieOf s.cur) 36) = true) : AtVar s p 36 off := by
  simp only [Bool.and_eq_true, decide_eq_true_eq] at h
  obtain ⟨x, e, hx⟩ := exc_ok h.1.2
  rw [beq_iff_eq] at hx; subst hx
  exact ⟨h.1.1, e, h.2⟩

/-- A variable of `spinning`. -/
def var (k : SyncKind) : SyncVar := { ctx := 3, off := 0x40, kind := k }

/-- CTRWAIT on a counter of 0 and of 1. -/
theorem wit_EngineOperations_counter : ∀ n ∈ ([0, 1] : List Int), let i : Instr := .ctrwait 3#6
    let f := looking i (.counter n) 0#8
    Looks f i (n ≤ 0) 3 (f.useVar 36 (var (.counter n))) (SyncRoom · 36) (ParkedAt · f.ctx 36 0x40) ∧
      expiryTest (spinning i 4 (.counter n) 0#8) i (f.useVar 36 (var (.counter n))) = true := by
  intro n hn i f
  refine ⟨.inl ⟨3#6, 36, 0x40, var (.counter n), n, rfl, atVar_of ?_, ?_, rfl, Iff.rfl, rfl, rfl, rfl, rfl⟩, ?_⟩ <;> (revert n; decide +kernel)

/-- BARWAIT of phase 0, and a BARARV .w that returned phase 1, on a barrier of phase 0 and of 1. -/
theorem wit_EngineOperations_barrier : ∀ ph ∈ ([0, 1] : List Nat),
    (let i : Instr := .barwait 3#6 0#6
     let f := looking i (.barrier 2 0 ph) 0#8
     Looks f i (ph ≠ (f.reg 0#6).toNat % 2 ^ 32) 3 ((f.useVar 36 (var (.barrier 2 0 ph))).setArrived none) (SyncRoom · 36) (ParkedAt · f.ctx 36 0x40) ∧
       expiryTest (spinning i 4 (.barrier 2 0 ph) 0#8) i ((f.useVar 36 (var (.barrier 2 0 ph))).setArrived none) = true) ∧
    (let i : Instr := .bararv 9#6 3#6 1#1
     let f := looking i (.barrier 2 0 ph) 0#8
     Looks f i (ph ≠ 1) 3 (f.useVar 36 (var (.barrier 2 0 ph))) (SyncRoom · 36) (ParkedAt · f.ctx 36 0x40) ∧
       expiryTest (spinning i 4 (.barrier 2 0 ph) 0#8) i (f.useVar 36 (var (.barrier 2 0 ph))) = true) := by
  intro ph hp
  refine ⟨⟨.inr (.inl ⟨3#6, 0#6, 36, 0x40, var (.barrier 2 0 ph), 2, 0, ph, rfl, atVar_of ?_, ?_, rfl, Iff.rfl, rfl, rfl, rfl, rfl⟩), ?_⟩,
    ⟨.inr (.inr (.inl ⟨9#6, 3#6, { pc := 0x1000#64, var := mkPtr 3 0xFFF 0x40, phase := 1 }, 36, 0x40, var (.barrier 2 0 ph), 2, 0, ph, rfl, ?_, atVar_of ?_, ?_, rfl, Iff.rfl, rfl, rfl, rfl, rfl⟩)), ?_⟩⟩ <;>
    (revert ph; decide +kernel)

/-- TLWAIT on the copy engine and on a channel for values 0 and 1; ARWAIT g1, g0 with GEN 0 and 2^31. -/
theorem wit_EngineOperations_timeline :
    (∀ r ∈ ([8, 0] : List Nat), let i : Instr := .tlwait 2#6 (BitVec.ofNat 6 r) 0#6 0#2
     let f := looking i (.counter 0) 0#8
     Looks f i ((f.reg (BitVec.ofNat 6 r)).toNat ≤ f.core.cpe.completed) 2 f (fun _ => True) (fun t o => IsReady t o ∨ o ∈ (t.die o.hdie).homeWait) ∧
       expiryTest (spinning i 4 (.counter 0) 0#8) i f = true) ∧
    (∀ r ∈ ([8, 0] : List Nat), let i : Instr := .tlwait 3#6 (BitVec.ofNat 6 r) 19#6 3#2
     let f := looking i (.counter 0) 0#8
     Looks f i ((f.reg (BitVec.ofNat 6 r)).toNat ≤ (f.slTimeline 36 1 f.ctx).completed) 3 f (SyncRoom · 36) (fun t o => o ∈ (t.slTimeline 36 1 f.ctx).waiters) ∧
       expiryTest (spinning i 4 (.counter 0) 0#8) i f = true) ∧
    (∀ g ∈ ([0#8, 0x80#8] : List Byte), let i : Instr := .arwait 1#6 0#6
     let f := looking i (.counter 0) g
     Looks f i ((g.toNat * 2 ^ 24 + 2 ^ 32 - (f.reg 0#6).toNat) % 2 ^ 32 < 2 ^ 31) 0 f (fun _ => True) IsReady ∧ expiryTest (spinning i 4 (.counter 0) g) i f = true) := by
  refine ⟨fun r hr => ⟨.inr (.inr (.inr (.inl ⟨2#6, BitVec.ofNat 6 r, 0#6, 0#2, rfl, by decide, ?_, ?_, Iff.rfl, by decide, rfl, rfl, rfl⟩))), ?_⟩,
    fun r hr => ⟨.inr (.inr (.inr (.inr (.inl ⟨3#6, BitVec.ofNat 6 r, 19#6, 36, 1, 0, 40, rfl, ?_, ?_, ?_, ?_, Iff.rfl, by decide, rfl, rfl, rfl⟩)))), ?_⟩,
    fun g hg => ⟨.inr (.inr (.inr (.inr (.inr ?_)))), ?_⟩⟩
  iterate 8 (· first | with_reducible exact asks_nothing (by revert r; decide +kernel) | (revert r; decide +kernel))
  · obtain ⟨o, e, h⟩ := exc_ok (a := (looking (.arwait 1#6 0#6) (.counter 0) g).arrivalPtr ((looking (.arwait 1#6 0#6) (.counter 0) g).reg 1#6)) (p := fun o => o == 0x100)
      (by revert g; decide +kernel)
    obtain rfl : o = 0x100 := by simpa using h
    exact ⟨1#6, 0#6, 0x100, g.toNat * 2 ^ 24, rfl, by clear e; revert g; decide +kernel, by clear e; revert g; decide +kernel, e, by clear e; revert g; decide +kernel, by clear e; revert g; decide +kernel,
      by clear e; unfold Holds; revert g; decide +kernel, Iff.rfl, rfl, rfl, rfl, rfl⟩
  · revert g; decide +kernel

/-- A spawn packet for the own queue of a core, one for a die, one for memory-side units. -/
def msg (core : Option Nat) (memSide : Bool) (away : Option Nat := none) : SpawnMsg := { away := away, from_ := 2304, die := 36, core := core, memSide := memSide, pkt := { ctx := 3, entry := 0x2000#64, g1 := 1#64, g2 := 2#64, prio := 1, sptop := 0, lkeep := 0#32 } }

theorem wit_QueueEvents :
    (∀ c m a, ({ w0 with spawns := [msg c m a] } : State).spawns[0]? = some (msg c m a) ∧ w0.reaches (dieOf (msg c m a).from_) (msg c m a).die = true ∧
      ∀ x ∈ ({ w0 with spawns := [msg c m a] } : State).spawns.take 0, x.from_ ≠ 2304) ∧
    (let s : State := { w0 with head := { sweeps := [{ theSweep with admitted := false }] } }
     s.sweep? 1 = some { theSweep with admitted := false } ∧ ∀ d ∈ theSweep.dies, ((s.die d).sweeps.filter fun x => !x.reported).length < 64) ∧
    (let s : State := { w0 with head := { sweeps := [{ theSweep with admitted := false }] }, dies := [(36, { sweeps := (List.range 64).map fun k => { id := k + 2 } })] }
     ∃ d ∈ theSweep.dies, 64 ≤ ((s.die d).sweeps.filter fun x => !x.reported).length) ∧
    (let s : State := { swept with dies := [(36, { sweeps := [{ id := 1 }] })] }
     dieSweep s 36 1 = some { id := 1 }) ∧
    (∀ ds ∈ ([[36], [36, 37]] : List (List Nat)),
     let w := { theSweep with dies := ds }
     let x : DieSweep := { id := 1, expanded := true, done := List.range (w.count 36) }
     let s : State := { w0 with head := { sweeps := [w] }, dies := [(36, { sweeps := [x] })] }
     s.sweep? 1 = some w ∧ dieSweep s 36 1 = some x ∧ w.stop = false ∧ x.reported = false ∧ x.done.length = w.count 36 ∧ w.record.signals 1 = [] ∧ w.record.signals 0 = []) ∧
    ([{ theSweep with via := none }, { theSweep with via := some 0 }, { theSweep with via := some 2 }].map (·.via) = [none, some 0, some 2]) := by
  refine ⟨fun c m a => ⟨rfl, rfl, fun x hx => by cases hx⟩, by decide +kernel, by decide +kernel, by unfold dieSweep; decide +kernel, by unfold dieSweep; decide +kernel, rfl⟩

/-- Core 2305 is free, with the dictionary of the kernel at 0x2000, and has run for context 3 last. -/
def idle (d : Die) (w : List Sweep) : State := { wg with
  others := [(2305, { dict := { ptr := 0x2040#64, count := 0 }, lastCtx := some 3 })], dies := [(36, d)], head := { sweeps := w } }
def ownPacket : Item := { work := .packet { ctx := 3, entry := 0x2000#64, g1 := 1#64, g2 := 2#64, prio := 1, sptop := 0, lkeep := 0#32 }, prio := 1, ready := 0 }

def headerTest (r : Option (Word × Nat) × State) : Bool := r.1 == some (0x2040#64, 0)

theorem header_ok {r : Option (Word × Nat) × State} (h : headerTest r = true) : ∃ s1, r = (some (0x2040#64, 0), s1) :=
  ⟨_, fst_eq (by simpa [headerTest] using h)⟩

theorem wit_WorkStarts :
    (let s := idle { priv := [(2305, ownPacket)] } []
     isCoreRank 2305 = true ∧ Free (s.unitAt 2305) ∧ (s.die 36).ready = [] ∧ (s.die 36).reserve = [] ∧ s.groupCands 36 = [] ∧ ownPacket.asked = [] ∧ (s.unitAt 2305).dict.ptr = 0x2040#64 ∧
       (s.unitAt 2305).dict.count = 0 ∧ (s.die 36).priv = [(2305, ownPacket)] ∧ (s.die 36).sweeps = [] ∧ (s.unitAt 2305).lastCtx = some 3) ∧
    headerTest (((idle { priv := [(2305, ownPacket)] } []).modDie 36 fun x => { x with priv := [] }).readHeader 36 3 0x2000#64) = true ∧
    (let x : DieSweep := { id := 1, expanded := true }
     let w := { theSweep with record := { sweepRec with order := [1] } }
     let s := idle { sweeps := [x] } [w]
     Free (s.unitAt 2305) ∧ (s.die 36).priv = [] ∧ (s.die 36).sweeps = [x] ∧ s.sweep? x.id = some w ∧ s.mayHand w = true ∧ w.record.mode ≠ 2 ∧ x.expanded = true ∧ x.asked = [] ∧ s.groupCands 36 = [] ∧ (s.die 36).reserve = [] ∧
       x.nextStep w 36 = some 0) ∧
    headerTest ((idle { sweeps := [{ id := 1, expanded := true }] } [theSweep]).readHeader 36 3 0x2000#64) = true := by
  unfold Free; decide +kernel

/-- The objects PARKED, RUNNING and DISCARDED at 0x80000, 0x90000 and 0xA0000, and a free core and a free memory-side unit. -/
def idleObj (d : Die) : State := { w0 with
  mem := pages ++ objectAt 0x80000 (cs 2) ++ objectAt 0x90000 (cs 3) ++ objectAt 0xA0000 (cs 4)
  tags := [(0x1000, 0), (0x1100, 0), (0x1200, 0), (0x8000, 1), (0x8001, 1), (0x8005, 1), (0x8006, 1), (0x9000, 1), (0x9001, 1), (0x9005, 1), (0x9006, 1),
    (0xA000, 1), (0xA001, 1), (0xA005, 1), (0xA006, 1)]
  others := [(2305, {}), (2360, {})], dies := [(36, d)] }
def objItem (p : Word) (run : Bool) (v cls : Nat) : Item := { work := .object { waiter with ptr := p, running := run, version := v, cls := cls }, prio := 1, ready := 0 }

/-- A packet from the ready queue of a die, for a core and for a memory-side unit. -/
theorem wit_WorkStarts_ready :
    (let s := idle { ready := [ownPacket] } []
     ¬classOf 2305 = 2 ∧ Free (s.unitAt 2305) ∧ (s.die 36).ready = [ownPacket] ∧ (s.die 36).reserve = [] ∧ (s.die 36).priv = [] ∧ (s.die 36).sweeps = [] ∧ s.groupCands 36 = [] ∧
       ownPacket.asked = [] ∧ headerTest ((s.modDie 36 fun x => { x with ready := [] }).readHeader 36 3 0x2000#64) = true) ∧
    (let s := { idle { memReady := [ownPacket] } [] with others := [(2360, { dict := { ptr := 0x2040#64, count := 0 }, lastCtx := some 3 })] }
     isMemRank 2360 = true ∧ classOf 2360 = 2 ∧ Free (s.unitAt 2360) ∧ (s.die 36).memReady = [ownPacket] ∧ (s.die 36).reserve = [] ∧ (s.unitAt 2360).lastCtx = some 3 ∧
       headerTest ((s.modDie 36 fun x => { x with memReady := [] }).readHeader 36 3 0x2000#64) = true) := by
  unfold Free; decide +kernel

/-- A core takes the object PARKED with version 5, the RUNNING one, and drops records of version 4 and of the DISCARDED one; a memory-side
unit takes one of its class. -/
theorem wit_WorkStarts_object :
    (∀ x ∈ [(objItem 0x80000#64 false 5 1, 2), (objItem 0x90000#64 true 5 1, 3), (objItem 0x80000#64 false 4 1, 2), (objItem 0xA0000#64 false 5 1, 4)],
     let s := idleObj { ready := [x.1] }
     Free (s.unitAt 2305) ∧ (s.die 36).reserve = [] ∧ (s.die 36).ready = [x.1] ∧ (s.die 36).priv = [] ∧ (s.die 36).sweeps = [] ∧ s.groupCands 36 = [] ∧ x.1.asked = [] ∧
       classOf 2305 = 1 ∧ okTest (fun c _ => c.state == x.2 && c.version == 5) ((s.modDie 36 fun x => { x with ready := [] }).cstate 36 3 (match x.1.work with | .object o => o.ptr | _ => 0#64)) = true) ∧
    (let s := idleObj { memReady := [objItem 0x80000#64 false 5 2] }
     Free (s.unitAt 2360) ∧ classOf 2360 = 2 ∧ okTest (fun c _ => c.state == 2 && c.version == 5) ((s.modDie 36 fun x => { x with memReady := [] }).cstate 36 3 0x80000#64) = true) := by
  unfold Free; decide +kernel

/-- A core that has taken the PARKED object. -/
def taken : State := { w0 with
  mem := pages ++ objectAt 0x80000 (cs 2), tags := [(0x1000, 0), (0x1100, 0), (0x1200, 0), (0x8000, 1), (0x8001, 1), (0x8005, 1), (0x8006, 1)]
  others := [(2305, { starting := some { waiter with version := 5 } })] }

def taskTest2 (s : State) (o : ObjRec) (s1 : State) : Bool :=
  okTest (fun _ _ => true) (s1.ctxRead 36 o.ctx o.ptr.toNat (0x3000 + 128 * ((s.objField 36 o.ctx o.ptr 0x58 + 127) / 128) + s.objField 36 o.ctx o.ptr 0x5C))
def taskTest (s : State) (o : ObjRec) : Bool := s.outst 36 o.ctx o.ptr == 0 && o.value.isNone && okTest (fun _ s1 => taskTest2 s o s1) (s.cstate 36 o.ctx o.ptr)

theorem wit_PlacementEvents_start : (taken.unitAt 2305).starting = some { waiter with version := 5 } ∧ taskTest taken { waiter with version := 5 } = true ∧
    (taken.unitAt 2305).unit.running = false := by decide +kernel

/-- A pipeline sweep whose group takes 2 by 1 cores, and a saved group of the same shape; the cores have the kernel's dictionary. -/
def pipe : Sweep := { theSweep with record := { sweepRec with mode := 2, group := 0xA0000#64, dmask := 2 ^ 36 } }
def twoByOne : GroupDesc := { w := 2, h := 1, nstg := 2, oc := 0, ok := 0, rmask := 0, hops := [(1, 0)], reserved := false }
def image : GroupImage := { ctx := 3, desc := twoByOne, c0 := 0, k0 := 0, die := 36, w := 2, h := 1, stages := [], prio := 1, sweep := 1, stepNo := 0, handedBy := 36, group := 1 }
def imageItem : Item := { work := .image image, prio := 1, ready := 0 }
def pipeSweep : DieSweep := { id := 1, expanded := true }
def stageCore : Core := { dict := { ptr := 0x2040#64, count := 0 }, lastCtx := some 3 }
def piped : State := { wr [] with cur := 2310, others := [(2304, stageCore), (2312, stageCore)], dies := [(36, { sweeps := [pipeSweep] })], head := { sweeps := [pipe] } }
def imaged : State := { w0 with cur := 2310, dies := [(36, { ready := [imageItem] })] }
def pipeCand : Cand := { kind := 2, index := 1, base := 1, ready := 0, key := .sweep 1 0, group := true }
def imageCand : Cand := { itemCand 1 0 imageItem with group := true }

def stagesTest (d : GroupDesc) (x : Option (Word × Nat)) (s2 : State) : Bool := x == some (0x2040#64, 0) &&
  (d.ranks 36 0 0).length == 2 && (d.ranks 36 0 0).all fun r => (s2.unitAt r).lastCtx == some 3 && (s2.unitAt r).dict.ptr == 0x2040#64 && (s2.unitAt r).dict.count == 0

def groupTest (s : State) : Bool := someTest (fun d s1 => d.valid pipe.record.dmask && s1.freeRect 36 1 d.w d.h == some (0, 0) &&
  stagesTest d (s1.readHeader 36 3 0x2000#64).1 (s1.readHeader 36 3 0x2000#64).2) (s.readGroup 36 3 0xA0000#64)

theorem wit_PlacementEvents_group :
    ((piped.sweepCands 36 true).find? (fun c => c.index = 1) = some pipeCand ∧ piped.groupWins 36 pipeCand = true ∧ piped.sweep? 1 = some pipe ∧
      dieSweep piped 36 1 = some pipeSweep ∧ pipeSweep.nextStep pipe 36 = some 0) ∧ groupTest piped = true ∧
    ((imaged.die 36).ready[0]? = some imageItem ∧ 0 < image.w ∧ 0 < image.h ∧ imaged.groupWins 36 imageCand = true ∧
      imaged.freeRect 36 (2 ^ 32 + image.group) image.w image.h = some (0, 0)) := by
  unfold dieSweep; decide +kernel

theorem groupTest_ok {s : State} (h : groupTest s = true) : ∃ d s1 s2, s.readGroup 36 3 0xA0000#64 = (some d, s1) ∧ d.valid pipe.record.dmask = true ∧
    s1.freeRect 36 1 d.w d.h = some (0, 0) ∧ s1.readHeader 36 3 0x2000#64 = (some (0x2040#64, 0), s2) ∧
    ∀ r ∈ d.ranks 36 0 0, (s2.unitAt r).lastCtx = some 3 ∧ (s2.unitAt r).dict.ptr = 0x2040#64 ∧ (s2.unitAt r).dict.count = 0 := by
  obtain ⟨d, s1, e, h⟩ := fst_some h
  simp only [stagesTest, Bool.and_eq_true, beq_iff_eq, List.all_eq_true] at h
  exact ⟨d, s1, _, e, h.1.1, h.1.2, fst_eq h.2.1.1, fun r hr => ⟨(h.2.2 r hr).1.1, (h.2.2 r hr).1.2, (h.2.2 r hr).2⟩⟩

/-- The group candidates have been the best for 4096 clk: the image, and the sweep. -/
theorem wit_PlacementEvents_reserve :
    ∀ x ∈ [({ imaged with clk := 4096, dies := [(36, { ready := [imageItem], best := some ⟨imageCand.key, 0⟩ })] }, imageCand),
           ({ piped with clk := 4096, dies := [(36, { sweeps := [pipeSweep], best := some ⟨pipeCand.key, 0⟩ })] }, pipeCand)],
      (x.1.groupCands 36)[0]? = some x.2 ∧ bestCand x.1.clk (x.1.dieCands 36 false) = some x.2 ∧ (x.1.die 36).best = some ⟨x.2.key, 0⟩ ∧ 0 + 4096 ≤ x.1.clk ∧
        x.1.shapeOf 36 x.2 = some (2, 1) ∧ (x.1.die 36).reserve = [] ∧ x.1.bestRect 36 2 1 = some (0, 0) := by decide +kernel

/-- A waiting packet of priority 3 has been the best candidate for 2048 clk; core 2304 runs at priority 1. -/
theorem wit_PlacementEvents_request :
    let i : Item := { ownPacket with prio := 3 }
    let c : Cand := itemCand 1 0 i
    let s : State := { w0 with dies := [(36, { ready := [i], best := some ⟨c.key, 0⟩ })], clk := 2048 }
    (s.die 36).memReady = [] ∧ bestCand s.clk (s.dieCands 36 false) = some c ∧ (s.die 36).best = some ⟨c.key, 0⟩ ∧ 0 + 2048 ≤ s.clk ∧
      s.askedStill (s.askedOf 36 false c) = false ∧ s.victim (s.rivalsOf 36 false c) c.base = some 2304 ∧ (s.unitAt 2304).unit.group = none := by decide +kernel

/-- A pre-emption deadline that is over. -/
def overdue : State := { wg with core := { wg.core with ctl := { wg.core.ctl with prq := true, pdl := 0 } } }

theorem wit_PlacementEvents_save :
    (overdue.unitAt 2304).unit.running = true ∧ (overdue.unitAt 2304).ctl.prq = true ∧ (overdue.unitAt 2304).ctl.pdl = 0 ∧
    (((overdue.undoLate 2304).drain 2304 allClasses).unitAt 2304).savable = true ∧ ((((overdue.undoLate 2304).drain 2304 allClasses).settleEngines 2304).unitAt 2304).faultDue = false ∧
    (((overdue.undoLate 2304).drain 2304 allClasses).settleEngines 2304).settledEngines 2304 = true ∧
    popTest (fun _ _ => true) ((((overdue.undoLate 2304).drain 2304 allClasses).settleEngines 2304).popPool 36 ((((overdue.undoLate 2304).drain 2304 allClasses).settleEngines 2304).unitAt 2304).unit.ctx
      ((((overdue.undoLate 2304).drain 2304 allClasses).settleEngines 2304).unitAt 2304).objSize) = true := by decide +kernel

theorem wit_PowerEvents :
    (-161 < (-160 : Int) ∧ (1200 : Int) < 1201 ∧ 5 ∉ w0.power.failed) ∧
    (let s := w0.modCluster 36 2 fun c => { c with cleared := some (10, false), pendingRail := some false, alloc := some 10, used := 50000, ordered := 3 }
     let s' : State := { s with clk := 4 }
     (s.clk < ((s.die 36).limiter (s.cluster 36 2).railHigh).opened + 4 ∧ ((s'.die 36).limiter (s'.cluster 36 2).railHigh).opened + 4 ≤ s'.clk ∧ (s'.cluster 36 2).ordered < 0 + (s'.clk - 0) / 4 * 4 ∧ ((s'.die 36).limiter true).opened = 0) ∧
     (36, 2) ∈ allClusters ∧ (s.cluster 36 2).cleared = some (10, false) ∧ (s.cluster 36 2).joining = false ∧ s.pairBusy 36 2 = false ∧ (s.cluster 36 2).pendingRail = some false ∧
       false ≠ (s.cluster 36 2).railHigh ∧ (s.cluster 36 2).alloc = some 10 ∧ 10 * 5000 ≤ (s.cluster 36 2).used) := by decide +kernel

theorem wit_MarketWithinBudget : 4648 ≤ w0.power.pbudget ∧ 4648 ≤ ({ w0 with power := { w0.power with pbudget := 4648 } } : State).power.pbudget ∧
    ∃ t, exec .epochEnd w0 = .next t := ⟨by decide +kernel, by decide +kernel, _, rfl⟩

/-- Requests of package 1: a load, a store and an atomic on package 0, and requests of this package that wait for their answers. -/
def linked : State := { wg with fab := { domain := [0, 1] } }
def ask (n : Nat) (u : FabUse) : FabReq := { id := 5, port := 3, seq := 9, rank := 2304, ctx := 3, loc := .global (2 ^ 41) {}, size := 8, use := u, replays := n }
def asked (u : FabUse) : State := { wg with
  fab := { domain := [0, 1], outstanding := [ask 19 u] }
  core := { wg.core with pend := some { loc := .global (2 ^ 41) {}, size := 8, sent := 5 }, stores := [{ storeE with seq := 4 }] } }

def addTest (s1 : State) (old : List Byte) (s2 : State) : Bool :=
  s1.core.stores.isEmpty && old.length == 8 && (s2.performWrite { cls := 3, ident := 4096, ctx := some 3 } 0x80020 { key := 1 } true (bytesOf 8 ((natOf old + 1) % 2 ^ 64))).1.isNone

theorem wit_FabricEvents :
    (∀ r ∈ linked.fab.responses, ¬(r.1 = 35 ∧ r.2.1 = 9)) ∧
    (let s : State := { linked with fab := { linked.fab with responses := [(35, 9, [], false)] } }
     ∃ r ∈ s.fab.responses, r.1 = 4096 / 4096 * 32 + 3 ∧ r.2.1 = 9) ∧
    linked.fabRefuses 4096 (.load 3 1 0x80000 8 0) = false ∧ linked.fabRefuses 8192 (.load 3 1 0x80000 8 0) = true ∧
    okTest (fun _ _ => true) (linked.readHome 0x80000 { key := 1, pol := 0 } (0 = 0) 8) = true ∧
    (let s : State := { linked with host := { linked.host with keyWork := [(1, 0, none)] } }
     s.keyBusy (fabKey (.load 3 1 0x80000 8 0)) = true) ∧
    (let s : State := { linked with hbm := [(0, { lost := [0x1000] })], ctxs := [(3, { cx with ckptOpen := true })] }
     okTest (fun _ _ => true) (s.readHome 0x80000 { key := 1, pol := 0 } (0 = 0) 8) = false ∧ s.fabRefuses 4096 (.load 3 1 0x80000 8 0) = false ∧
       (s.readHome 0x80000 { key := 1, pol := 0 } (0 = 0) 8).2.intervalOpen 3 = true) ∧
    (0x80000 % 128 + (zeros 8).length ≤ 128 ∧ 0 < (zeros 8).length ∧ (linked.stack (stackOf 0x80000)).bad = [] ∧ (linked.stack (stackOf 0x80000)).lost = [] ∧
      (linked.stack (stackOf 0x80000)).erased = [] ∧ (linked.stack (stackOf 0x80000)).badLanes = [] ∧ (linked.stack (stackOf 0x80000)).failedLines = [] ∧
      (linked.stack (stackOf 0x80000)).episodes = [] ∧ linked.keyId 1 = some 1) ∧
    okTest (fun old s1 => addTest linked old s1) (linked.readHome 0x80000 { key := 1 } true 8) = true ∧
    (∀ u ∈ ([.load, .store 4, .fetch, .copy 1] : List FabUse),
      (asked u).fab.outstanding.find? (fun x => decide (x.port = 3) && decide (x.seq = 9) && decide (19 ≤ x.replays)) = some (ask 19 u)) ∧
    ((asked .load).unitAt 2304).pend = some { loc := .global (2 ^ 41) {}, size := 8, sent := 5 } ∧
    (((asked (.store 4)).unitAt 2304).stores.find? (fun e => e.seq = 4) = some { storeE with seq := 4 } ∧ ((asked (.store 4)).ctx? 3).any (fun c => !c.killed) = true) ∧
    (31 < 32 ∧ 31 ∉ linked.fab.failed) ∧ (Sys2Proof.Machine.linked 32 33 = true ∧ (min 32 33, max 32 33) ∉ linked.fab.linksDown) ∧
    Sys2Proof.Machine.linked 32 63 = false ∧ Sys2Proof.Machine.linked 32 32 = false := by decide +kernel

/-! ## Admission, sluices, the host -/

/-- The package with its page tables and one region of GLOBAL memory, and a packet at the head of queue 2. -/
def wp (mem : List Host.Cell) (tags : List (Nat × Nat)) (p : List Byte) : State := { w0 with
  mem := pages ++ mem, tags := [(0x1000, 0), (0x1100, 0), (0x1200, 0)] ++ tags
  host := { w0.host with queues := [(2, 3)], packets := [(2, [p])] }
  head := { streams := [strm] } }
def wrec : List Byte → State := wp (region 0xA1000 recBytes) (regionTags 0xA1000 256)
def wstr : List Byte → State := wp (region 0xA2000 strmBytes) (regionTags 0xA2000 512)

/-- A packet of a kind is at the head of queue 2, which context 3 is bound to. -/
def headTest (s : State) (kind : Nat) (p : List Byte) : Bool :=
  !s.held && decide ((s.packetsOf 2).head? = some p) && s.mayAdmit 2 && decide (natAt p 0 1 = kind) && packetClean p &&
    decide (alGet 2 s.host.queues = some 3) && (s.ctx? 3).any fun x => !x.killed

theorem at_head {s : State} {kind : Nat} {p : List Byte} (h : headTest s kind p = true) : AtHead s 2 kind 3 p := by
  simp only [headTest, Bool.and_eq_true, Bool.not_eq_true', decide_eq_true_eq] at h
  obtain ⟨⟨⟨⟨⟨⟨z, a⟩, b⟩, c⟩, d⟩, e⟩, f⟩ := h
  obtain ⟨x, hx, k⟩ := opt_some f
  exact ⟨z, a, b, c, d, e, x, hx, by simpa using k⟩

def launchTest (s : State) (p : List Byte) : Bool := headTest s 1 p && okTest (fun b s1 => !s1.held && decide ((sweepRecOf b).mode ≠ 2) && (sweepRecOf b).fits b &&
  ((maskDies (sweepRecOf b).dmask).all fun d => s1.dieAllowed 3 d) && (sweepRecOf b).signal.all fun x => s1.signalFits 3 x)
  ((s.popPacket 2).headRead 3 (wordAt p 8) 256 256)

theorem launch_ok {s : State} {p : List Byte} (t : launchTest s p = true) : AtHead s 2 1 3 p ∧ ∃ b s1,
    (s.popPacket 2).headRead 3 (wordAt p 8) 256 256 = (.ok b, s1) ∧ s1.held = false ∧ (sweepRecOf b).mode ≠ 2 ∧ (sweepRecOf b).fits b = true ∧
    (∀ d ∈ maskDies (sweepRecOf b).dmask, s1.dieAllowed 3 d = true) ∧ ∀ x ∈ (sweepRecOf b).signal, s1.signalFits 3 x = true := by
  simp only [launchTest, Bool.and_eq_true] at t
  obtain ⟨b, s1, e, h⟩ := fst_ok t.2
  simp only [Bool.and_eq_true, Bool.not_eq_true', decide_eq_true_eq, List.all_eq_true] at h
  exact ⟨at_head t.1, b, s1, e, h.1.1.1.1, h.1.1.1.2, h.1.1.2, h.1.2, h.2⟩

def noLaunchTest (s : State) (p : List Byte) : Bool := headTest s 1 p && okTest (fun b s1 => !s1.held && decide ((sweepRecOf b).mode ≠ 2) && !(sweepRecOf b).fits b)
  ((s.popPacket 2).headRead 3 (wordAt p 8) 256 256)

theorem no_launch {s : State} {p : List Byte} (t : noLaunchTest s p = true) : AtHead s 2 1 3 p ∧ ∃ b s1,
    (s.popPacket 2).headRead 3 (wordAt p 8) 256 256 = (.ok b, s1) ∧ s1.held = false ∧ (sweepRecOf b).mode ≠ 2 ∧ (sweepRecOf b).fits b = false := by
  simp only [noLaunchTest, Bool.and_eq_true] at t
  obtain ⟨b, s1, e, h⟩ := fst_ok t.2
  simp only [Bool.and_eq_true, decide_eq_true_eq, Bool.not_eq_true'] at h
  exact ⟨at_head t.1, b, s1, e, h.1.1, h.1.2, h.2⟩

/-- A record with a set bit in its reserved bytes 15:14. -/
def wbad : List Byte → State := wp (region 0xA1000 (recBytes.set 14 1#8)) (regionTags 0xA1000 256)

theorem wit_QueuePackets_launch : launchTest (wrec (pkt 1 0xA1000#64 0)) (pkt 1 0xA1000#64 0) = true ∧ noLaunchTest (wbad (pkt 1 0xA1000#64 0)) (pkt 1 0xA1000#64 0) = true := by
  decide +kernel

def openTest (s : State) (p : List Byte) : Bool := headTest s 2 p && decide (s.head.streams.length + 2 ≤ 2 ^ 36) &&
  okTest (fun b s1 => !s1.held && (streamOf 3 0 b).fits b && s1.dieAllowed 3 (natAt b 0x58 1)) ((s.popPacket 2).headRead 3 (wordAt p 8) 256 512)

theorem open_ok {s : State} {p : List Byte} (t : openTest s p = true) : AtHead s 2 2 3 p ∧ s.head.streams.length + 2 ≤ 2 ^ 36 ∧ ∃ b s1,
    (s.popPacket 2).headRead 3 (wordAt p 8) 256 512 = (.ok b, s1) ∧ s1.held = false ∧ (streamOf 3 0 b).fits b = true ∧ s1.dieAllowed 3 (natAt b 0x58 1) = true := by
  simp only [openTest, Bool.and_eq_true, decide_eq_true_eq] at t
  obtain ⟨b, s1, e, h⟩ := fst_ok t.2
  simp only [Bool.and_eq_true, Bool.not_eq_true'] at h
  exact ⟨at_head t.1.1, t.1.2, b, s1, e, h.1.1, h.1.2, h.2⟩

theorem wit_QueuePackets_open : openTest (wstr (pkt 2 0xA2000#64 0)) (pkt 2 0xA2000#64 0) = true := by decide +kernel

/-- The pointer of stream 5, and the packets that name it: frames at C = 4, at G = 20 and at 3; a report of 10 positions, which P and G
allow; a close. -/
def sp : Word := mkPtr 4 0xFFF 0x5000

def frameTest (s : State) (p : List Byte) (a : Nat) : Bool := headTest s 3 p && decide (s.liveStream 3 (wordAt p 8) = some strm) && !s.snapBusy strm &&
  decide (wordAt p 24 = 0#64) && decide (wordAt p 32 = 0#64) && decide (natAt p 16 4 = a)

theorem frame_ok {s : State} {p : List Byte} {a : Nat} (t : frameTest s p a = true) : AtHead s 2 3 3 p ∧ s.liveStream 3 (wordAt p 8) = some strm ∧
    s.snapBusy strm = false ∧ wordAt p 24 = 0#64 ∧ wordAt p 32 = 0#64 ∧ natAt p 16 4 = a := by
  simp only [frameTest, Bool.and_eq_true, Bool.not_eq_true', decide_eq_true_eq] at t
  exact ⟨at_head t.1.1.1.1.1, t.1.1.1.1.2, t.1.1.1.2, t.1.1.2, t.1.2, t.2⟩

theorem wit_QueuePackets_frame : ∀ a ∈ [3, 4, 20], frameTest (wp [] [] (pkt 3 sp a)) (pkt 3 sp a) a = true := by decide +kernel

def reportTest (s : State) (kind : Nat) (p : List Byte) : Bool := headTest s kind p && decide (s.liveStream 3 (wordAt p 8) = some strm) &&
  (decide (kind = 5) && !((s.popPacket 2).freeBlocks strm 0 strm.nblk).held || !strm.tpend && decide (strm.p + natAt p 16 4 ≤ strm.g))

theorem report_ok {s : State} {kind : Nat} {p : List Byte} (t : reportTest s kind p = true) : AtHead s 2 kind 3 p ∧ s.liveStream 3 (wordAt p 8) = some strm ∧
    (kind = 5 ∧ ((s.popPacket 2).freeBlocks strm 0 strm.nblk).held = false ∨ strm.tpend = false ∧ strm.p + natAt p 16 4 ≤ strm.g) := by
  simp only [reportTest, Bool.and_eq_true, Bool.or_eq_true, Bool.not_eq_true', decide_eq_true_eq] at t
  exact ⟨at_head t.1.1, t.1.2, t.2⟩

theorem wit_QueuePackets_report : reportTest (wp [] [] (pkt 4 sp 10)) 4 (pkt 4 sp 10) = true ∧ reportTest (wp (bytes8 0x71000 0x9FFFFFFFF) [(0x7100, 1)] (pkt 5 sp 0)) 5 (pkt 5 sp 0) = true := by decide +kernel

/-- A batch that the descriptor of 0xA3000 opens, and 64 of them. -/
def batch : Batch := (batchOf 3 2 0xA3000#64 0 batchBytes).getD default
def wbat : List Byte → State := wp (region 0xA1000 recBytes ++ region 0xA3000 batchBytes ++ region 0xA3080 memberBytes) (regionTags 0xA1000 256 ++ regionTags 0xA3000 144)
def batches (n : Nat) (p : List Byte) : State := { wbat p with head := { (wbat p).head with batches := List.replicate n batch } }

def batchTest (s : State) (p : List Byte) : Bool := headTest s 6 p && okTest (fun b s1 => (batchOf 3 2 (wordAt p 8) s.time b).any fun x =>
  okTest (fun r s2 => !s2.held && decide (natAt r 8 1 = 1) && decide (natAt r 40 4 = 1)) (s1.headRead 3 x.record 256 256)) ((s.popPacket 2).headRead 3 (wordAt p 8) 128 128)

theorem batch_ok {s : State} {p : List Byte} (t : batchTest s p = true) : AtHead s 2 6 3 p ∧ ∃ b s1 x r s2,
    (s.popPacket 2).headRead 3 (wordAt p 8) 128 128 = (.ok b, s1) ∧ batchOf 3 2 (wordAt p 8) s.time b = some x ∧ s1.headRead 3 x.record 256 256 = (.ok r, s2) ∧ s2.held = false ∧
    natAt r 8 1 = 1 ∧ natAt r 40 4 = 1 := by
  simp only [batchTest, Bool.and_eq_true] at t
  obtain ⟨b, s1, e, h⟩ := fst_ok t.2
  obtain ⟨x, ex, hx⟩ := opt_some h
  obtain ⟨r, s2, er, hr⟩ := fst_ok hx
  simp only [Bool.and_eq_true, Bool.not_eq_true', decide_eq_true_eq] at hr
  exact ⟨at_head t.1, b, s1, x, r, s2, e, ex, er, hr.1.1, hr.1.2, hr.2⟩

theorem wit_QueuePackets_batch :
    (headTest (batches 64 (pkt 6 0xA3000#64 0)) 6 (pkt 6 0xA3000#64 0) = true ∧ 64 ≤ (batches 64 (pkt 6 0xA3000#64 0)).head.batches.length) ∧
    (batchTest (batches 63 (pkt 6 0xA3000#64 0)) (pkt 6 0xA3000#64 0) = true ∧ (batches 63 (pkt 6 0xA3000#64 0)).head.batches.length < 64) ∧
    headTest (batches 1 (pkt 7 0xA3000#64 0)) 7 (pkt 7 0xA3000#64 0) = true ∧ (batches 1 (pkt 7 0xA3000#64 0)).head.batches = [] ++ batch :: [] ∧ batch.ctx = 3 ∧
      batch.desc = wordAt (pkt 7 0xA3000#64 0) 8 := by decide +kernel

/-! A tick of the batch: its last sweep runs; it runs no longer and the member's stream can step. -/

def tickBusy (s : State) (b : Batch) : Bool := decide (s.head.batches[0]? = some b) && decide (b.due ≤ s.time) && (s.sweep? b.last).isSome &&
  okTest (fun _ _ => true) (s.ctxReadNat headDie b.ctx (b.desc.toNat + 36) 4)

theorem tick_busy {s : State} {b : Batch} (t : tickBusy s b = true) : s.head.batches[0]? = some b ∧ b.due ≤ s.time ∧ (s.sweep? b.last).isSome = true ∧
    ∃ v s1, s.ctxReadNat headDie b.ctx (b.desc.toNat + 36) 4 = (.ok v, s1) := by
  simp only [tickBusy, Bool.and_eq_true, decide_eq_true_eq] at t
  obtain ⟨v, s1, e, _⟩ := fst_ok t.2
  exact ⟨t.1.1.1, t.1.1.2, t.1.2, v, s1, e⟩

def tickRuns (s : State) (b : Batch) : Bool := decide (s.head.batches[0]? = some b) && decide (b.due ≤ s.time) && decide (s.sweep? b.last = none) &&
  decide (b.nmem = 1) && decide (1 ≤ b.nmax) && okTest (fun _ s1 => okTest (fun v s2 => (s2.liveStream b.ctx (BitVec.ofNat 64 v)).any fun x =>
    !x.tpend && decide (x.g < 16 * x.nblk) && decide (x.g < 2 ^ 31 - 1) &&
    let s3 := s2.headWrite b.ctx b.list.toNat (w8 (BitVec.ofNat 64 v) ++ bytesOf 4 x.version ++ bytesOf 4 x.g)
    let s4 := (s3.headWrite b.ctx (b.desc.toNat + 32) (bytesOf 4 0)).headWrite b.ctx (b.record.toNat + 16) (bytesOf 4 1)
    okTest (fun _ _ => true) (s4.admitSweep none b.ctx b.record)) (s1.ctxReadNat headDie b.ctx b.members.toNat 8))
    (s.ctxReadNat headDie b.ctx (b.desc.toNat + 32) 4)

theorem tick_runs {s : State} {b : Batch} (t : tickRuns s b = true) : s.head.batches[0]? = some b ∧ b.due ≤ s.time ∧ s.sweep? b.last = none ∧ b.nmem = 1 ∧
    1 ≤ b.nmax ∧ ∃ rot s1 v s2 x, s.ctxReadNat headDie b.ctx (b.desc.toNat + 32) 4 = (.ok rot, s1) ∧ s1.ctxReadNat headDie b.ctx b.members.toNat 8 = (.ok v, s2) ∧
      s2.liveStream b.ctx (BitVec.ofNat 64 v) = some x ∧ x.tpend = false ∧ x.g < 16 * x.nblk ∧ x.g < 2 ^ 31 - 1 ∧
      let s3 := s2.headWrite b.ctx b.list.toNat (w8 (BitVec.ofNat 64 v) ++ bytesOf 4 x.version ++ bytesOf 4 x.g)
      let s4 := (s3.headWrite b.ctx (b.desc.toNat + 32) (bytesOf 4 0)).headWrite b.ctx (b.record.toNat + 16) (bytesOf 4 1)
      ∃ id s5, s4.admitSweep none b.ctx b.record = (.ok id, s5) := by
  simp only [tickRuns, Bool.and_eq_true, decide_eq_true_eq] at t
  obtain ⟨⟨⟨⟨⟨h1, h2⟩, h3⟩, h4⟩, h5⟩, h⟩ := t
  obtain ⟨rot, s1, e1, h⟩ := fst_ok h
  obtain ⟨v, s2, e2, h⟩ := fst_ok h
  obtain ⟨x, e3, h⟩ := opt_some h
  simp only [Bool.and_eq_true, decide_eq_true_eq, Bool.not_eq_true'] at h
  obtain ⟨⟨⟨a, b⟩, c⟩, h⟩ := h
  obtain ⟨id, s5, e5, _⟩ := fst_ok h
  exact ⟨h1, h2, h3, h4, h5, rot, s1, v, s2, x, e1, e2, e3, a, b, c, id, s5, e5⟩

def ticking (b : Batch) : State := { wbat [] with head := { streams := [strm], sweeps := [theSweep], batches := [b] }, time := 5000 }

theorem wit_BatchAndSnapshot_tick : tickBusy (ticking { batch with last := 1 }) { batch with last := 1 } = true ∧ tickRuns (ticking batch) batch = true := by decide +kernel

/-- A copy of 8 bytes of stream 5 into slot 0 has ended while SSNAP of its unit waits. -/
def snapped : Stream := { strm with rsize := 8, snapbase := 0x50000#64 }
def snapping : State := { wg with
  core := { wg.core with stall := .control false }
  head := { streams := [snapped], snaps := [{ ctx := 3, handle := 5, slot := 0, pos := 16, version := 7, rank := 2304, bytes := bytesOf 8 5 }] } }

theorem wit_BatchAndSnapshot_snap :
    snapping.head.snaps[0]? = some { ctx := 3, handle := 5, slot := 0, pos := 16, version := 7, rank := 2304, bytes := bytesOf 8 5 } ∧
    snapping.stream? 3 5 = some snapped ∧ snapped.version = 7 ∧ (snapping.unitAt 2304).unit.running = true ∧ (snapping.unitAt 2304).unit.ctx = 3 ∧
    (snapping.unitAt 2304).stall = .control false ∧
    noneTest (fun _ => true) (({ snapping with head := { snapping.head with snaps := [] } } : State).ctxWriteBy { cls := 2, ident := 36, ctx := none } snapped.ddie 3
      (snapped.snapbase.toNat + 0 * snapped.rsize) (bytesOf 8 5)) = true ∧ snapped.ddie = 36 := by decide +kernel

/-! Packets that kill, save and restore context 3. -/

def wk (p : List Byte) : State := { wg with
  mem := wg.mem ++ region 0xA4000 listBytes
  tags := wg.tags ++ regionTags 0xA4000 16
  host := { wg.host with queues := [(2, 3)], packets := [(2, [p])] } }

/-- The record of a kill is written, with the units of the context at command boundaries or not. -/
def killTest (s : State) (p : List Byte) (rests : Bool) : Bool := headTest s 8 p && !s.stopping 3 &&
  (let r := (s.popPacket 2).putFatal 3 none 0x076 1 { packed := 0x076 }
   r.1 && !r.2.held && decide (r.2.atBoundary 3 = rests) && (!rests || !(r.2.killCtx 3 0x076 (some 2)).held) &&
     (r.2.ctx? 3).any fun k => !k.killed && k.stopDue.isNone && k.drop.isNone)

theorem kill_ok {s : State} {p : List Byte} {rests : Bool} (t : killTest s p rests = true) : AtHead s 2 8 3 p ∧ s.stopping 3 = false ∧ ∃ s1 k,
    (s.popPacket 2).putFatal 3 none 0x076 1 { packed := 0x076 } = (true, s1) ∧ s1.held = false ∧ s1.ctx? 3 = some k ∧ k.killed = false ∧
    k.stopDue = none ∧ k.drop = none ∧ s1.atBoundary 3 = rests ∧ (rests = true → (s1.killCtx 3 0x076 (some 2)).held = false) := by
  simp only [killTest, Bool.and_eq_true, Bool.or_eq_true, Bool.not_eq_true', decide_eq_true_eq] at t
  obtain ⟨⟨h1, h2⟩, ⟨⟨⟨h3, h4⟩, h5⟩, h6⟩, h7⟩ := t
  obtain ⟨k, ek, hk⟩ := opt_some h7
  simp only [Bool.and_eq_true, Bool.not_eq_true', Option.isNone_iff_eq_none] at hk
  exact ⟨at_head h1, h2, _, k, fst_eq h3, h4, ek, hk.1.1, hk.1.2, hk.2, h5, fun e => h6.resolve_left (by simp [e])⟩

/-- The package once the packet is taken and the unit has come to rest; and once the context is marked saved. -/
def rested (s : State) : State := (((s.popPacket 2).undoLate 2304).drain 2304 allClasses).settleEngines 2304
def marked (s : State) : State := (rested s).modCtx 3 fun x => { x with saved := true }

def saveTest (s : State) (p : List Byte) : Bool := headTest s 9 p &&
  decide ((s.units.filter fun u => u.2.unit.running && decide (u.2.unit.ctx = 3)).map (·.1) = [2304]) && (s.unitAt 2304).unit.running &&
  decide ((s.unitAt 2304).unit.ctx = 3) && ((rested s).unitAt 2304).atBoundary && (rested s).settledEngines 2304 &&
  okTest (fun _ s2 => !s2.held) ((marked s).saveUnit 2304)

theorem save_ok {s : State} {p : List Byte} (t : saveTest s p = true) : AtHead s 2 9 3 p ∧
    (s.units.filter fun u => u.2.unit.running && decide (u.2.unit.ctx = 3)).map (·.1) = [2304] ∧ (s.unitAt 2304).unit.running = true ∧ (s.unitAt 2304).unit.ctx = 3 ∧
    ((rested s).unitAt 2304).atBoundary = true ∧ (rested s).settledEngines 2304 = true ∧ ∃ o s2, (marked s).saveUnit 2304 = (.ok o, s2) ∧ s2.held = false := by
  simp only [saveTest, Bool.and_eq_true, decide_eq_true_eq] at t
  obtain ⟨⟨⟨⟨⟨⟨h1, h2⟩, h3⟩, h4⟩, h5⟩, h6⟩, h7⟩ := t
  obtain ⟨o, s2, e, h⟩ := fst_ok h7
  exact ⟨at_head h1, h2, h3, h4, h5, h6, o, s2, e, by simpa using h⟩

/-- No image of an object is among the ready items. -/
def noImagesTest (s : State) : Bool := s.dies.all fun d => d.2.ready.isEmpty

theorem no_images {s : State} (t : noImagesTest s = true) : NoImages s := by
  intro d hd i hi
  have := List.all_eq_true.1 t d hd
  rw [List.isEmpty_iff.1 this] at hi
  cases hi

def restoreTest (s : State) (p : List Byte) : Bool := headTest s 10 p && isDie (natAt p 16 4) &&
  okTest (fun l s1 => !s1.held && decide (l = [0x80000#64]) && s1.dieAllowed 3 (natAt p 16 4) && (s1.readyRec 3 (natAt p 16 4) 0x80000#64).1.isSome && noImagesTest s1)
    ((s.popPacket 2).objectList 3 (wordAt p 8))

theorem restore_ok {s : State} {p : List Byte} (t : restoreTest s p = true) : AtHead s 2 10 3 p ∧ isDie (natAt p 16 4) = true ∧ ∃ o s1 r,
    (s.popPacket 2).objectList 3 (wordAt p 8) = (.ok [o], s1) ∧ s1.held = false ∧ s1.dieAllowed 3 (natAt p 16 4) = true ∧ (s1.readyRec 3 (natAt p 16 4) o).1 = some r ∧ NoImages s1 := by
  simp only [restoreTest, Bool.and_eq_true] at t
  obtain ⟨l, s1, e, h⟩ := fst_ok t.2
  simp only [Bool.and_eq_true, Bool.not_eq_true', decide_eq_true_eq] at h
  obtain ⟨⟨⟨⟨hh, rfl⟩, hd⟩, hr⟩, hn⟩ := h
  obtain ⟨r, hr⟩ := Option.isSome_iff_exists.1 hr
  exact ⟨at_head t.1.1, t.1.2, _, s1, r, e, hh, hd, hr, no_images hn⟩

/-- A unit inside a word: a push has two registers left. -/
def midPush (s : State) : State := { s with core := { s.core with stall := .pushing 2 [] } }

theorem wit_ContainmentPackets_kill : killTest (wk (pkt 8 0#64 0)) (pkt 8 0#64 0) true = true ∧
    killTest (midPush (wk (pkt 8 0#64 0))) (pkt 8 0#64 0) false = true := by decide +kernel
/-- The pool's one object lies on a second page, with C = 1 and policy 1, in a block whose second line is lost: the writes of the image meet it (R243),
so that the test need not compute the image's 12 280 bytes. -/
def lostObject (p : List Byte) : State := { w0 with
  mem := (pages.filter fun c => decide (c.1 < 0x12008)) ++ bytes8 0x12008 (0x4000A07F + 2 ^ 52) ++ bytes8 0x20000 0x40001000 ++ bytes8 0x20008 0 ++ objectAt 0x40001000 (cs 0)
  tags := [(0x1000, 0), (0x1100, 0), (0x1200, 0), (0x2000, 1), (0x4000100, 1), (0x4000101, 1), (0x4000105, 1), (0x4000106, 1)]
  hbm := [(0, { lost := [0x40001080 / 128] })]
  host := { w0.host with queues := [(2, 3)], packets := [(2, [p])] } }

theorem wit_ContainmentPackets_save : saveTest (lostObject (pkt 9 0#64 0)) (pkt 9 0#64 0) = true := by decide +kernel
theorem wit_ContainmentPackets_restore : restoreTest (wk (pkt 10 0xA4000#64 36)) (pkt 10 0xA4000#64 36) = true := by decide +kernel

/-- An empty fatal slot: an error at trap level 2 is reported. -/
def atTwo (s : State) : State := { s with core := { s.core with ctl := { s.core.ctl with tlevel := 2#2 } } }

/-- Core 36 × 64 + 1 runs for the context too, inside a push. -/
def besidePush (s : State) : State := { s with others := s.others ++ [(2305, { s.core with stall := .pushing 2 [] })] }

def levelTwoKill (s : State) (l : LastTrap) (rests : Bool) : Bool :=
  let s0 : State := { s with core := { s.core with stall := .none } }
  decide (s.core.ctl.tlevel = 2#2) && !s.intervalOpen s.ctx && s.core.unit.running && (s.ctx? s.ctx).isSome &&
  (let r := s0.putFatal s.ctx (some s.cur) 0x070 1 l
   r.1 && decide (r.2.atBoundary s.ctx = rests) && (r.2.ctx? s.ctx).any fun c => !c.killed && c.drop.isNone && !c.killDue)

theorem level_two_kill {s : State} {l : LastTrap} {rests : Bool} (t : levelTwoKill s l rests = true) : s.core.ctl.tlevel = 2#2 ∧ s.intervalOpen s.ctx = false ∧
    s.core.unit.running = true ∧ (s.ctx? s.ctx).isSome = true ∧ ∃ s1 k,
    ({ s with core := { s.core with stall := .none } } : State).putFatal s.ctx (some s.cur) 0x070 1 l = (true, s1) ∧ s1.ctx? s.ctx = some k ∧ k.killed = false ∧
    k.drop = none ∧ k.killDue = false ∧ s1.atBoundary s.ctx = rests := by
  simp only [levelTwoKill, Bool.and_eq_true, decide_eq_true_eq, Bool.not_eq_true'] at t
  obtain ⟨⟨⟨⟨h1, h2⟩, h3⟩, h4⟩, ⟨h5, h6⟩, h7⟩ := t
  obtain ⟨k, ek, hk⟩ := opt_some h7
  simp only [Bool.and_eq_true, Bool.not_eq_true', Option.isNone_iff_eq_none] at hk
  exact ⟨h1, h2, h3, h4, _, k, fst_eq h5, ek, hk.1.1, hk.1.2, hk.2, h6⟩

def atZero : LastTrap := { packed := packedCause (tcauseOf 0x010 true 0 false 0#32), pos := 0x1000#64, tval := 0#64 }
def decHere (s : State) (c : Nat) : Decidable (DataFaultHere s c) := by delta DataFaultHere; exact inferInstance
theorem not_here {s : State} {c : Nat} (h : (decHere s c).decide = false) : ¬DataFaultHere s c := @of_decide_eq_false _ (decHere s c) h

/-- A divide by zero at trap level 2, without an open interval and with one, beside a unit inside a word and alone. -/
theorem wit_TrapAtLevelTwo : levelTwoKill (atTwo wg) atZero true = true ∧ levelTwoKill (besidePush (atTwo wg)) atZero false = true ∧
    (∀ s ∈ [atTwo opened, besidePush (atTwo opened)], s.core.ctl.tlevel = 2#2 ∧ (decHere s 0x010).decide = false ∧ s.intervalOpen s.ctx = true ∧
      (s.ctx? s.ctx).any (fun k => k.stopDue.isNone) = true) ∧
    (({ atTwo opened with core := { (atTwo opened).core with stall := .none } } : State).atBoundary 3 = true) ∧
    (({ atTwo opened with core := { (atTwo opened).core with stall := .none } } : State).fatalFull 3).1 = false ∧
    ((({ atTwo opened with core := { (atTwo opened).core with stall := .none } } : State).fatalFull 3).2.ctx? 3).isSome = true ∧
    (({ besidePush (atTwo opened) with core := { (besidePush (atTwo opened)).core with stall := .none } } : State).atBoundary 3 = false) := by decide +kernel

/-! A transfer of two blocks from die 36 to stream 5 by channel 1, seen from its sender on die 36 and from its receiver on die 40. -/

def xd : SlDesc := { handle := BitVec.ofNat 64 (1 + 36 * 256 + 40 * 2 ^ 16), ctx := 3, num := 0, ptr := 0x32000#64, xid := 3, src := 0x100000#64, dst := mkPtr 4 0xFFF 0x5000,
                     pos0 := 0, npos := 32, nh := 1, hd := 16, narrow := false, ver := 7, loff := 0 }
def blk (q : Nat) : SlItem := { q := q, k := q, cancel := false, desc := xd, bytes := zeros 16 }
def cncl (q : Nat) : SlItem := { q := q, k := q, cancel := true, num := some 1, desc := xd }
def snd (c : SlChannel) (l : List SlMsg) : State := { wg with dies := [(36, { chans := [(1, c)] })], fab := { msgs := l } }
def toSnd (b : SlBody) : SlMsg := { sender := 36, receiver := 40, chan := 1, body := b }

/-- Messages from this package's die 36 to die 40 take no plane; to die 40 of package 1 they take plane 8, or plane 9 where that has failed; the
same of a receiver's answers to such senders. -/
theorem wit_PlaneOf : PlaneOf wg 36 40 0 ∧ PlaneOf wg 36 104 8 ∧ PlaneOf { wg with fab := { failed := [8] } } 36 104 9 ∧ PlaneOf wg (577 / 16) 40 0 ∧
    PlaneOf wg ((104 * 16 + 1) / 16) 40 8 := by unfold PlaneOf; decide +kernel

theorem wit_SluiceSender_cancel : ((snd { pending := [cncl 0] } []).chan 36 1).pending = cncl 0 :: [] ∧ chanKey (cncl 0).desc.handle = 1 ∧
    ((snd { pending := [cncl 0] } []).chan 36 1).unacked.length < 4096 := by decide +kernel

def blockTest (s : State) (x : Transfer) : Bool := let c := s.chan 36 1
  decide (c.unacked.length < 4096) && decide (c.pending = []) && decide (c.stopped = []) && decide ((c.transfers.find? fun y => !y.stop && decide (y.next < y.desc.blocks)) = some x) &&
  decide (chanKey x.desc.handle = 1) && decide ((s.die 36).staged + x.desc.landed ≤ 2 ^ 22) && !x.desc.narrow &&
  okTest (fun _ _ => true) (s.ctxRead 36 x.desc.ctx (x.desc.src.toNat + x.next * x.desc.source) x.desc.source)

theorem block_ok {s : State} {x : Transfer} (t : blockTest s x = true) : let c := s.chan 36 1
    c.unacked.length < 4096 ∧ c.pending = [] ∧ c.stopped = [] ∧ (c.transfers.find? fun y => !y.stop && decide (y.next < y.desc.blocks)) = some x ∧
    chanKey x.desc.handle = 1 ∧ (s.die 36).staged + x.desc.landed ≤ 2 ^ 22 ∧ x.desc.narrow = false ∧
    ∃ b s1, s.ctxRead 36 x.desc.ctx (x.desc.src.toNat + x.next * x.desc.source) x.desc.source = (.ok b, s1) := by
  simp only [blockTest, Bool.and_eq_true, decide_eq_true_eq, Bool.not_eq_true'] at t
  obtain ⟨⟨⟨⟨⟨⟨⟨h0, h1⟩, h2⟩, h3⟩, h4⟩, h5⟩, h6⟩, h⟩ := t
  obtain ⟨b, s1, e, _⟩ := fst_ok h
  exact ⟨h0, h1, h2, h3, h4, h5, h6, b, s1, e⟩

theorem wit_SluiceSender_block : blockTest (snd { transfers := [{ desc := xd, stop := true }, { desc := { xd with num := 1, serial := 1 }, next := 1 }] } [])
    { desc := { xd with num := 1, serial := 1 }, next := 1 } = true := by decide +kernel

/-- COMMITTED of the first block of two, and of the last. -/
theorem wit_SluiceSender_committed : ∀ n ∈ [0, 1], let s := snd { unacked := [blk 5], transfers := [{ desc := xd, next := 2, committed := n }] } [toSnd (.committed 5)]
    msgFor s 0 (toSnd (.committed 5)) ∧ (toSnd (.committed 5)).sender = s.fab.pkg * 64 + 36 ∧ (toSnd (.committed 5)).chan = 1 ∧ s.slArrives (toSnd (.committed 5)) = true ∧
    ackWaits (s.fab.msgs.take 0) (toSnd (.committed 5)) = false ∧ ((s.chan 36 1).unacked.find? fun i => decide (i.q = 5) && !i.cancel) = some (blk 5) ∧
    chanKey (blk 5).desc.handle = 1 ∧ ((s.chan 36 1).transfers.find? fun y => y.desc = (blk 5).desc) = some { desc := xd, next := 2, committed := n } ∧
    (n + 1 = (blk 5).desc.blocks ↔ n = 1) := by unfold msgFor; decide +kernel

theorem wit_SluiceSender_ack : let s := snd { unacked := [cncl 5], transfers := [{ desc := xd, stop := true }] } [toSnd (.ack 5 1 0)]
    msgFor s 0 (toSnd (.ack 5 1 0)) ∧ s.slArrives (toSnd (.ack 5 1 0)) = true ∧ ackWaits (s.fab.msgs.take 0) (toSnd (.ack 5 1 0)) = false ∧ ((s.chan 36 1).unacked.find? fun i => i.q = 5) = some (cncl 5) ∧
    (cncl 5).num = some 1 ∧ chanKey (cncl 5).desc.handle = 1 ∧ ((s.chan 36 1).transfers.find? fun y => y.desc = (cncl 5).desc) = some { desc := xd, stop := true } ∧
    s.fab.pkg * 64 + 36 = 36 := by unfold msgFor; decide +kernel

/-- The receiver on die 40, channel 36 × 16 + 1. -/
def rcv (r : SlRecv) (l : List SlMsg) (near : List Nat := []) : State := { wg with
  dies := [(40, { slRecv := [{ r with src := 36, chan := 1 }] })], fab := { msgs := l }, head := { streams := [strm], pools := [(3 * 64 + 36, { near := near })] } }
def r0 : SlRecv := { src := 36, chan := 1 }

/-- 16 blocks that wait at the receiver stop the channel; with less than 8 it goes; a receiver of package 1 decides for itself. -/
theorem wit_SluiceSender_stop :
    (let s := rcv { r0 with landed := List.replicate 16 { item := blk 0 } } []
     40 / 64 = s.fab.pkg ∧ s.reaches 40 36 = true ∧ 16 ≤ ((s.die (40 % 64)).recv (s.fab.pkg * 64 + 36) 1).waiting) ∧
    (let s := rcv { r0 with landed := List.replicate 7 { item := blk 0 } } []
     (s.die (40 % 64)).landing < 512 * 1024 ∧ ((s.die (40 % 64)).recv (s.fab.pkg * 64 + 36) 1).waiting < 8) ∧
    104 / 64 ≠ wg.fab.pkg ∧ wg.signalArrives 36 (104 * 16 + 1) = true := by decide +kernel

/-- An item that has timed out. -/
theorem wit_SluiceSender_retransmit : (((snd { unacked := [blk 5] } []).chan 36 1).unacked.find? fun i => i.q = 5) = some (blk 5) := by decide +kernel

/-- The item in turn; one already committed; one ahead of its turn. -/
theorem wit_SluiceReceiver_arrival : ∀ q ∈ [5, 4, 6], let s := rcv { r0 with next := 5, outcomes := [(4, .committed)] } [toSnd (.item (blk q))]
    msgFor s 0 (toSnd (.item (blk q))) ∧ (toSnd (.item (blk q))).receiver = s.fab.pkg * 64 + 40 ∧ (toSnd (.item (blk q))).sender = 577 / 16 ∧
    (toSnd (.item (blk q))).chan = 577 % 16 ∧ s.slArrives (toSnd (.item (blk q))) = true ∧ (blk q).cancel = false ∧ ((recvOf s 40 577).xfer (blk q).desc).closed = false ∧
    (s.die 40).landing + (blk q).bytes.length ≤ 2 ^ 20 ∧ (recvOf s 40 577).next = 5 ∧ alGet 4 (recvOf s 40 577).outcomes = some .committed := by
  unfold msgFor recvOf; decide +kernel

/-- The 4096th item before the one in turn is answered again; the one before it is dropped. -/
theorem wit_SluiceReceiver_old : ∀ q ∈ [4, 5], let s := rcv { r0 with next := 4101, outcomes := [(5, .acked 2 1)] } [toSnd (.item (blk q))]
    msgFor s 0 (toSnd (.item (blk q))) ∧ s.slArrives (toSnd (.item (blk q))) = true ∧ (recvOf s 40 577).next = 4101 ∧ (q + 4096 < 4101 ↔ q = 4) ∧ (4101 ≤ q + 4096 ↔ q = 5) ∧
    alGet 5 (recvOf s 40 577).outcomes = some (.acked 2 1) := by unfold msgFor recvOf; decide +kernel

def lands (b : SlItem) (page : Option (Nat × Bool) := none) : SlRecv := { r0 with next := 6, landed := [{ item := b, page := page }] }

/-- The stream has another version. -/
theorem wit_SluiceReceiver_abort : let s := rcv (lands { blk 5 with desc := { xd with ver := 8 } }) []
    ((recvOf s 40 577).landed.find? fun l => !l.item.cancel && l.page.isNone) = some { item := { blk 5 with desc := { xd with ver := 8 } } } ∧
    ((recvOf s 40 577).xfer { xd with ver := 8 }).closed = false ∧ (recvOf s 40 577).behind { blk 5 with desc := { xd with ver := 8 } } = false ∧ ((recvOf s 40 577).xfer { xd with ver := 8 }).blocks = [] ∧
    excTest (fun n => n == 1) (fun _ => false) (s.slDest { xd with ver := 8 }) = true := by unfold recvOf; decide +kernel

def landingTest (s : State) (i : SlItem) (empty : Bool) : Bool := let r := recvOf s 40 577
  decide ((r.landed.find? fun l => !l.item.cancel && l.page.isNone) = some { item := i }) && !(r.xfer i.desc).closed &&
  excTest (fun _ => false) (fun x => decide (i.entry < x.nblk) && okTest (fun e s1 => decide (e = emptyEntry) == empty &&
    (!empty || someTest (fun _ _ => true) (s1.takePage x.ctx x.ddie))) (s.readEntryAt x i.entry)) (s.slDest i.desc)

theorem landing_ok {s : State} {i : SlItem} {empty : Bool} (t : landingTest s i empty = true) :
    ((recvOf s 40 577).landed.find? fun l => !l.item.cancel && l.page.isNone) = some { item := i } ∧ ((recvOf s 40 577).xfer i.desc).closed = false ∧
    ∃ x s1 e, s.slDest i.desc = .ok x ∧ i.entry < x.nblk ∧ s.readEntryAt x i.entry = (.ok e, s1) ∧ decide (e = emptyEntry) = empty ∧
      (empty = true → ∃ p s2, s1.takePage x.ctx x.ddie = (some p, s2)) := by
  simp only [landingTest, Bool.and_eq_true, decide_eq_true_eq, Bool.not_eq_true'] at t
  obtain ⟨⟨h1, h2⟩, h⟩ := t
  obtain ⟨x, ex, h⟩ := exc_ok h
  simp only [Bool.and_eq_true, decide_eq_true_eq] at h
  obtain ⟨h3, h⟩ := h
  obtain ⟨e, s1, ee, h⟩ := fst_ok h
  simp only [Bool.and_eq_true, Bool.or_eq_true, beq_iff_eq] at h
  refine ⟨h1, h2, x, s1, e, ex, h3, ee, h.1, fun he => ?_⟩
  rcases h.2 with h4 | h4
  · rw [he] at h4; cases h4
  · obtain ⟨p, s2, ep, _⟩ := fst_some h4
    exact ⟨p, s2, ep⟩

/-- Entry 0 is empty and the pool has page 7; entry 1 holds page 9. -/
theorem wit_SluiceReceiver_check : landingTest (rcv (lands (blk 5)) [] [7]) (blk 5) true = true ∧
    landingTest (rcv (lands { blk 5 with block := 1 }) []) { blk 5 with block := 1 } false = true := by unfold landingTest recvOf; decide +kernel

def commitTest (s : State) (i : SlItem) (p : Nat) : Bool := let r := recvOf s 40 577
  decide ((r.landed.find? fun l => !l.item.cancel && l.page.isSome) = some { item := i, page := some (p, true) }) && !(r.xfer i.desc).closed &&
  (s.liveStream i.desc.ctx i.desc.dst).any fun x =>
    let w := s.slWriteBlock 40 r x i p
    w.1 && excTest (fun _ => false) (fun y => okTest (fun e s2 => decide (e = emptyEntry) && noneTest (fun _ => true) (s2.writeEntryAt y i.entry p))
      (w.2.readEntryAt y i.entry)) (w.2.slDest i.desc)

theorem commit_ok {s : State} {i : SlItem} {p : Nat} (t : commitTest s i p = true) :
    ((recvOf s 40 577).landed.find? fun l => !l.item.cancel && l.page.isSome) = some { item := i, page := some (p, true) } ∧
    ((recvOf s 40 577).xfer i.desc).closed = false ∧ ∃ x y s1 s2 s3, s.liveStream i.desc.ctx i.desc.dst = some x ∧
      s.slWriteBlock 40 (recvOf s 40 577) x i p = (true, s1) ∧ s1.slDest i.desc = .ok y ∧ s1.readEntryAt y i.entry = (.ok emptyEntry, s2) ∧
      s2.writeEntryAt y i.entry p = (none, s3) := by
  simp only [commitTest, Bool.and_eq_true, decide_eq_true_eq, Bool.not_eq_true'] at t
  obtain ⟨⟨h1, h2⟩, h⟩ := t
  obtain ⟨x, ex, h⟩ := opt_some h
  simp only [Bool.and_eq_true] at h
  obtain ⟨hw, h⟩ := h
  obtain ⟨y, ey, h⟩ := exc_ok h
  obtain ⟨e, s2, ee, h⟩ := fst_ok h
  simp only [Bool.and_eq_true, decide_eq_true_eq] at h
  obtain ⟨rfl, h⟩ := h
  obtain ⟨s3, e3, _⟩ := fst_none h
  exact ⟨h1, h2, x, y, _, s2, s3, ex, fst_eq hw, ey, ee, e3⟩

theorem wit_SluiceReceiver_commit : commitTest (rcv (lands (blk 5) (some (7, true))) []) (blk 5) 7 = true := by unfold commitTest recvOf; decide +kernel

theorem wit_SluiceReceiver_cancel : let s := rcv { r0 with next := 6, landed := [{ item := cncl 5 }] } []
    ((recvOf s 40 577).landed.find? fun l => l.item.cancel && !((recvOf s 40 577).landed.any fun y => decide (y.item.q < l.item.q) && decide (y.item.desc.serial = l.item.desc.serial))) =
      some { item := cncl 5 } ∧ ((recvOf s 40 577).xfer (cncl 5).desc).closed = false ∧ ((recvOf s 40 577).xfer (cncl 5).desc).blocks = [] ∧ 40 - 32 ∉ s.fab.failed ∧ 1 ≠ s.fab.pkg ∧ 1 ∉ s.fab.lostPkgs := by unfold recvOf; decide +kernel

/-! Requests of port 0 for context 3 of the small package. -/

def hostFaultFree (s : State) (va : Word) (n : Nat) : Bool := match s.hostParts 0 3 va n .load with
  | .fault _ s1 => !s1.held
  | _ => false

theorem host_fault {s : State} {va : Word} {n : Nat} (t : hostFaultFree s va n = true) : ∃ c s1, s.hostParts 0 3 va n .load = .fault c s1 ∧ s1.held = false := by
  unfold hostFaultFree at t
  split at t
  · exact ⟨_, _, by assumption, by simpa using t⟩
  · cases t

def hostTest {α : Type} (p : α → State → Bool) (r : HostRes α) : Bool := match r with
  | .ok v s => p v s
  | _ => false

theorem host_ok {α : Type} {r : HostRes α} {p : α → State → Bool} (t : hostTest p r = true) : ∃ v s, r = .ok v s ∧ p v s = true := by
  cases r with
  | ok v s => exact ⟨v, s, rfl, t⟩
  | fault c s => cases t
  | wait => cases t

def hostWaits {α : Type} (r : HostRes α) : Bool := match r with
  | .wait => true
  | _ => false

theorem host_waits {α : Type} {r : HostRes α} (t : hostWaits r = true) : r = .wait := by
  cases r with
  | wait => rfl
  | ok v s => cases t
  | fault c s => cases t

def hostReads (s : State) (va : Word) (n : Nat) : Bool :=
  hostTest (fun l s1 => (s1.hostRead l).1.isSome && !(s1.hostRead l).2.held) (s.hostParts 0 3 va n .load)

theorem host_reads {s : State} {va : Word} {n : Nat} (t : hostReads s va n = true) : ∃ l s1 bs s2, s.hostParts 0 3 va n .load = .ok l s1 ∧
    s1.hostRead l = (some bs, s2) ∧ s2.held = false := by
  obtain ⟨l, s1, e, h⟩ := host_ok t
  simp only [Bool.and_eq_true, Bool.not_eq_true'] at h
  obtain ⟨bs, hb⟩ := Option.isSome_iff_exists.1 h.1
  exact ⟨l, s1, bs, _, e, fst_eq hb, h.2⟩

/-- The key slot of the page is being flushed for port 1; messages of port 0 that wait, or that are under way. -/
def flushing (port : Nat) : State := { wg with host := { wg.host with keyWork := [(1, port, some 7)] } }

theorem wit_HostMemory_read : (∀ s ∈ [{ wg with host := { wg.host with waiting := [(0, .keyzap 0 1)] } }, flushing 0],
      s.portUp 0 = true ∧ s.host.boot = none ∧ (s.portStuck 0 = true ∨ ∃ x ∈ s.host.waiting, x.1 = 0)) ∧
    PortFree (flushing 1) 0 ∧ hostWaits ((flushing 1).hostParts 0 3 0x70000#64 1 .load) = true ∧
    PortFree wg 0 ∧ hostFaultFree wg 0x40000000#64 1 = true ∧ hostReads wg 0x70000#64 1 = true ∧ hostReads wg 0x7FF00#64 4096 = true := by
  unfold PortFree; decide +kernel

def hostWrites (s : State) (va : Word) (bs : List Byte) : Bool :=
  hostTest (fun l s1 => (s1.hostWrite 0 3 (hostPieces l bs)).1 && !(s1.hostWrite 0 3 (hostPieces l bs)).2.held) (s.hostParts 0 3 va bs.length .store)

theorem host_writes {s : State} {va : Word} {bs : List Byte} (t : hostWrites s va bs = true) : ∃ l s1 s2, s.hostParts 0 3 va bs.length .store = .ok l s1 ∧
    s1.hostWrite 0 3 (hostPieces l bs) = (true, s2) ∧ s2.held = false := by
  obtain ⟨l, s1, e, h⟩ := host_ok t
  simp only [Bool.and_eq_true, Bool.not_eq_true'] at h
  exact ⟨l, s1, _, e, fst_eq h.1, h.2⟩

theorem wit_HostMemory_write : hostWrites wg 0x7FF7F#64 [1#8, 2#8] = true ∧ (0x7F#64).toNat % 128 + [1#8].length ≤ 128 ∧ pkgOf (0x7F#64).toNat = wg.fab.pkg ∧
    Sound (wg.stack (stackOf (0x7F#64).toNat)) ∧ wg.reaches (portDie 0) (homeDie (0x7F#64).toNat) = true ∧ wg.keyId 0 = some 0 := by unfold Sound; decide +kernel

/-- The package whose page admits atomics of the host, or not: SA is bit 49 of the leaf. -/
def withSa (sa : Bool) : State := { wg with mem := wg.mem.map fun c => if c.1 = 0x12006 then (c.1, if sa then 0x12#8 else 0x10#8) else c }

/-- An atomic that leaves a value, or none, after reading one. -/
def hostAmoTest (s : State) (va : Word) (n : Nat) (old v : Option Nat) : Bool := hostTest (fun l s1 =>
  someTest (fun bs s2 => !s2.held && (old.all fun o => decide (natOf bs = o)) &&
    v.all fun v => (s2.hostWrite 0 3 (hostPieces l (bytesOf n v))).1 && !(s2.hostWrite 0 3 (hostPieces l (bytesOf n v))).2.held) (s1.hostRead l))
  (s.hostAtomicParts 0 3 va n)

theorem host_amo {s : State} {va : Word} {n : Nat} {old v : Option Nat} (t : hostAmoTest s va n old v = true) : ∃ l s1 bs s2,
    s.hostAtomicParts 0 3 va n = .ok l s1 ∧ s1.hostRead l = (some bs, s2) ∧ s2.held = false ∧ (∀ o, old = some o → natOf bs = o) ∧
    ∀ x, v = some x → ∃ s3, s2.hostWrite 0 3 (hostPieces l (bytesOf n x)) = (true, s3) ∧ s3.held = false := by
  obtain ⟨l, s1, e, h⟩ := host_ok t
  obtain ⟨bs, s2, e2, h2⟩ := fst_some h
  simp only [Bool.and_eq_true, Bool.not_eq_true'] at h2
  refine ⟨l, s1, bs, s2, e, e2, h2.1.1, ?_, ?_⟩
  · rintro o rfl
    simpa using h2.1.2
  · rintro x rfl
    have := h2.2
    simp only [Option.all_some, Bool.and_eq_true, Bool.not_eq_true'] at this
    exact ⟨_, fst_eq this.1, this.2⟩

def hostNoSa (s : State) (va : Word) (n : Nat) : Bool := hostTest (fun l s1 => !s1.held && l.any fun x => !x.attr.sysAtomic) (s.hostLook 0 3 va n .atomic)

/-- 0x70008 holds 0x55: a compare with 0x55 swaps, one with 0x54 does not; 0x7000A is misaligned. -/
theorem wit_HostMemory_atomic : hostNoSa (withSa false) 0x70008#64 8 = true ∧ hostAmoTest (withSa true) 0x70008#64 4 (some 0x55) (some 9) = true ∧
    hostAmoTest (withSa true) 0x70008#64 4 (some 0x55) none = true ∧
    0x55 = (0x55#64).toNat % 2 ^ (8 * 4) ∧ 0x55 ≠ (0x54#64).toNat % 2 ^ (8 * 4) ∧ (0x70008#64).toNat % 4 = 0 ∧ (0x70008#64).toNat % 8 = 0 ∧ (0x7000A#64).toNat % 4 ≠ 0 ∧
    hostAmoTest (withSa true) 0x70008#64 8 none (some (0xF00000055 + 1)) = true := by decide +kernel

/-- Queue 2 is bound and holds n packets; queue 3 is bound to nothing. -/
def queued (n : Nat) : State := { wg with host := { wg.host with queues := [(2, 3)], packets := [(2, List.replicate n (zeros 64))] } }

theorem wit_HostSetup_queue : (zeros 64).length = 64 ∧ (alGet 2 (queued 255).host.queues).isSome = true ∧ ((queued 255).packetsOf 2).length < 256 ∧
    256 ≤ ((queued 256).packetsOf 2).length ∧ ((queued 0).ctx? 3).isSome = true ∧ (queued 0).packetsOf 2 = [] ∧ (queued 1).packetsOf 2 ≠ [] ∧
    PortFree (queued 0) 1 := by unfold PortFree; decide +kernel

/-- A context descriptor of Table 135. -/
def ctxBytes : List Byte :=
  bytesOf 8 0x10000 ++ bytesOf 8 (2 ^ 64 - 1) ++ zeros 24 ++ zeros 8 ++ bytesOf 8 0x50000 ++ bytesOf 8 0x10000 ++ bytesOf 8 0x20000 ++ bytesOf 8 0x10000 ++
    bytesOf 8 0x30000 ++ bytesOf 8 4 ++ zeros 8 ++ bytesOf 8 0x900 ++ bytesOf 4 4 ++ bytesOf 4 1 ++ bytesOf 8 0x40000 ++ bytesOf 8 0x1000 ++ bytesOf 8 0x60000 ++ zeros 112
def wctx : State := { w0 with mem := region 0x8000 ctxBytes, tags := (List.range 16).map fun k => (0x800 + k, 0) }

def ctxsetTest (s : State) (ctx pa : Nat) : Bool := decide (s.ctx? ctx = none) && decide (pkgOf pa = s.fab.pkg) && decide (pkgOf (pa + 255) = s.fab.pkg) &&
  okTest (fun b s1 => !s1.held && (ctxOf b).fits b) (s.readHome pa {} true 256)

theorem ctxset_ok {s : State} {ctx pa : Nat} (t : ctxsetTest s ctx pa = true) : s.ctx? ctx = none ∧ pkgOf pa = s.fab.pkg ∧ pkgOf (pa + 255) = s.fab.pkg ∧
    ∃ b s1, s.readHome pa {} true 256 = (.ok b, s1) ∧ s1.held = false ∧ (ctxOf b).fits b = true := by
  simp only [ctxsetTest, Bool.and_eq_true, decide_eq_true_eq] at t
  obtain ⟨b, s1, e, h⟩ := fst_ok t.2
  simp only [Bool.and_eq_true, Bool.not_eq_true'] at h
  exact ⟨t.1.1.1, t.1.1.2, t.1.2, b, s1, e, h.1, h.2⟩

theorem wit_HostSetup_ctxset : ctxsetTest wctx 5 0x8000 = true := by decide +kernel

/-- Context 3 is dropped for port 0, with its units at command boundaries or not. -/
def dropTest (s : State) (rests : Bool) : Bool := (s.ctx? 3).any fun k => !k.killed &&
  (let r := (s.setCtx 3 { k with drop := some 0 }).putFatal 3 none 0x076 1 { packed := 0x076 }
   r.1 && !r.2.held && decide (r.2.atBoundary 3 = rests) && (!rests || !(r.2.killCtx 3 0x076).held) &&
     (r.2.ctx? 3).any fun k => !k.killed && k.stopDue.isNone && decide (k.drop = some 0))

theorem drop_ok {s : State} {rests : Bool} (t : dropTest s rests = true) : ∃ k s1 k1, s.ctx? 3 = some k ∧ k.killed = false ∧
    (s.setCtx 3 { k with drop := some 0 }).putFatal 3 none 0x076 1 { packed := 0x076 } = (true, s1) ∧ s1.held = false ∧ s1.ctx? 3 = some k1 ∧ k1.killed = false ∧
    k1.stopDue = none ∧ k1.drop = some 0 ∧ s1.atBoundary 3 = rests ∧ (rests = true → (s1.killCtx 3 0x076).held = false) := by
  obtain ⟨k, ek, hk⟩ := opt_some t
  simp only [Bool.and_eq_true, Bool.or_eq_true, Bool.not_eq_true', decide_eq_true_eq] at hk
  obtain ⟨h1, ⟨⟨⟨h3, h4⟩, h5⟩, h6⟩, h7⟩ := hk
  obtain ⟨k1, ek1, hk1⟩ := opt_some h7
  simp only [Bool.and_eq_true, Bool.not_eq_true', Option.isNone_iff_eq_none, decide_eq_true_eq] at hk1
  exact ⟨k, _, k1, ek, h1, fst_eq h3, h4, ek1, hk1.1.1, hk1.1.2, hk1.2, h5, fun e => h6.resolve_left (by simp [e])⟩

theorem wit_HostSetup_ctxdrop : dropTest wg true = true ∧ dropTest (midPush wg) false = true := by decide +kernel

def poolTest (s : State) (die : Nat) (list : Word) (n : Nat) : Bool := (s.ctx? 3).isSome && isDDie die && s.dieAllowed 3 die && decide (spaceOf list = 0) &&
  decide (list.toNat + 4 * n ≤ 2 ^ 57) && decide ((s.pool 3 die).near.length + n < 128) &&
  okTest (fun b s1 => !s1.held && let es := (List.range n).map fun i => natAt b (4 * i) 4
    decide (es.eraseDups = es) && es.all fun e => decide (s.pageRec 3 e = none)) (s.ctxRead (portDie 0) 3 list.toNat (4 * n))

theorem pool_ok {s : State} {die : Nat} {list : Word} {n : Nat} (t : poolTest s die list n = true) : (s.ctx? 3).isSome = true ∧ isDDie die = true ∧
    s.dieAllowed 3 die = true ∧ spaceOf list = 0 ∧ list.toNat + 4 * n ≤ 2 ^ 57 ∧ (s.pool 3 die).near.length + n < 128 ∧ ∃ b s1,
    s.ctxRead (portDie 0) 3 list.toNat (4 * n) = (.ok b, s1) ∧ s1.held = false ∧ let es := (List.range n).map fun i => natAt b (4 * i) 4
      es.eraseDups = es ∧ ∀ e ∈ es, s.pageRec 3 e = none := by
  simp only [poolTest, Bool.and_eq_true, decide_eq_true_eq] at t
  obtain ⟨⟨⟨⟨⟨⟨h1, h2⟩, h3⟩, h4⟩, h5⟩, h6⟩, h⟩ := t
  obtain ⟨b, s1, e, h⟩ := fst_ok h
  simp only [Bool.and_eq_true, Bool.not_eq_true', decide_eq_true_eq, List.all_eq_true] at h
  exact ⟨h1, h2, h3, h4, h5, h6, b, s1, e, h.1, h.2⟩

/-- The 16 bytes of the first object's fields read as four pages: two of them are listed (0x55 and 0xF). -/
theorem wit_HostSetup_pooladd : poolTest wg 36 0x70008#64 2 = true := by decide +kernel

/-- A P-die and a D-die with hand-overs on their way; the P-die holds a grant of granules 0 to 3. -/
def handing (c : Option Nat) : State := { wg with dies := [(0, { grants := [{ ctx := 3, first := 0, count := 4 }], handovers := [{ port := 0, ctx := c, first := 60, count := 4 }] }),
  (36, { handovers := [{ port := 0, ctx := c, first := 0, count := 0 }] })] }

theorem wit_HostSetup_grant : isPDie 1 = true ∧ isPDie 0 = true ∧ isPDie 36 = false ∧ (wg.die 1).grantBusy 3 63 1 = false ∧ ((handing none).die 0).grantBusy 3 4 1 = true ∧
    (∀ c ∈ [none, some 4], ((handing c).die 0).handovers = { port := 0, ctx := c, first := 60, count := 4 } :: [] ∧
      ((handing c).die 0).splitTo = [] ∧ (handing c).banksBusy 0 = false ∧ (handing c).banksBusy 36 = false ∧ (handing c).host.waiting = [] ∧ ((handing c).die 36).splitTo = [] ∧ ((handing c).die 36).handovers = { port := 0, ctx := c, first := 0, count := 0 } :: []) ∧ 60 + 4 ≤ 64 := by decide +kernel

/-- A bank of die 36 holds a beat of a copy. -/
def bankBeat : State := { handing none with core := { wg.core with cpe := { wg.core.cpe with queue := [{ (default : Cmd) with atBank := some 36 }] } } }

theorem wit_HostSetup_busy : bankBeat.banksBusy 36 = true := by decide +kernel

/-- Wrapped bytes pass or do not: both cases of a key load say what happens, and one of them holds. -/
theorem wit_HostSetup_key (w : BitVec 576) : (Config.wrapValid w = true ∨ Config.wrapValid w = false) ∧ 0 < 4095 ∧ 4095 < 4096 ∧
    (({ wg with host := { wg.host with keyWork := [(1, 0, none), (1, 1, some 7)] } } : State).host.keyWork.find? fun x => x.1 = 1) = some (1, 0, none) ∧ wg.host.waiting = [] ∧ (wg.keyId 1).isSome = true :=
  ⟨by cases Config.wrapValid w <;> simp, by decide, by decide, by decide +kernel, by decide +kernel, by decide +kernel⟩

theorem wit_ManagementRegisters : PortFree w0 0 ∧ isDie 36 = true ∧ (4648#64).toNat < 65536 ∧ (4647#64).toNat < 4648 ∧ (7#64).toNat < 2 ^ 14 ∧
    (0x2BF8 % 8 ≠ 0 ∨ 0x2C00 ≤ 0x2C00) ∧ w0.clk < ((w0.die 36).limiter true).opened + 4 ∧
    (∀ j < 16, (0x8888888444222111#64).toNat / 16 ^ j % 16 ≠ 0) ∧ (∃ j < 16, (0x0888888444222111#64).toNat / 16 ^ j % 16 = 0) ∧
    (5#64).toNat ∈ ({ w0 with power := { clearable := [5] } } : State).power.clearable ∧ (5#64).toNat ∉ w0.power.clearable := by unfold PortFree; decide +kernel

def landTest (s : State) (c : Ctx) (free : Bool) : Bool := decide (s.ctx? 3 = some c) && decide (c.tqsig = 0#64) && !c.records.isEmpty &&
  decide ((s.slotState 3 (c.tq.toNat + 64 * c.tqw)).1 = some free)

theorem land_ok {s : State} {c : Ctx} {free : Bool} (t : landTest s c free = true) : s.ctx? 3 = some c ∧ c.tqsig = 0#64 ∧ (∃ r g rest, c.records = (r, g) :: rest) ∧
    ∃ s1, s.slotState 3 (c.tq.toNat + 64 * c.tqw) = (some free, s1) := by
  simp only [landTest, Bool.and_eq_true, decide_eq_true_eq, Bool.not_eq_true'] at t
  refine ⟨t.1.1.1, t.1.1.2, ?_, _, fst_eq t.2⟩
  have := t.1.2
  rcases h : c.records with _ | ⟨⟨r, g⟩, rest⟩
  · rw [h] at this; cases this
  · exact ⟨r, g, rest, rfl⟩

/-- A context with a record to land: slot 0 is free; at 0x70000 − 0x58 bytes … the queue would lie on an object, whose byte 8 is 0x55. -/
def recd (tq : Word) : Ctx := { cx with records := [(zeros 64, false)], tq := tq }

theorem wit_RecordsAndBoot : landTest { wg with ctxs := [(3, recd 0x30000#64)] } (recd 0x30000#64) true = true ∧
    landTest { wg with ctxs := [(3, recd 0x70008#64)] } (recd 0x70008#64) false = true ∧ wg.portUp 1 = true ∧ wg.host.chosen < 2 := by decide +kernel

/-- A part at a stage of its boot. -/
def booting (k : Nat) (ok : Bool) : State := { wg with host := { wg.host with boot := some { stage := k, signatureOk := ok } } }

theorem wit_RecordsAndBoot_stages : ∀ k ∈ [1, 2, 3, 4, 5, 6], ∀ ok ∈ [true, false], (booting k ok).host.boot = some { stage := k, signatureOk := ok } ∧
    (booting k ok).portUp 0 = true ∧ (booting k ok).halted = false ∧ (booting k ok).agenda = [] := by decide +kernel

/-! The decoder, a step, and the form of the memory. -/

theorem wit_DecodeEncode : (Instr.nop).wellFormed = true ∧ encode .nop = some 0xDC000000#32 ∧ decode 0xDC000000#32 = .ok .nop :=
  ⟨by decide, by decide, dec_ok (by decide +kernel)⟩

/-- A state whose unit runs the word of its pc. -/
def atWord (w : W32) : State := { w0 with core := { w0.core with fetchBuf := [{ line := 32, bytes := bytesOf 4 w.toNat ++ zeros 124, key := 1 }] } }

def turned (s : State) : State := { s.elapse with turns := s.turns + 1 }

/-- A unit may take a turn that runs a word: no fault or fence waits, no access is out, its context does not stop it. -/
def turnTest (u : State) : Bool := u.core.unit.running && (!u.stopping u.ctx || u.core.inWord) && decide (u.core.unit.fence = none) && !u.core.faultDue && u.core.loads.isEmpty

theorem turn_ok {u : State} (t : turnTest u = true) : u.core.unit.running = true ∧ (u.stopping u.ctx = false ∨ u.core.inWord = true) ∧ u.core.unit.fence = none ∧
    u.core.faultDue = false ∧ u.core.loads = [] := by
  simpa [turnTest, and_assoc] using t

def fetchTest (s : State) (w : W32) (missing : Bool := false) : Bool := let u := turned s
  !s.halted && s.host.boot.isNone && decide (s.agenda = []) && !s.core.idle && decide (s.turns < 256) && turnTest u && u.core.sel.isNone &&
  accTest (fun x s1 => decide (x = w) && s1.core.loads.isEmpty && s1.core.pairMissing w == missing) (u.fetchWord u.core.wordAddr)

theorem fetch_ok {s : State} {w : W32} {missing : Bool} (t : fetchTest s w missing = true) : s.halted = false ∧ s.host.boot = none ∧ s.agenda = [] ∧ s.core.idle = false ∧
    s.turns < 256 ∧ turnTest (turned s) = true ∧ (turned s).core.sel = none ∧
    ∃ s1, (turned s).fetchWord (turned s).core.wordAddr = .ok w s1 ∧ s1.core.loads = [] ∧ s1.core.pairMissing w = missing := by
  simp only [fetchTest, Bool.and_eq_true, decide_eq_true_eq, Bool.not_eq_true', Option.isNone_iff_eq_none] at t
  obtain ⟨⟨⟨⟨⟨⟨⟨h1, h2⟩, h3⟩, h4⟩, h5⟩, h6⟩, h7⟩, h⟩ := t
  obtain ⟨x, s1, e, h⟩ := acc_test h
  simp only [Bool.and_eq_true, decide_eq_true_eq, List.isEmpty_iff, beq_iff_eq] at h
  obtain ⟨⟨rfl, hl⟩, h⟩ := h
  exact ⟨h1, h2, h3, h4, h5, h6, h7, s1, e, hl, h⟩

/-- The pc names the second half of the word. -/
def secondHalf (w : W32) : State := { atWord w with core := { (atWord w).core with pc := 0x1002#64 } }

/-- NOP; an unassigned word; the second half of NOP, which is no pair. -/
theorem wit_StepRunsDecoded_words : fetchTest (atWord 0xDC000000#32) 0xDC000000#32 = true ∧ decodeTest .nop 0xDC000000#32 = true ∧
    fetchTest (atWord 0#32) 0#32 = true ∧ decodeTest .nop 0#32 = false ∧
    fetchTest (secondHalf 0xDC000000#32) 0xDC000000#32 true = true := by decide +kernel

def accWait {α : Type} (a : Acc α) : Bool := match a with
  | .wait _ => true
  | _ => false

/-- A unit inside a push, whose context is to stop. -/
def stopsSoon : State := { (midPush (atWord 0xDC000000#32)) with ctxs := [(3, { cx with stopDue := some { roll := false, cause := 0x076 } })] }

/-- The pc names no GLOBAL address; its line is still to arrive; the agenda holds an event, a unit, a unit with a word selected. -/
theorem wit_StepRunsDecoded_others :
    (let s : State := { wg with core := { wg.core with pc := 0x200000000000000#64 } }
     turnTest (turned s) = true ∧ (turned s).core.sel = none ∧ accFault ((turned s).fetchWord (turned s).core.wordAddr) = true ∧ s.halted = false ∧ s.host.boot = none ∧ s.core.idle = false) ∧
    (let s : State := { wg with fab := { wg.fab with linksDown := (List.range 4096).map fun i => (i / 64, i % 64) } }
     turnTest (turned s) = true ∧ (turned s).core.sel = none ∧ accWait ((turned s).fetchWord (turned s).core.wordAddr) = true) ∧
    (let s : State := { w0 with agenda := [.event .resetPin, .unit 2304] }
     s.agenda = .event .resetPin :: [.unit 2304] ∧ s.halted = false ∧ s.host.boot = none) ∧
    (let s : State := { w0 with agenda := [.unit 2304], core := { w0.core with sel := some { word := 0xDC000000#32 } } }
     (State.focus { s.elapse with agenda := [] } 2304).core.sel = some { word := 0xDC000000#32 } ∧ turnTest (State.focus { s.elapse with agenda := [] } 2304) = true) ∧
    (turned stopsSoon).stopping 3 = true ∧ turnTest (turned stopsSoon) = true := by decide +kernel

def stopped : State := { w0 with halted := true }

theorem wit_StepsGoOn : State.reset.halted = false ∧ stopped.halted = true ∧ stopped.agenda = [] ∧
    ({ stopped with agenda := [.event .resetPin] } : State).agenda = .event .resetPin :: [] := by decide +kernel

/-- The step of NOP. -/
theorem wit_MemoryForm : Memory.wf (atWord 0xDC000000#32).mem = true ∧ nextTest (fun t => decide (t.core.pc = 0x1004#64)) (step (atWord 0xDC000000#32)) = true := by decide +kernel

/-! ## Every word of the opcode table

The words are the opcode table's own match patterns with the fields' values put in their places; the second entries say what they
stand for (01 Tables 5–7). -/

/-- ADD to CLZ. -/
def words0 : List (W32 × Instr) := [
  (0x04B5A500#32, .add 11#6 22#6 37#6), (0x04B5A501#32, .sub 11#6 22#6 37#6), (0x04B5A502#32, .andR 11#6 22#6 37#6), (0x04B5A503#32, .orR 11#6 22#6 37#6),
  (0x04B5A504#32, .xorR 11#6 22#6 37#6), (0x04B5A505#32, .andn 11#6 22#6 37#6), (0x04B5A506#32, .sll 11#6 22#6 37#6), (0x04B5A507#32, .srl 11#6 22#6 37#6),
  (0x04B5A508#32, .sra 11#6 22#6 37#6), (0x04B5A509#32, .ror 11#6 22#6 37#6), (0x04B5A50A#32, .slt 11#6 22#6 37#6), (0x04B5A50B#32, .sltu 11#6 22#6 37#6),
  (0x04B5A50C#32, .minS 11#6 22#6 37#6), (0x04B5A50D#32, .maxS 11#6 22#6 37#6), (0x04B5A50E#32, .minu 11#6 22#6 37#6), (0x04B5A50F#32, .maxu 11#6 22#6 37#6),
  (0x04B5A510#32, .addw 11#6 22#6 37#6), (0x04B5A511#32, .subw 11#6 22#6 37#6), (0x04B5A512#32, .sllw 11#6 22#6 37#6), (0x04B5A513#32, .srlw 11#6 22#6 37#6),
  (0x04B5A514#32, .sraw 11#6 22#6 37#6), (0x04B58015#32, .clz 11#6 22#6)]

theorem test_decode_words0 : (words0.all fun x => decodeTest x.2 x.1) = true := by decide +kernel

/-- CTZ to XORI. -/
def words1 : List (W32 × Instr) := [
  (0x04B58016#32, .ctz 11#6 22#6), (0x04B58017#32, .popc 11#6 22#6), (0x04B58018#32, .sextb 11#6 22#6), (0x04B58019#32, .sexth 11#6 22#6),
  (0x04B5801A#32, .sextw 11#6 22#6), (0x04B5801B#32, .zextw 11#6 22#6), (0x08B5A500#32, .mul 11#6 22#6 37#6), (0x08B5A501#32, .mulh 11#6 22#6 37#6),
  (0x08B5A502#32, .mulhu 11#6 22#6 37#6), (0x08B5A503#32, .mulw 11#6 22#6 37#6), (0x08B5A504#32, .div 11#6 22#6 37#6), (0x08B5A505#32, .divu 11#6 22#6 37#6),
  (0x08B5A506#32, .rem 11#6 22#6 37#6), (0x08B5A507#32, .remu 11#6 22#6 37#6), (0x08B5A508#32, .divw 11#6 22#6 37#6), (0x08B5A509#32, .divuw 11#6 22#6 37#6),
  (0x08B5A50A#32, .remw 11#6 22#6 37#6), (0x08B5A50B#32, .remuw 11#6 22#6 37#6), (0x0CB58025#32, .addi 11#6 22#6 37#14),
  (0x10B58025#32, .andi 11#6 22#6 37#14), (0x14B58025#32, .ori 11#6 22#6 37#14), (0x18B58025#32, .xori 11#6 22#6 37#14)]

theorem test_decode_words1 : (words1.all fun x => decodeTest x.2 x.1) = true := by decide +kernel

/-- SLTI to JAL. -/
def words2 : List (W32 × Instr) := [
  (0x1CB58025#32, .slti 11#6 22#6 37#14), (0x20B58025#32, .sltiu 11#6 22#6 37#14), (0x24B58025#32, .slli 11#6 22#6 37#6),
  (0x24B59025#32, .srli 11#6 22#6 37#6), (0x24B5A025#32, .srai 11#6 22#6 37#6), (0x24B5B025#32, .rori 11#6 22#6 37#6), (0x28B00016#32, .lui 11#6 22#20),
  (0x2CB00016#32, .lim 11#6 22#16), (0x34B00016#32, .lih 11#6 22#16), (0x38B00016#32, .addpc 11#6 22#20), (0x30B5A500#32, .ptag 11#6 22#6 37#6),
  (0x30B5A501#32, .prank 11#6 22#6 37#6), (0x30B58002#32, .pspace 11#6 22#6), (0x30B58003#32, .poff 11#6 22#6), (0x30B5A504#32, .padd 11#6 22#6 37#6),
  (0x40B58025#32, .beq 11#6 22#6 37#14), (0x44B58025#32, .bne 11#6 22#6 37#14), (0x48B58025#32, .blt 11#6 22#6 37#14), (0x4CB58025#32, .bge 11#6 22#6 37#14),
  (0x50B58025#32, .bltu 11#6 22#6 37#14), (0x54B58025#32, .bgeu 11#6 22#6 37#14), (0x58B00016#32, .jal 11#6 22#20)]

theorem test_decode_words2 : (words2.all fun x => decodeTest x.2 x.1) = true := by decide +kernel

/-- JALR to AMOADD_D. -/
def words3 : List (W32 × Instr) := [
  (0x5CB58025#32, .jalr 11#6 22#6 37#14), (0x60B80025#32, .hwLoop 11#6 2#2 37#14), (0x68B5964B#32, .ldb 11#6 22#6 5#4 2#2 1#2 11#6),
  (0x6CB5964B#32, .ldh 11#6 22#6 5#4 2#2 1#2 11#6), (0x70B5964B#32, .ldw 11#6 22#6 5#4 2#2 1#2 11#6), (0x74B5964B#32, .ldd 11#6 22#6 5#4 2#2 1#2 11#6),
  (0x78B5964B#32, .ldsb 11#6 22#6 5#4 2#2 1#2 11#6), (0x7CB5964B#32, .ldsh 11#6 22#6 5#4 2#2 1#2 11#6), (0x80B5964B#32, .ldsw 11#6 22#6 5#4 2#2 1#2 11#6),
  (0x84B5964B#32, .stb 11#6 22#6 5#4 2#2 1#2 11#6), (0x88B5964B#32, .sth 11#6 22#6 5#4 2#2 1#2 11#6), (0x8CB5964B#32, .stw 11#6 22#6 5#4 2#2 1#2 11#6),
  (0x90B5964B#32, .std 11#6 22#6 5#4 2#2 1#2 11#6), (0x94B58000#32, .pushm 11#6 22#6), (0x94B58001#32, .popm 11#6 22#6),
  (0x9AA00025#32, .fence 2#2 5#3 37#16), (0x9D658506#32, .tdld 11#5 22#6 5#4 6#8), (0x9D659506#32, .tdst 11#5 22#6 5#4 6#8),
  (0xAD69460D#32, .amoswapW 3#2 22#6 37#6 6#6 13#4), (0xBD69460D#32, .amoswapD 3#2 22#6 37#6 6#6 13#4), (0xAD69461D#32, .amoaddW 3#2 22#6 37#6 6#6 13#4),
  (0xBD69461D#32, .amoaddD 3#2 22#6 37#6 6#6 13#4)]

theorem test_decode_words3 : (words3.all fun x => decodeTest x.2 x.1) = true := by decide +kernel

/-- AMOAND_W to CTRWAIT. -/
def words4 : List (W32 × Instr) := [
  (0xAD69462D#32, .amoandW 3#2 22#6 37#6 6#6 13#4), (0xBD69462D#32, .amoandD 3#2 22#6 37#6 6#6 13#4), (0xAD69463D#32, .amoorW 3#2 22#6 37#6 6#6 13#4),
  (0xBD69463D#32, .amoorD 3#2 22#6 37#6 6#6 13#4), (0xAD69464D#32, .amoxorW 3#2 22#6 37#6 6#6 13#4), (0xBD69464D#32, .amoxorD 3#2 22#6 37#6 6#6 13#4),
  (0xAD69465D#32, .amominW 3#2 22#6 37#6 6#6 13#4), (0xBD69465D#32, .amominD 3#2 22#6 37#6 6#6 13#4), (0xAD69466D#32, .amomaxW 3#2 22#6 37#6 6#6 13#4),
  (0xBD69466D#32, .amomaxD 3#2 22#6 37#6 6#6 13#4), (0xAD69467D#32, .amominuW 3#2 22#6 37#6 6#6 13#4), (0xBD69467D#32, .amominuD 3#2 22#6 37#6 6#6 13#4),
  (0xAD69468D#32, .amomaxuW 3#2 22#6 37#6 6#6 13#4), (0xBD69468D#32, .amomaxuD 3#2 22#6 37#6 6#6 13#4), (0xAD69469D#32, .casW 3#2 22#6 37#6 6#6 13#4),
  (0xBD69469D#32, .casD 3#2 22#6 37#6 6#6 13#4), (0xBEC94CAD#32, .cas2 3#2 22#5 37#6 6#5 13#4), (0xAD6946BD#32, .amofadd 3#2 22#6 37#6 6#6 13#4),
  (0xC0000B58#32, .ctrinit 11#6 22#6), (0xC012D694#32, .ctrsig 11#6 22#6 37#6), (0xC022D600#32, .ctrrd 11#6 22#6), (0xC0300B00#32, .ctrwait 11#6)]

theorem test_decode_words4 : (words4.all fun x => decodeTest x.2 x.1) = true := by decide +kernel

/-- BARINIT to CPTIN. -/
def words5 : List (W32 × Instr) := [
  (0xC0400B58#32, .barinit 11#6 22#6), (0xC052D601#32, .bararv 11#6 22#6 1#1), (0xC0600B58#32, .barwait 11#6 22#6),
  (0xC0711697#32, .tlwait 4#6 22#6 37#6 3#2), (0xC082C05B#32, .tlrd 11#6 22#6 3#2), (0xC0900B58#32, .arinit 11#6 22#6), (0xC0A00B58#32, .arwait 11#6 22#6),
  (0xC0B2D629#32, .spawn 11#6 22#6 5#5 1#2), (0xC0C2D629#32, .spawnd 11#6 22#6 5#5 1#2), (0xC0D00000#32, .yield), (0xC0E00000#32, .stepend),
  (0xC0F00B00#32, .chkopen 11#6), (0xC1000000#32, .chkclose), (0xC402D694#32, .suspend 11#6 22#6 37#6), (0xC4100BB1#32, .resume 11#6 22#5 1#1),
  (0xC422D694#32, .ccopy 11#6 22#6 37#6), (0xC4300B58#32, .cdiscard 11#6 22#6), (0xC442D694#32, .cquery 11#6 22#6 37#6), (0xC4500BB0#32, .crights 11#6 22#5),
  (0xC8058168#32, .cpin 11#5 22#6 1#1), (0xC8102D60#32, .cpout 11#5 22#6), (0xC82582C8#32, .cptin 11#5 22#5 1#1)]

theorem test_decode_words5 : (words5.all fun x => decodeTest x.2 x.1) = true := by decide +kernel

/-- CPTOUT to VMAX. -/
def words6 : List (W32 × Instr) := [
  (0xC8302EC0#32, .cptout 11#5 22#5), (0xC845D808#32, .cpll 11#5 22#5 1#1), (0xC85598A5#32, .gather 11#5 6#3 5#5 0#1 5#3),
  (0xC861D8A6#32, .scatter 3#3 22#5 5#5 6#3), (0xC87182C0#32, .idxld 3#3 22#5), (0xC8858160#32, .fill 11#5 22#6), (0xC89002C0#32, .promote 11#4),
  (0xC8A582C1#32, .subscr 11#5 22#5 1#2), (0xC8B000B2#32, .slotret 11#6 2#2), (0xCC17628D#32, .mma 11#5 22#5 5#5 6#6 1#1),
  (0xCC57628C#32, .mmapLead 11#5 22#5 5#5 6#6), (0xCC560B4B#32, .mmapFol 11#5 22#5 37#6), (0xCC976000#32, .wbld 11#5 22#5), (0xCCC0B000#32, .cbld 11#5),
  (0xCD17628D#32, .mvm 11#5 22#5 5#5 6#6 1#1), (0xCD560000#32, .mzero 11#5), (0xD005D9D1#32, .vadd 11#5 22#5 29#6 1#2),
  (0xD015D9D1#32, .vsub 11#5 22#5 29#6 1#2), (0xD025D9D1#32, .vmul 11#5 22#5 29#6 1#2), (0xD035D9D1#32, .vfma 11#5 22#5 29#6 1#2),
  (0xD045D9D1#32, .vmin 11#5 22#5 29#6 1#2), (0xD055D9D1#32, .vmax 11#5 22#5 29#6 1#2)]

theorem test_decode_words6 : (words6.all fun x => decodeTest x.2 x.1) = true := by decide +kernel

/-- VABS to VRSQRT. -/
def words7 : List (W32 × Instr) := [
  (0xD065D800#32, .vabs 11#5 22#5), (0xD075D800#32, .vneg 11#5 22#5), (0xD085D9D0#32, .vscl 11#5 22#5 29#6), (0xD095D9D1#32, .vadds 11#5 22#5 29#6 1#2),
  (0xD0A5D9D1#32, .vand 11#5 22#5 29#6 1#2), (0xD0B5D9D1#32, .vor 11#5 22#5 29#6 1#2), (0xD0C5D9D1#32, .vxor 11#5 22#5 29#6 1#2),
  (0xD0D5D9D1#32, .vshl 11#5 22#5 29#6 1#2), (0xD0E5D9D1#32, .vshr 11#5 22#5 29#6 1#2), (0xD0F5D9D1#32, .vcmpeq 11#5 22#5 29#6 1#2),
  (0xD105D9D1#32, .vcmplt 11#5 22#5 29#6 1#2), (0xD115D9D1#32, .vcmple 11#5 22#5 29#6 1#2), (0xD125D9D1#32, .vsel 11#5 22#5 29#6 1#2),
  (0xD135D800#32, .vmov 11#5 22#5), (0xD145D801#32, .vbcast 11#5 22#5 1#2), (0xD14581D3#32, .vbcastScalar 11#5 29#6), (0xD155D800#32, .vtrans 11#5 22#5),
  (0xD405D800#32, .vexp 11#5 22#5), (0xD415D800#32, .vexp2 11#5 22#5), (0xD425D800#32, .vlog2 11#5 22#5), (0xD435D800#32, .vrcp 11#5 22#5),
  (0xD445D800#32, .vrsqrt 11#5 22#5)]

theorem test_decode_words7 : (words7.all fun x => decodeTest x.2 x.1) = true := by decide +kernel

/-- VSQRT to SCOMMIT. -/
def words8 : List (W32 × Instr) := [
  (0xD455D800#32, .vsqrt 11#5 22#5), (0xD465D800#32, .vtanh 11#5 22#5), (0xD475D800#32, .vsigm 11#5 22#5), (0xD485D800#32, .vsilu 11#5 22#5),
  (0xD495D800#32, .vgelu 11#5 22#5), (0xD4A5D801#32, .vcvt 11#5 22#5 1#1), (0xD4B5D800#32, .vquant 11#5 22#5), (0xD4C5D800#32, .vdquant 11#5 22#5),
  (0xD4D5D801#32, .vrsum 11#5 22#5 1#1), (0xD4E5D800#32, .vrmax 11#5 22#5), (0xD4F5D800#32, .vrmin 11#5 22#5), (0xD505D9D0#32, .vsmaxo 11#5 22#5 29#6),
  (0xD515D9D0#32, .vsmaxf 11#5 22#5 29#6), (0xD525DBA0#32, .vrot 11#5 22#5 29#5 0#1), (0xD53583A0#32, .vrng 11#5 29#5),
  (0xD545DBA0#32, .vsample 11#5 22#5 29#5), (0xD555D800#32, .vargmax 11#5 22#5), (0xD802D694#32, .curadvG 11#6 22#6 37#6),
  (0xD802D695#32, .curadvP 11#6 22#6 37#6), (0xD812D694#32, .fracc 11#6 22#6 37#6), (0xD822D694#32, .strunc 11#6 22#6 37#6),
  (0xD832D628#32, .scommit 11#6 22#6 5#5)]

theorem test_decode_words8 : (words8.all fun x => decodeTest x.2 x.1) = true := by decide +kernel

/-- SSNAP to DICTIONARY_PAIR. -/
def words9 : List (W32 × Instr) := [
  (0xD842D694#32, .ssnap 11#6 22#6 37#6), (0xD852D694#32, .kvalloc 11#6 22#6 37#6), (0xD862D694#32, .kvfree 11#6 22#6 37#6),
  (0xD872D694#32, .kvborrow 11#6 22#6 37#6), (0xD882D694#32, .slsend 11#6 22#6 37#6), (0xD892D694#32, .slcancel 11#6 22#6 37#6), (0xDC000000#32, .nop),
  (0xDC10002C#32, .trapCode 11#12), (0xDC103FC0#32, .trapRestartStep), (0xDC103FC4#32, .trapRollBack), (0xDC103FC8#32, .trapKillContext),
  (0xDC103FCC#32, .trapEndUnit), (0xDC200000#32, .tret), (0xDC32C058#32, .crr 11#6 22#12), (0xDC42C058#32, .crw 11#6 22#12),
  (0xDC52C058#32, .crx 11#6 22#12), (0xDC600000#32, .brk), (0xDC700B58#32, .dictld 11#6 22#6), (0xDC800000#32, .ifence),
  (0xFC0BFC16#32, .dictionaryPair 11#10 22#10)]

theorem test_decode_words9 : (words9.all fun x => decodeTest x.2 x.1) = true := by decide +kernel

/-! ## The spec's worked encodings, and one ill-formed instruction for each check -/

/-- 01 (LDD), 02 (DIVW, LOOP, PUSHM, POPM, CAS, FENCE), 07 (TDLD, GATHER), 08 (MMA, MVM), 09 (VADD, VMUL, VSMAXO), 10 (CTRSIG, TLWAIT, SPAWN). -/
theorem test_worked_words :
    ([(0x74518C83#32, .ldd 5#6 6#6 3#4 0#2 2#2 3#6), (0x0870C408#32, .divw 7#6 3#6 4#6), (0x60940005#32, .hwLoop 9#6 1#2 5#14),
      (0x9505C000#32, .pushm 16#6 23#6), (0x9505C001#32, .popm 16#6 23#6), (0xB8A50C91#32, .casD 2#2 10#6 20#6 12#6 1#4),
      (0x9A600006#32, .fence 2#2 3#3 6#16), (0x9C618002#32, .tdld 3#5 6#6 0#4 2#8), (0xC85208AC#32, .gather 4#5 2#3 5#5 1#1 4#3),
      (0xCC10148B#32, .mma 8#5 1#5 9#5 5#6 1#1), (0xCD004328#32, .mvm 0#5 4#5 6#5 20#6 0#1), (0xD0018420#32, .vadd 3#5 1#5 2#6 0#2),
      (0xD0229493#32, .vmul 5#5 5#5 9#6 3#2), (0xD5031070#32, .vsmaxo 6#5 4#5 7#6), (0xC011461C#32, .ctrsig 5#6 6#6 7#6),
      (0xC0708900#32, .tlwait 2#6 9#6 0#6 0#2), (0xC0B24310#32, .spawn 9#6 3#6 2#5 0#2)] : List (W32 × Instr)).all (fun x => decodeTest x.2 x.1) = true := by
  decide +kernel

/-- An ill-formed instruction is refused under its name, and so is its word. -/
def refusedAs (i : Instr) (r : Illegal) : Bool := decide (i.illegality = some r) && !i.wellFormed
def refusesWord (w : W32) (e : DecodeError) : Bool := match decode w with
  | .ok _ => false
  | .error x => decide (x = e)

theorem test_ill_formed : refusedAs (.ldd 5#6 6#6 3#4 3#2 2#2 3#6) .policyReserved ∧ refusedAs (.fence 0#2 3#3 6#16) .fenceFields ∧
    refusedAs (.fence 2#2 6#3 6#16) .fenceFields ∧ refusedAs (.fence 2#2 3#3 0#16) .fenceFields ∧ refusedAs (.pushm 23#6 16#6) .registerRange ∧
    refusedAs (.hwLoop 9#6 1#2 0#14) .loopOffset ∧ refusedAs (.vadd 3#5 1#5 32#6 0#2) .tileOperand ∧ refusedAs (.tlwait 6#6 9#6 0#6 0#2) .reservedValue ∧
    refusedAs (.trapCode 0xFF0#12) .otherName := by decide

theorem test_illegal_words : refusesWord 0x74518F83#32 (.illegal .policyReserved) ∧ refusesWord 0x98600006#32 (.illegal .fenceFields) ∧
    refusesWord 0x95740000#32 (.illegal .registerRange) ∧ refusesWord 0x60940000#32 (.illegal .loopOffset) ∧
    refusesWord 0xD0018600#32 (.illegal .tileOperand) := by decide

/-! ## The spec's worked results -/

/-- What an instruction leaves in a register, and the next state as a whole. -/
def after (i : Instr) (s : State) : State := match exec i s with
  | .next t => t
  | _ => s
def regs (l : List (Nat × Word)) : State := { w0 with core := { w0.core with regs := l.foldl (fun v x => v.set! x.1 x.2) w0.core.regs } }

theorem test_add_wraps : (after (.add 9#6 7#6 8#6) w0).reg 9#6 = 0#64 ∧ (after (.add 0#6 7#6 8#6) w0).reg 0#6 = 0#64 := by decide +kernel
theorem test_sub_borrows : (after (.sub 9#6 0#6 8#6) w0).reg 9#6 = BitVec.allOnes 64 := by decide +kernel
theorem test_slt_signed : (after (.slt 9#6 7#6 8#6) w0).reg 9#6 = 1#64 ∧ (after (.sltu 9#6 7#6 8#6) w0).reg 9#6 = 0#64 := by decide +kernel
theorem test_clz_zero : (after (.clz 9#6 0#6) w0).reg 9#6 = 64#64 ∧ (after (.ctz 9#6 0#6) w0).reg 9#6 = 64#64 := by decide +kernel
theorem test_addw_sign : (after (.addw 9#6 10#6 8#6) (regs [(10, 0x7FFFFFFF#64)])).reg 9#6 = 0xFFFFFFFF80000000#64 := by decide +kernel

/-- 02 R41: 100 / 0 in the W form; −2^31 / −1. -/
theorem test_divw_zero : (after (.divw 9#6 3#6 4#6) (regs [(3, 100#64), (4, 0#64)])).reg 9#6 = BitVec.allOnes 64 ∧
    (after (.remw 9#6 3#6 4#6) (regs [(3, 100#64), (4, 0#64)])).reg 9#6 = 100#64 := by decide +kernel
theorem test_divw_overflow : (after (.divw 9#6 3#6 4#6) (regs [(3, 0x80000000#64), (4, 0xFFFFFFFF#64)])).reg 9#6 = 0xFFFFFFFF80000000#64 ∧
    (after (.remw 9#6 3#6 4#6) (regs [(3, 0x80000000#64), (4, 0xFFFFFFFF#64)])).reg 9#6 = 0#64 := by decide +kernel

/-- 02 R57: pushm g16, g23 at ssp = local(self, 0x1_0000). -/
theorem test_pushm : let t := after (.pushm 16#6 23#6) { regs [(16, 0x11#64), (23, 0x22#64)] with
      core := { (regs [(16, 0x11#64), (23, 0x22#64)]).core with ssp := mkPtr 2 0xFFF 0x10000 } }
    t.core.ssp = mkPtr 2 0xFFF 0xFFC0 ∧ (t.core.stores.map fun e => (e.va, natOf e.bytes)).head? = some (mkPtr 2 0xFFF 0xFFC0, 0x11) ∧
    (t.core.stores.map fun e => (e.va, natOf e.bytes)).getLast? = some (mkPtr 2 0xFFF 0xFFF8, 0x22) := by decide +kernel

/-- 22 R352, 24 R374: TRAP 5 from level 0 goes to the vector base with its word's successor to return to. -/
theorem test_trap : let t := after (.trapCode 5#12) w0
    t.core.pc = 0x900#64 ∧ t.core.ctl.tlevel = 1#2 ∧ t.core.ctl.tret1 = 0x1004#64 := by decide +kernel

/-- 04 R73, R82 (the leaf of the hash table's data page), 12 R227 (the lines of the troubled stack). -/
theorem test_leaf : (leafEntry 3 0x200030 0 0 0x02A006800123806F).frame = 0x68001230000 ∧ (leafAttr 0x02A006800123806F).key = 0x2A ∧
    (leafAttr 0x02A006800123806F).compress = true ∧ pkgOf 0x68001230000 = 3 ∧ homeDie 0x68001230000 = 40 ∧
    (leafEntry 3 0x200030 0 0 0x02A006800123806F).pa 0x200030 = 0x68001230030 := by decide +kernel
theorem test_pch : pchOf 0x8AC09 = 19 ∧ pchOf 0x8AC16 = 46 := by decide +kernel

/-- 05 R109: 2048 and 2048 and 512 bytes at a target of 4096 and generation 7; and 9000 at once. -/
theorem test_arrivals : arriveWord (4096 + 7 * 2 ^ 64) 2048 = 4096 + 2048 * 2 ^ 32 + 7 * 2 ^ 64 ∧
    arriveWord (4096 + 2048 * 2 ^ 32 + 7 * 2 ^ 64) 2048 = 4096 + 8 * 2 ^ 64 ∧ arriveWord (4096 + 8 * 2 ^ 64) 512 = 4096 + 512 * 2 ^ 32 + 8 * 2 ^ 64 ∧
    arriveWord (4096 + 7 * 2 ^ 64) 9000 = 4096 + 808 * 2 ^ 32 + 9 * 2 ^ 64 := by decide +kernel

/-- 06 R117. -/
theorem test_rne_bf16 : [0x3F808000, 0x3F818000, 0x7F7FFFFF, 0x00008001].map rneBF16 = [0x3F80, 0x3F82, 0x7F80, 0x0001] := by decide +kernel

/-- 06 R119, F4 under sat: 0.2, 0.375, 0.4, −0.25, −0.3, 5, 100, +∞, −∞, NaN as FP32; F8A: 470 under sat and ovn, 464 under ovn. -/
theorem test_cvt_f4 : [0x3E4CCCCD, 0x3EC00000, 0x3ECCCCCD, 0xBE800000, 0xBE99999A, 0x40A00000, 0x42C80000, 0x7F800000, 0xFF800000, 0x7FC00000].map
    (fun v => cvtNarrow 5 false (ofFP32 v)) = [0, 0, 1, 0, 8, 6, 7, 7, 0xF, 0] := by decide +kernel
theorem test_cvt_f8a : cvtNarrow 2 false (ofFP32 0x43EB0000) = 0x7E ∧ cvtNarrow 2 true (ofFP32 0x43EB0000) = 0x7F ∧ cvtNarrow 2 true (ofFP32 0x43E80000) = 0x7E := by decide +kernel

/-- 06 R124: entry 0x1311_3311 and code 0x0345, as FP32. -/
theorem test_vq2 : (List.range 8).map (fun j => toFP32 (vq2Weight 0x13113311 0x0345 j)) =
    [0xBF000000, 0x3F000000, 0xBFC00000, 0x3FC00000, 0x3F000000, 0x3F000000, 0xBFC00000, 0xBF000000] := by decide +kernel

/-- 06 R125: 2^24 and 32 ones in chunks of 32; 08: 40 products of 0.5, of −1, and of 2^−133. -/
theorem test_chunk_sum : chunkSum 2 0 (ofFP32 0x4B800000 :: List.replicate 32 (ofFP32 0x3F800000)) = 0x4B800010 ∧
    chunkSum 2 0 (List.replicate 40 (ofBF16 0x3F00)) = 0x41A00000 ∧ chunkSum 2 0 (List.replicate 40 (ofBF16 0xBF80)) = 0xC2200000 ∧
    chunkSum 2 0 (List.replicate 40 (.fin false 1 (-133))) = 0x00280000 := by decide +kernel

/-- 06 R129, position 16 at 1/64 turn per position. -/
theorem test_rot : rotCs 16 0x04000000 = (0, 0x3F800000) := by decide +kernel

/-- 14 R252: step 13 of loops (100, 64) in tiles (32, 16); R253: its die under MODE 0 and blocked. -/
theorem test_sweep_step : let r : SweepRec := { sweepRec with nloop := 2, bound := [100, 64], tile := [32, 16], order := [1, 2] }
    r.steps = 16 ∧ r.first 13 = [(1, 96), (2, 16)] ∧ ({ theSweep with record := r, dies := [32, 33, 34, 35] } : Sweep).dieOf 13 = 33 ∧
    ({ theSweep with record := { r with mode := 1 }, dies := [32, 33, 34, 35] } : Sweep).dieOf 13 = 35 := by decide +kernel

/-! ## Reset -/

theorem test_reset_not_halted : State.reset.halted = false := rfl
theorem test_reset_memory : State.reset.mem = [] ∧ Memory.wf State.reset.mem = true := by decide
theorem test_reset_fetches : decodeTableWord 32 0x04B5A500 = some (.add 11#6 22#6 37#6) := by decide +kernel

end Sys2Proof.Tests
end

section
/-!
PROOFS. The decoder against the encoder (spec/01_encoding.md).
-/
namespace Sys2Proof.Proofs

open Laws in
/-- The round trip of every row of the opcode table: an encoded word by the lemma of its own, and the operations and events of the
part because they have no word. -/
theorem roundTrip (i : Instr) : RoundTrip.Statement i := by
  cases i with
  -- ALU words
  | add => apply RoundTrip.add | sub => apply RoundTrip.sub | andR => apply RoundTrip.andR
  | orR => apply RoundTrip.orR | xorR => apply RoundTrip.xorR | andn => apply RoundTrip.andn
  | sll => apply RoundTrip.sll | srl => apply RoundTrip.srl | sra => apply RoundTrip.sra | ror => apply RoundTrip.ror
  | slt => apply RoundTrip.slt | sltu => apply RoundTrip.sltu | minS => apply RoundTrip.minS
  | maxS => apply RoundTrip.maxS | minu => apply RoundTrip.minu | maxu => apply RoundTrip.maxu
  | addw => apply RoundTrip.addw | subw => apply RoundTrip.subw | sllw => apply RoundTrip.sllw
  | srlw => apply RoundTrip.srlw | sraw => apply RoundTrip.sraw | clz => apply RoundTrip.clz
  | ctz => apply RoundTrip.ctz | popc => apply RoundTrip.popc | sextb => apply RoundTrip.sextb
  | sexth => apply RoundTrip.sexth | sextw => apply RoundTrip.sextw | zextw => apply RoundTrip.zextw
  -- Multiply and divide words
  | mul => apply RoundTrip.mul | mulh => apply RoundTrip.mulh | mulhu => apply RoundTrip.mulhu
  | mulw => apply RoundTrip.mulw | div => apply RoundTrip.div | divu => apply RoundTrip.divu
  | rem => apply RoundTrip.rem | remu => apply RoundTrip.remu | divw => apply RoundTrip.divw
  | divuw => apply RoundTrip.divuw | remw => apply RoundTrip.remw | remuw => apply RoundTrip.remuw
  -- Words with an immediate
  | addi => apply RoundTrip.addi | andi => apply RoundTrip.andi | ori => apply RoundTrip.ori
  | xori => apply RoundTrip.xori | slti => apply RoundTrip.slti | sltiu => apply RoundTrip.sltiu
  | slli => apply RoundTrip.slli | srli => apply RoundTrip.srli | srai => apply RoundTrip.srai
  | rori => apply RoundTrip.rori | lui => apply RoundTrip.lui | lim => apply RoundTrip.lim
  | lih => apply RoundTrip.lih | addpc => apply RoundTrip.addpc
  -- Pointer-tag words
  | ptag => apply RoundTrip.ptag | prank => apply RoundTrip.prank | pspace => apply RoundTrip.pspace
  | poff => apply RoundTrip.poff | padd => apply RoundTrip.padd
  -- Branches, jumps and LOOP
  | beq => apply RoundTrip.beq | bne => apply RoundTrip.bne | blt => apply RoundTrip.blt | bge => apply RoundTrip.bge
  | bltu => apply RoundTrip.bltu | bgeu => apply RoundTrip.bgeu | jal => apply RoundTrip.jal
  | jalr => apply RoundTrip.jalr | hwLoop => apply RoundTrip.hwLoop
  -- Loads, stores and fences
  | ldb => apply RoundTrip.ldb | ldh => apply RoundTrip.ldh | ldw => apply RoundTrip.ldw | ldd => apply RoundTrip.ldd
  | ldsb => apply RoundTrip.ldsb | ldsh => apply RoundTrip.ldsh | ldsw => apply RoundTrip.ldsw
  | stb => apply RoundTrip.stb | sth => apply RoundTrip.sth | stw => apply RoundTrip.stw | std => apply RoundTrip.std
  | pushm => apply RoundTrip.pushm | popm => apply RoundTrip.popm | fence => apply RoundTrip.fence
  | tdld => apply RoundTrip.tdld | tdst => apply RoundTrip.tdst
  -- Atomic words
  | amoswapW => apply RoundTrip.amoswapW | amoswapD => apply RoundTrip.amoswapD | amoaddW => apply RoundTrip.amoaddW
  | amoaddD => apply RoundTrip.amoaddD | amoandW => apply RoundTrip.amoandW | amoandD => apply RoundTrip.amoandD
  | amoorW => apply RoundTrip.amoorW | amoorD => apply RoundTrip.amoorD | amoxorW => apply RoundTrip.amoxorW
  | amoxorD => apply RoundTrip.amoxorD | amominW => apply RoundTrip.amominW | amominD => apply RoundTrip.amominD
  | amomaxW => apply RoundTrip.amomaxW | amomaxD => apply RoundTrip.amomaxD | amominuW => apply RoundTrip.amominuW
  | amominuD => apply RoundTrip.amominuD | amomaxuW => apply RoundTrip.amomaxuW | amomaxuD => apply RoundTrip.amomaxuD
  | casW => apply RoundTrip.casW | casD => apply RoundTrip.casD | cas2 => apply RoundTrip.cas2
  | amofadd => apply RoundTrip.amofadd
  -- Task and synchronisation words
  | ctrinit => apply RoundTrip.ctrinit | ctrsig => apply RoundTrip.ctrsig | ctrrd => apply RoundTrip.ctrrd
  | ctrwait => apply RoundTrip.ctrwait | barinit => apply RoundTrip.barinit | bararv => apply RoundTrip.bararv
  | barwait => apply RoundTrip.barwait | tlwait => apply RoundTrip.tlwait | tlrd => apply RoundTrip.tlrd
  | arinit => apply RoundTrip.arinit | arwait => apply RoundTrip.arwait | spawn => apply RoundTrip.spawn
  | spawnd => apply RoundTrip.spawnd | yield => apply RoundTrip.yield | stepend => apply RoundTrip.stepend
  | chkopen => apply RoundTrip.chkopen | chkclose => apply RoundTrip.chkclose
  -- Continuation words
  | suspend => apply RoundTrip.suspend | resume => apply RoundTrip.resume | ccopy => apply RoundTrip.ccopy
  | cdiscard => apply RoundTrip.cdiscard | cquery => apply RoundTrip.cquery | crights => apply RoundTrip.crights
  -- Copy words
  | cpin => apply RoundTrip.cpin | cpout => apply RoundTrip.cpout | cptin => apply RoundTrip.cptin
  | cptout => apply RoundTrip.cptout | cpll => apply RoundTrip.cpll | gather => apply RoundTrip.gather
  | scatter => apply RoundTrip.scatter | idxld => apply RoundTrip.idxld | fill => apply RoundTrip.fill
  | promote => apply RoundTrip.promote | subscr => apply RoundTrip.subscr | slotret => apply RoundTrip.slotret
  -- Matrix words
  | mma => apply RoundTrip.mma | mmapLead => apply RoundTrip.mmapLead | mmapFol => apply RoundTrip.mmapFol
  | wbld => apply RoundTrip.wbld | cbld => apply RoundTrip.cbld | mvm => apply RoundTrip.mvm
  | mzero => apply RoundTrip.mzero
  -- Vector words, arithmetic and logic
  | vadd => apply RoundTrip.vadd | vsub => apply RoundTrip.vsub | vmul => apply RoundTrip.vmul
  | vfma => apply RoundTrip.vfma | vmin => apply RoundTrip.vmin | vmax => apply RoundTrip.vmax
  | vabs => apply RoundTrip.vabs | vneg => apply RoundTrip.vneg | vscl => apply RoundTrip.vscl
  | vadds => apply RoundTrip.vadds | vand => apply RoundTrip.vand | vor => apply RoundTrip.vor
  | vxor => apply RoundTrip.vxor | vshl => apply RoundTrip.vshl | vshr => apply RoundTrip.vshr
  | vcmpeq => apply RoundTrip.vcmpeq | vcmplt => apply RoundTrip.vcmplt | vcmple => apply RoundTrip.vcmple
  | vsel => apply RoundTrip.vsel | vmov => apply RoundTrip.vmov | vbcast => apply RoundTrip.vbcast
  | vbcastScalar => apply RoundTrip.vbcastScalar | vtrans => apply RoundTrip.vtrans
  -- Vector words, functions and reductions
  | vexp => apply RoundTrip.vexp | vexp2 => apply RoundTrip.vexp2 | vlog2 => apply RoundTrip.vlog2
  | vrcp => apply RoundTrip.vrcp | vrsqrt => apply RoundTrip.vrsqrt | vsqrt => apply RoundTrip.vsqrt
  | vtanh => apply RoundTrip.vtanh | vsigm => apply RoundTrip.vsigm | vsilu => apply RoundTrip.vsilu
  | vgelu => apply RoundTrip.vgelu | vcvt => apply RoundTrip.vcvt | vquant => apply RoundTrip.vquant
  | vdquant => apply RoundTrip.vdquant | vrsum => apply RoundTrip.vrsum | vrmax => apply RoundTrip.vrmax
  | vrmin => apply RoundTrip.vrmin | vsmaxo => apply RoundTrip.vsmaxo | vsmaxf => apply RoundTrip.vsmaxf
  | vrot => apply RoundTrip.vrot | vrng => apply RoundTrip.vrng | vsample => apply RoundTrip.vsample
  | vargmax => apply RoundTrip.vargmax
  -- Stream words
  | curadvG => apply RoundTrip.curadvG | curadvP => apply RoundTrip.curadvP | fracc => apply RoundTrip.fracc
  | strunc => apply RoundTrip.strunc | scommit => apply RoundTrip.scommit | ssnap => apply RoundTrip.ssnap
  | kvalloc => apply RoundTrip.kvalloc | kvfree => apply RoundTrip.kvfree | kvborrow => apply RoundTrip.kvborrow
  | slsend => apply RoundTrip.slsend | slcancel => apply RoundTrip.slcancel
  -- System words
  | nop => apply RoundTrip.nop | trapCode => apply RoundTrip.trapCode
  | trapRestartStep => apply RoundTrip.trapRestartStep | trapRollBack => apply RoundTrip.trapRollBack
  | trapKillContext => apply RoundTrip.trapKillContext | trapEndUnit => apply RoundTrip.trapEndUnit
  | tret => apply RoundTrip.tret | crr => apply RoundTrip.crr | crw => apply RoundTrip.crw
  | crx => apply RoundTrip.crx | brk => apply RoundTrip.brk | dictld => apply RoundTrip.dictld
  | ifence => apply RoundTrip.ifence
  -- Dictionary pair
  | dictionaryPair => apply RoundTrip.dictionaryPair
  -- Operations and events of the part
  | _ => intro _ _ hword; cases hword

/-- Settles O26: the round trip of each instruction, put into the order of the statement. -/
theorem decodeEncode : Obligations.DecodeEncode :=
  fun i w hwf hword => roundTrip i hwf w hword

/-- Settles O25: each word is the encoding of the well-formed instruction it is said to stand for, so it decodes to that. -/
theorem decodeWords : Obligations.DecodeWords := by
  unfold Obligations.DecodeWords
  and_intros <;> exact decodeEncode _ _ (by decide) (by decide)

end Sys2Proof.Proofs
end

section
/-!
PROOFS. The encoder against the decoder (spec/01_encoding.md R11–R17): the fields of a word, packed again, are the word; and each
table of Table 6 accepts only fields that the encoder writes.
-/
namespace Sys2Proof.Proofs

/-! ## Packing the fields of a word -/

theorem fld_toNat (w : W32) (lo n : Nat) : (fld w lo n).toNat = w.toNat / 2 ^ lo % 2 ^ n := sub_toNat w lo n

theorem eq_ofNat_of_toNat {n k : Nat} {v : BitVec n} (h : v.toNat = k) : v = .ofNat n k := by
  rw [← h, BitVec.ofNat_toNat, BitVec.setWidth_eq]

section
variable {w : W32} {op : Nat} (h : (fld w 26 6).toNat = op)
include h

theorem packR_fields : packR (.ofNat 6 op) (fld w 20 6) (fld w 14 6) (fld w 8 6) (.ofNat 8 (fld w 0 8).toNat) = w := by
  apply BitVec.eq_of_toNat_eq
  have := w.isLt
  rw [← eq_ofNat_of_toNat h]
  simp only [packR_toNat, fld_toNat, BitVec.toNat_ofNat]
  omega

theorem packI_fields : packI (.ofNat 6 op) (fld w 20 6) (fld w 14 6) (fld w 0 14) = w := by
  apply BitVec.eq_of_toNat_eq
  have := w.isLt
  rw [← eq_ofNat_of_toNat h]
  simp only [packI_toNat, fld_toNat]
  omega

theorem packU_fields : packU (.ofNat 6 op) (fld w 20 6) (fld w 0 20) = w := by
  apply BitVec.eq_of_toNat_eq
  have := w.isLt
  rw [← eq_ofNat_of_toNat h]
  simp only [packU_toNat, fld_toNat]
  omega

theorem packB_fields : packB (.ofNat 6 op) (fld w 20 6) (fld w 14 6) (fld w 0 14) = w := by
  apply BitVec.eq_of_toNat_eq
  have := w.isLt
  rw [← eq_ofNat_of_toNat h]
  simp only [packB_toNat, fld_toNat]
  omega

theorem packJ_fields : packJ (.ofNat 6 op) (fld w 20 6) (fld w 0 20) = w := by
  apply BitVec.eq_of_toNat_eq
  have := w.isLt
  rw [← eq_ofNat_of_toNat h]
  simp only [packJ_toNat, fld_toNat]
  omega

theorem packL_fields : packL (.ofNat 6 op) (fld w 20 6) (fld w 18 2) (fld w 14 4) (fld w 0 14) = w := by
  apply BitVec.eq_of_toNat_eq
  have := w.isLt
  rw [← eq_ofNat_of_toNat h]
  simp only [packL_toNat, fld_toNat]
  omega

theorem packM_fields : packM (.ofNat 6 op) (fld w 20 6) (fld w 14 6) (fld w 10 4) (fld w 8 2) (fld w 6 2) (fld w 0 6) = w := by
  apply BitVec.eq_of_toNat_eq
  have := w.isLt
  rw [← eq_ofNat_of_toNat h]
  simp only [packM_toNat, fld_toNat]
  omega

theorem packP_fields : packP (.ofNat 6 op) (fld w 20 6) (fld w 14 6) (fld w 1 13) (fld w 0 1) = w := by
  apply BitVec.eq_of_toNat_eq
  have := w.isLt
  rw [← eq_ofNat_of_toNat h]
  simp only [packP_toNat, fld_toNat]
  omega

theorem packF_fields : packF (.ofNat 6 op) (fld w 24 2) (fld w 21 3) (fld w 16 5) (fld w 0 16) = w := by
  apply BitVec.eq_of_toNat_eq
  have := w.isLt
  rw [← eq_ofNat_of_toNat h]
  simp only [packF_toNat, fld_toNat]
  omega

theorem packT_fields : packT (.ofNat 6 op) (fld w 21 5) (fld w 20 1) (fld w 14 6) (fld w 12 2) (fld w 8 4) (fld w 0 8) = w := by
  apply BitVec.eq_of_toNat_eq
  have := w.isLt
  rw [← eq_ofNat_of_toNat h]
  simp only [packT_toNat, fld_toNat]
  omega

theorem packA_fields : packA (.ofNat 6 op) (fld w 20 6) (fld w 14 6) (fld w 8 6) (.ofNat 4 (fld w 4 4).toNat) (fld w 0 4) = w := by
  apply BitVec.eq_of_toNat_eq
  have := w.isLt
  rw [← eq_ofNat_of_toNat h]
  simp only [packA_toNat, fld_toNat, BitVec.toNat_ofNat]
  omega

theorem packS_fields : packS (.ofNat 6 op) (.ofNat 6 (fld w 20 6).toNat) (fld w 14 6) (fld w 8 6) (fld w 2 6) (fld w 0 2) = w := by
  apply BitVec.eq_of_toNat_eq
  have := w.isLt
  rw [← eq_ofNat_of_toNat h]
  simp only [packS_toNat, fld_toNat, BitVec.toNat_ofNat]
  omega

theorem packE_fields : packE (.ofNat 6 op) (.ofNat 6 (fld w 20 6).toNat) (fld w 15 5) (fld w 10 5) (fld w 4 6) (fld w 0 4) = w := by
  apply BitVec.eq_of_toNat_eq
  have := w.isLt
  rw [← eq_ofNat_of_toNat h]
  simp only [packE_toNat, fld_toNat, BitVec.toNat_ofNat]
  omega

theorem packEM_fields :
    packEM (.ofNat 6 op) (.ofNat 4 (fld w 22 4).toNat) (fld w 17 5) (fld w 12 5) (fld w 7 5) (fld w 1 6) (fld w 0 1) = w := by
  apply BitVec.eq_of_toNat_eq
  have := w.isLt
  rw [← eq_ofNat_of_toNat h]
  simp only [packEM_toNat, fld_toNat, BitVec.toNat_ofNat]
  omega

theorem packDP_fields : packDP (.ofNat 6 op) (fld w 16 10) (fld w 10 6) (fld w 0 10) = w := by
  apply BitVec.eq_of_toNat_eq
  have := w.isLt
  rw [← eq_ofNat_of_toNat h]
  simp only [packDP_toNat, fld_toNat]
  omega

end

/-- The number field of format SC is the two register fields of format S that stand in its place. -/
theorem packSC_append (op fn d a b : BitVec 6) (m : BitVec 2) : packSC op fn d (a ++ b) m = packS op fn d a b m := by
  apply BitVec.eq_of_toNat_eq
  have := b.isLt
  rw [packSC_toNat, packS_toNat, BitVec.toNat_append, ← Nat.shiftLeft_add_eq_or_of_lt b.isLt, Nat.shiftLeft_eq]
  omega

theorem fld_number (w : W32) : fld w 2 12 = fld w 8 6 ++ fld w 2 6 := by
  apply BitVec.eq_of_toNat_eq
  rw [BitVec.toNat_append, ← Nat.shiftLeft_add_eq_or_of_lt (fld w 2 6).isLt, Nat.shiftLeft_eq]
  simp only [fld_toNat]
  omega

/-! ## Fields with reserved bits -/

@[simp] theorem okIf_eq_ok {c : Bool} {i j : Instr} : okIf c i = .ok j ↔ c = true ∧ i = j := by
  cases c <;> simp [okIf]

/-- A field whose other bits are zero is its sub-field put back in its place. -/
theorem part_subFld {n lo k : Nat} {f : BitVec n} (h : onlyBits f lo k = true) : part n lo (subFld f lo k) = f := by
  apply BitVec.eq_of_toNat_eq
  rw [onlyBits, beq_iff_eq] at h
  rw [part, BitVec.toNat_ofNat, sub_toNat, ← h, Nat.mod_eq_of_lt f.isLt]

theorem shiImm_fields {imm : BitVec 14} (h : (subFld imm 6 6).toNat = 0) :
    shiImm (subFld imm 12 2).toNat (subFld imm 0 6) = imm := by
  apply BitVec.eq_of_toNat_eq
  have := imm.isLt
  rw [sub_toNat] at h
  rw [shiImm, BitVec.toNat_ofNat, sub_toNat, sub_toNat]
  omega

theorem gatherM_fields (m : BitVec 4) : gatherM (subFld m 3 1) (subFld m 0 3) = m := by
  apply BitVec.eq_of_toNat_eq
  have := m.isLt
  rw [gatherM, BitVec.toNat_ofNat, sub_toNat, sub_toNat]
  omega

/-- The base of an atomic word's major: 0x28 for 4 bytes and 0x2C for 8 (R13). -/
def atomBase (wide : Bool) : Nat := if wide then 44 else 40

theorem atomic_major {op : BitVec 6} (h : op.toNat / 8 = 5) :
    op.toNat = atomBase (op.toNat / 4 % 2 == 1) + (subFld op 0 2).toNat := by
  rw [sub_toNat, atomBase]
  split <;> simp_all <;> omega

theorem encode_trapWord (n : BitVec 12) : encode (trapWord n) = some (packSC 0x37#6 1#6 0#6 n 0#2) := by
  unfold trapWord
  split
  case h_1 h => rw [eq_ofNat_of_toNat h]; rfl
  case h_2 h => rw [eq_ofNat_of_toNat h]; rfl
  case h_3 h => rw [eq_ofNat_of_toNat h]; rfl
  case h_4 h => rw [eq_ofNat_of_toNat h]; rfl
  case h_5 => rfl


/-! ## The tables of the decoder -/

/-- What a table of the decoder accepts is an instruction of this one word. -/
def Encodes (r : Except DecodeError Instr) (w : W32) : Prop := ∀ i, r = .ok i → encode i = some w

theorem Encodes.ok {i : Instr} {w : W32} (h : encode i = some w) : Encodes (.ok i) w := by
  rintro _ ⟨⟩
  exact h

theorem Encodes.error {e : DecodeError} {w : W32} : Encodes (.error e) w := by
  rintro _ ⟨⟩

theorem Encodes.at {r : Except DecodeError Instr} {v w : W32} (h : Encodes r v) (hv : v = w) : Encodes r w := hv ▸ h

/-- Of a row with reserved fields it is left to see that the encoder writes what the check lets pass. -/
theorem Encodes.okIf {c : Bool} {i : Instr} {v w : W32} (he : encode i = some v) (h : c = true → v = w) :
    Encodes (okIf c i) w := by
  intro j hj
  obtain ⟨hc, rfl⟩ := okIf_eq_ok.mp hj
  rw [he, h hc]

theorem encodes_parseAlu {d a b : BitVec 6} {fn : Nat} :
    Encodes (parseAlu d a b fn) (packR 0x01#6 d a b (.ofNat 8 fn)) := by
  unfold parseAlu
  split
  case h_22 | h_23 | h_24 | h_25 | h_26 | h_27 | h_28 => exact .okIf rfl (by simp +contextual)
  case h_29 => exact .error
  all_goals exact .ok rfl

theorem encodes_parseMulDiv {d a b : BitVec 6} {fn : Nat} :
    Encodes (parseMulDiv d a b fn) (packR 0x02#6 d a b (.ofNat 8 fn)) := by
  unfold parseMulDiv
  split
  case h_13 => exact .error
  all_goals exact .ok rfl

theorem encodes_parseShi {d a : BitVec 6} {imm : BitVec 14} : Encodes (parseShi d a imm) (packI 0x09#6 d a imm) := by
  unfold parseShi
  split
  case isFalse => exact .error
  case isTrue hrsv =>
    have himm := shiImm_fields hrsv
    have hkind := (subFld imm 12 2).isLt
    split
    case h_1 h => rw [h] at himm; exact .ok (congrArg (some <| packI 0x09#6 d a ·) himm)
    case h_2 h => rw [h] at himm; exact .ok (congrArg (some <| packI 0x09#6 d a ·) himm)
    case h_3 h => rw [h] at himm; exact .ok (congrArg (some <| packI 0x09#6 d a ·) himm)
    case h_4 h0 h1 h2 =>
      simp only [imp_false] at h0 h1 h2
      rw [show (subFld imm 12 2).toNat = 3 by omega] at himm
      exact .ok (congrArg (some <| packI 0x09#6 d a ·) himm)

theorem encodes_parseTag {d a b : BitVec 6} {fn : Nat} :
    Encodes (parseTag d a b fn) (packR 0x0c#6 d a b (.ofNat 8 fn)) := by
  unfold parseTag
  split
  case h_3 | h_4 => exact .okIf rfl (by simp +contextual)
  case h_6 => exact .error
  all_goals exact .ok rfl

theorem encodes_parseMulti {f l : BitVec 6} {rsv : BitVec 13} {dir : BitVec 1} :
    Encodes (parseMulti f l rsv dir) (packP 0x25#6 f l rsv dir) := by
  unfold parseMulti
  rcases BitVec.eq_zero_or_eq_one dir with rfl | rfl <;> exact .okIf rfl (by simp +contextual)

theorem encodes_parseTd {t : BitVec 5} {rsv : BitVec 1} {b : BitVec 6} {fn : BitVec 2} {c : BitVec 4} {o : BitVec 8} :
    Encodes (parseTd t rsv b fn c o) (packT 0x27#6 t rsv b fn c o) := by
  unfold parseTd
  split
  case h_1 h => rw [eq_ofNat_of_toNat h]; exact .okIf rfl (by simp +contextual)
  case h_2 h => rw [eq_ofNat_of_toNat h]; exact .okIf rfl (by simp +contextual)
  case h_3 => exact .error

theorem encodes_parseAtomic {wide : Bool} {r : BitVec 2} {d a b : BitVec 6} {c : BitVec 4} {fn : Nat} :
    Encodes (parseAtomic wide r d a b c fn) (packA (atomOp (atomBase wide) r) d a b (.ofNat 4 fn) c) := by
  unfold parseAtomic
  split
  case h_21 => exact .okIf rfl (by simp +contextual [part_subFld, atomBase])
  case h_23 | h_24 | h_25 => exact .error
  all_goals exact .ok rfl

theorem encodes_parseSync {d a b : BitVec 6} {m : BitVec 2} {fn : Nat} :
    Encodes (parseSync d a b m fn) (packS 0x30#6 (.ofNat 6 fn) d a b m) := by
  unfold parseSync
  split
  case h_8 => exact .ok rfl
  case h_18 => exact .error
  all_goals exact .okIf rfl (by simp +contextual [part_subFld])

theorem encodes_parseCont {d a b : BitVec 6} {m : BitVec 2} {fn : Nat} :
    Encodes (parseCont d a b m fn) (packS 0x31#6 (.ofNat 6 fn) d a b m) := by
  unfold parseCont
  split
  case h_7 => exact .error
  all_goals exact .okIf rfl (by simp +contextual [part_subFld])

theorem encodes_parseCpe {d a : BitVec 5} {b : BitVec 6} {m : BitVec 4} {fn : Nat} :
    Encodes (parseCpe d a b m fn) (packE 0x32#6 (.ofNat 6 fn) d a b m) := by
  unfold parseCpe
  split
  case h_13 => exact .error
  all_goals exact .okIf rfl (by simp +contextual [part_subFld, gatherM_fields])

theorem encodes_parseMat {d a b : BitVec 5} {g : BitVec 6} {f : BitVec 1} {fn : Nat} :
    Encodes (parseMat d a b g f fn) (packEM 0x33#6 (.ofNat 4 fn) d a b g f) := by
  unfold parseMat
  split
  case h_1 | h_5 => exact .ok rfl
  case h_2 =>
    rcases BitVec.eq_zero_or_eq_one f with rfl | rfl
    · exact .ok rfl
    · exact .okIf rfl (by simp +contextual)
  case h_7 => exact .error
  all_goals exact .okIf rfl (by simp +contextual)

theorem encodes_parseVec0 {d a : BitVec 5} {b : BitVec 6} {m : BitVec 4} {fn : Nat} :
    Encodes (parseVec0 d a b m fn) (packE 0x34#6 (.ofNat 6 fn) d a b m) := by
  unfold parseVec0
  split
  case h_21 =>
    split
    case isTrue h => rw [beq_iff_eq.mp h]; exact .okIf rfl (by simp +contextual)
    case isFalse => exact .okIf rfl (by simp +contextual [part_subFld])
  case h_23 => exact .error
  all_goals exact .okIf rfl (by simp +contextual [part_subFld])

theorem encodes_parseVec1 {d a : BitVec 5} {b : BitVec 6} {m : BitVec 4} {fn : Nat} :
    Encodes (parseVec1 d a b m fn) (packE 0x35#6 (.ofNat 6 fn) d a b m) := by
  unfold parseVec1
  split
  case h_23 => exact .error
  all_goals exact .okIf rfl (by simp +contextual [part_subFld])

theorem encodes_parseStrm {d a b : BitVec 6} {m : BitVec 2} {fn : Nat} :
    Encodes (parseStrm d a b m fn) (packS 0x36#6 (.ofNat 6 fn) d a b m) := by
  unfold parseStrm
  split
  case h_1 =>
    split
    case isTrue h => rw [beq_iff_eq.mp h]; exact .ok rfl
    case isFalse => exact .okIf rfl (by simp +contextual)
  case h_11 => exact .error
  all_goals exact .okIf rfl (by simp +contextual [part_subFld])

theorem encodes_parseSys {d a b : BitVec 6} {m : BitVec 2} {fn : Nat} :
    Encodes (parseSys d a b m (a ++ b) fn) (packS 0x37#6 (.ofNat 6 fn) d a b m) := by
  unfold parseSys
  split
  case h_2 => exact .okIf (encode_trapWord _) (by simp +contextual [packSC_append])
  case h_4 | h_5 | h_6 => exact .okIf rfl (by simp +contextual [packSC_append])
  case h_10 => exact .error
  all_goals exact .okIf rfl (by simp +contextual)

/-! ## The word -/

/-- Each major's fields, packed again, are the word (R11, Table 5). -/
theorem encodes_parse (w : W32) : Encodes (parse w) w := by
  unfold parse
  split
  case isTrue hatom => exact encodes_parseAtomic.at (packA_fields (atomic_major hatom))
  case isFalse =>
    split
    -- Register, immediate and constant words (02 R37–R43)
    case h_1 hop => exact encodes_parseAlu.at (packR_fields hop)
    case h_2 hop => exact encodes_parseMulDiv.at (packR_fields hop)
    case h_3 hop | h_4 hop | h_5 hop | h_6 hop | h_7 hop | h_8 hop => exact .ok (congrArg some (packI_fields hop))
    case h_9 hop => exact encodes_parseShi.at (packI_fields hop)
    case h_10 hop | h_13 hop => exact .ok (congrArg some (packU_fields hop))
    case h_11 hop | h_12 hop => exact .okIf rfl fun hrsv => by rw [part_subFld hrsv, packU_fields hop]
    case h_14 hop => exact encodes_parseTag.at (packR_fields hop)
    -- Branches, jumps and LOOP
    case h_15 hop | h_16 hop | h_17 hop | h_18 hop | h_19 hop | h_20 hop => exact .ok (congrArg some (packB_fields hop))
    case h_21 hop => exact .ok (congrArg some (packJ_fields hop))
    case h_22 hop => exact .ok (congrArg some (packI_fields hop))
    case h_23 hop => exact .okIf rfl fun hrsv => beq_iff_eq.mp hrsv ▸ packL_fields hop
    -- Loads and stores
    case h_24 hop | h_25 hop | h_26 hop | h_27 hop | h_28 hop | h_29 hop | h_30 hop | h_31 hop | h_32 hop | h_33 hop | h_34 hop =>
      exact .ok (congrArg some (packM_fields hop))
    -- PUSHM and POPM, FENCE, TDLD and TDST
    case h_35 hop => exact encodes_parseMulti.at (packP_fields hop)
    case h_36 hop => exact .okIf rfl fun hrsv => beq_iff_eq.mp hrsv ▸ packF_fields hop
    case h_37 hop => exact encodes_parseTd.at (packT_fields hop)
    -- Synchronisation, engine, stream and system words
    case h_38 hop => exact encodes_parseSync.at (packS_fields hop)
    case h_39 hop => exact encodes_parseCont.at (packS_fields hop)
    case h_40 hop => exact encodes_parseCpe.at (packE_fields hop)
    case h_41 hop => exact encodes_parseMat.at (packEM_fields hop)
    case h_42 hop => exact encodes_parseVec0.at (packE_fields hop)
    case h_43 hop => exact encodes_parseVec1.at (packE_fields hop)
    case h_44 hop => exact encodes_parseStrm.at (packS_fields hop)
    case h_45 hop => exact fld_number w ▸ encodes_parseSys.at (packS_fields hop)
    -- The dictionary pair, and a major that is no word's
    case h_46 hop =>
      refine .okIf rfl fun hmark => ?_
      have hw := packDP_fields hop
      rwa [beq_iff_eq.mp hmark] at hw
    case h_47 => exact .error

theorem parse_of_decode {w : W32} {i : Instr} (h : decode w = .ok i) : parse w = .ok i ∧ i.wellFormed = true := by
  unfold decode at h
  split at h
  case h_1 => cases h
  case h_2 j hparse =>
    split at h
    case h_1 => cases h
    case h_2 hlegal =>
      cases h
      exact ⟨hparse, by rw [Instr.wellFormed, hlegal]; rfl⟩

/-- Settles O27: what `decode` accepts, `parse` read from the word, and each of its tables accepts only what the encoder writes. -/
theorem encodeDecode : Obligations.EncodeDecode := by
  intro i w h
  obtain ⟨hparse, hwf⟩ := parse_of_decode h
  exact ⟨encodes_parse w i hparse, hwf⟩

end Sys2Proof.Proofs
end

section
/-!
PROOFS. The dictionary: DICTLD, IFENCE and the two halves of a pair (01 R19, R20; 22 R353, R354).
-/
namespace Sys2Proof.Proofs
open Machine Claims

theorem afterRelease_ok {s s1 : State} (f : State → Out) (h : s.release allClasses = .ok s1) : s.afterRelease f = f s1 := by
  simp only [State.afterRelease, h]

theorem afterRelease_error {s s1 : State} (f : State → Out) (h : s.release allClasses = .error s1) :
    s.afterRelease f = .next { s1 with core := { s1.core with stall := .resource } } := by
  simp only [State.afterRelease, h]
  exact State.waits_eq s1 .resource

/-! ## What DICTLD does once its checks have passed, and what each failing check raises -/

/-- DICTLD once its operands have passed: the words read become the resident dictionary, and the buffer is empty. -/
def dictldLoads (p : Word) (n : Nat) (s : State) : Out :=
  match s.readDict (dieOf s.cur) s.ctx p n with
  | (.error (c, va), s1) => s1.raise c (BitVec.ofNat 64 va)
  | (.ok ws, s1) => (s1.modCore fun u => { u with dict := { ptr := p, count := n, words := ws }, fetchBuf := [] }).fin

section
variable {s : State} {a b : RegNo}

theorem dictld_passes (haddr : (s.reg a).toNat / 2 ^ 57 = 0) (halign : (s.reg a).toNat % 64 = 0) (hn : (s.reg b).toNat ≤ 1024) :
    exec (.dictld a b) s = s.afterRelease (dictldLoads (s.reg a) (s.reg b).toNat) := by
  have hspace : spaceOf (s.reg a) = 0 := by unfold spaceOf; omega
  show execDictld a b s = _
  simp only [execDictld, hspace, halign, haddr, Nat.not_lt.mpr hn, ne_eq, not_true_eq_false, if_false]
  rfl

theorem dictld_addrSpace (hspace : (s.reg a).toNat / 2 ^ 60 ≠ 0) : Raises s (.dictld a b) 0x005 (s.reg a) := by
  show execDictld a b s = _
  simp only [execDictld, spaceOf, ne_eq, hspace, not_false_eq_true, if_true]
  rfl

theorem dictld_misaligned (hspace : (s.reg a).toNat / 2 ^ 60 = 0) (halign : (s.reg a).toNat % 64 ≠ 0) :
    Raises s (.dictld a b) 0x006 (s.reg a) := by
  show execDictld a b s = _
  simp only [execDictld, spaceOf, ne_eq, hspace, halign, not_true_eq_false, not_false_eq_true, if_false, if_true]
  rfl

theorem dictld_tooLong (hspace : (s.reg a).toNat / 2 ^ 60 = 0) (halign : (s.reg a).toNat % 64 = 0) (hn : 1024 < (s.reg b).toNat) :
    Raises s (.dictld a b) 0x032 0#64 := by
  show execDictld a b s = _
  simp only [execDictld, spaceOf, ne_eq, hspace, halign, hn, not_true_eq_false, if_false, if_true]
  rfl

end

theorem dictldLoads_installs {s s2 : State} {p : Word} {n : Nat} {ws : List W32}
    (h : s.readDict (dieOf s.cur) s.ctx p n = (.ok ws, s2)) :
    dictldLoads p n s = .next (s2.modCore fun u => { u with dict := { ptr := p, count := n, words := ws }, fetchBuf := [] }).done := by
  simp only [dictldLoads, h]
  rfl

theorem dictldLoads_raises {s s2 : State} {p : Word} {n cause va : Nat}
    (h : s.readDict (dieOf s.cur) s.ctx p n = (.error (cause, va), s2)) :
    dictldLoads p n s = .next (s2.raiseWith cause (BitVec.ofNat 64 va) 0#32 s2.core.pc) := by
  simp only [dictldLoads, h]
  rfl

/-- A word that drops what is fetched, and may replace the dictionary, ends as every other word does. -/
theorem done_of_refetch (s : State) (d : Dict) :
    let t := (s.modCore fun u => { u with dict := d, fetchBuf := [] }).done
    t.core.dict = d ∧ t.core.fetchBuf = [] ∧ SameMemory s t ∧ (∀ r, t.reg r = s.reg r) ∧ GoesOn s t := by
  refine ⟨Core.done_dict _, Core.done_fetchBuf _, .of_mem rfl, fun r => ?_, goesOn_done s _ rfl rfl rfl rfl⟩
  rw [State.reg_done]
  rfl

theorem dictionaryAndFetch : DictionaryAndFetch := by
  intro s a b
  refine ⟨fun haddr halign hn s1 hrel => ⟨fun ws s2 hread => ?_, fun cause va s2 hread => ?_⟩,
    dictld_addrSpace, dictld_misaligned, dictld_tooLong, fun s1 hrel => ?_, fun s1 hrel => afterRelease_error _ hrel⟩
  · rw [dictld_passes haddr halign hn, afterRelease_ok _ hrel]
    obtain ⟨hdict, hbuf, hmem, hreg, hgo⟩ := done_of_refetch s2 { ptr := s.reg a, count := (s.reg b).toNat, words := ws }
    exact ⟨_, dictldLoads_installs hread, hdict, hbuf, hmem, hreg, fun hloop => (hgo hloop).1⟩
  · rw [dictld_passes haddr halign hn, afterRelease_ok _ hrel]
    exact dictldLoads_raises hread
  · obtain ⟨-, hbuf, hmem, hreg, hgo⟩ := done_of_refetch s1 s1.core.dict
    exact ⟨_, afterRelease_ok _ hrel, hbuf, hmem, hreg, hgo⟩

/-! ## Pairs -/

theorem dictionaryPair_eq (s : State) (j i : BitVec 10) :
    let high := decide (s.core.pc.toNat % 4 ≠ 0)
    let x := if high then j else i
    let w := s.core.dict.words.getD x.toNat 0#32
    let here : WordHere := { word := w, index := some x, high := high }
    exec (.dictionaryPair j i) s = if s.core.dict.count ≤ x.toNat ∨ forbiddenEntry w = true then (s.begin here).illegal
      else .next { s with core := { s.core with sel := some here, stall := .none } } := by
  have hhigh : (s.core.pc.toNat % 4 != 0) = decide (s.core.pc.toNat % 4 ≠ 0) := Bool.eq_iff_iff.mpr (by simp)
  show execDictionaryPair j i s = _
  rw [execDictionaryPair, hhigh]
  rfl

theorem dictionaryPair_half : DictionaryPair := by
  intro s j i
  refine ⟨fun hcount hkind => ?_, fun hbad => ?_⟩
  · have hpasses := not_or.mpr ⟨Nat.not_le.mpr hcount, ne_true_of_eq_false hkind⟩
    exact (dictionaryPair_eq s j i).trans (if_neg hpasses)
  · exact (dictionaryPair_eq s j i).trans (if_pos hbad)

/-- Settles O43: DICTLD and IFENCE by what their checks and their release let pass, a pair by the half its position names. -/
theorem dictionaryAndPairs : Obligations.DictionaryAndPairs := ⟨dictionaryAndFetch, dictionaryPair_half⟩

end Sys2Proof.Proofs
end

section
/-!
PROOFS. What a step runs (01 R10, R17–R20).
-/
namespace Sys2Proof.Proofs
open Machine

theorem step_eq_turn {s : State} (hhalt : s.halted = false) (hboot : s.host.boot = none) : step s = turn s := by
  simp only [step, hhalt, hboot, Bool.false_and, Bool.false_eq_true, if_false]

theorem step_event {s : State} (hhalt : s.halted = false) (hboot : s.host.boot = none) {i : Instr} {r : List Turn}
    (h : s.agenda = .event i :: r) : step s = settled { s.elapse with agenda := r } (exec i { s.elapse with agenda := r }) := by
  rw [step_eq_turn hhalt hboot, turn, h]
  rfl

/-- The turn is the unit's that the agenda names, or the one's in focus while it can go on. -/
theorem step_unit {s u : State} (hhalt : s.halted = false) (hboot : s.host.boot = none)
    (h : (s.agenda = [] ∧ s.core.idle = false ∧ s.turns < 256 ∧ u = { s.elapse with turns := s.turns + 1 }) ∨
      ∃ k r, s.agenda = .unit k :: r ∧ u = State.focus { s.elapse with agenda := r } k) :
    step s = settled u.blocked (unitTurn false u) := by
  rw [step_eq_turn hhalt hboot, turn]
  rcases h with ⟨hagenda, hidle, hturns, rfl⟩ | ⟨k, r, hagenda, rfl⟩
  · simp only [hagenda, hidle, Nat.not_le.mpr hturns, decide_false, Bool.or_false, Bool.false_eq_true, if_false]
    rfl
  · rw [hagenda]
    rfl

/-! ## From a unit's boundary to its word -/

/-- What a unit runs that no boundary stops: the half a pair has selected, or the word at its pc. -/
def selectedOrFetched (u : State) : Out :=
  match u.core.sel with
  | some w => runWord false u w
  | none => runFetched false u

theorem selectedOrFetched_some {u : State} {w : WordHere} (h : u.core.sel = some w) : selectedOrFetched u = runWord false u w := by
  simp only [selectedOrFetched, h]

theorem selectedOrFetched_none {u : State} (h : u.core.sel = none) : selectedOrFetched u = runFetched false u := by
  simp only [selectedOrFetched, h]

theorem unitTurn_runs {u : State} (hrun : u.core.unit.running = true) (hstop : u.stopping u.ctx = false ∨ u.core.inWord = true)
    (hfence : u.core.unit.fence = none) (hfault : u.core.faultDue = false) (hloads : u.core.loads = []) :
    unitTurn false u = selectedOrFetched u := by
  have hgo : (u.stopping u.ctx && !u.core.inWord) = false := by rcases hstop with h | h <;> simp [h]
  simp only [unitTurn, hrun, hgo, State.passFence, hfence, hfault, State.accept, hloads, List.isEmpty_nil, Bool.not_true,
    Bool.false_eq_true, if_false, if_true]
  rfl

/-! ## The word -/

section
variable {s : State} {w : WordHere} (hloads : s.core.loads = [])
include hloads

theorem runWord_decodes {i : Instr} (h : decode w.word = .ok i) : runWord false s w = exec i (s.begin w) := by
  simp only [runWord, Core.mayIssue, hloads, h, List.isEmpty_nil, Bool.true_or, Bool.not_true, Bool.or_self, Bool.false_eq_true,
    if_false, if_true]

theorem runWord_illegal (h : ∀ i, decode w.word ≠ .ok i) : runWord false s w = (s.begin w).illegal := by
  cases hd : decode w.word with
  | ok i => exact absurd hd (h i)
  | error e =>
    simp only [runWord, Core.mayIssue, hloads, hd, List.isEmpty_nil, Bool.true_or, Bool.not_true, Bool.false_eq_true, if_false]

end

section
variable {u s1 : State}

theorem runFetched_pairMissing {w : W32} (h : u.fetchWord u.core.wordAddr = .ok w s1) (hpair : s1.core.pairMissing w = true) :
    runFetched false u = (s1.begin { word := w }).illegal := by
  simp only [runFetched, h, hpair, if_true]

theorem runFetched_word {w : W32} (h : u.fetchWord u.core.wordAddr = .ok w s1) (hpair : s1.core.pairMissing w = false) :
    runFetched false u = runWord false s1 { word := w } := by
  simp only [runFetched, h, hpair, Bool.false_eq_true, if_false]

theorem runFetched_wait (h : u.fetchWord u.core.wordAddr = .wait s1) : runFetched false u = .next s1.stalled := by
  simp only [runFetched, h]

theorem runFetched_fault {c : Nat} {t : Word} (h : u.fetchWord u.core.wordAddr = .fault c t s1) :
    runFetched false u = s1.raise c t := by
  simp only [runFetched, h]

end

/-- Settles O28: the agenda picks the turn, the unit's boundary lets it pass, and its word decides. -/
theorem stepRunsDecoded : Obligations.StepRunsDecoded := by
  intro s hhalt hboot
  refine ⟨fun i r h => step_event hhalt hboot h, fun u hu hrun hstop hfence hfault hloads => ?_⟩
  rw [step_unit hhalt hboot hu, unitTurn_runs hrun hstop hfence hfault hloads]
  refine ⟨fun w hsel => ⟨fun i hd => ?_, fun hd => ?_⟩, fun w s1 hsel hfetch hl1 => ⟨fun i hpair hd => ?_, fun hbad => ?_⟩,
    fun s1 hsel hfetch => ?_, fun c t s1 hsel hfetch => ?_⟩
  · rw [selectedOrFetched_some hsel, runWord_decodes hloads hd]
  · rw [selectedOrFetched_some hsel, runWord_illegal hloads hd]
  · rw [selectedOrFetched_none hsel, runFetched_word hfetch hpair, runWord_decodes (w := { word := w }) hl1 hd]
  · rw [selectedOrFetched_none hsel]
    cases hpair : s1.core.pairMissing w with
    | true => rw [runFetched_pairMissing hfetch hpair]
    | false =>
      have hd := hbad.resolve_left (ne_true_of_eq_false hpair)
      rw [runFetched_word hfetch hpair, runWord_illegal (w := { word := w }) hl1 hd]
  · rw [selectedOrFetched_none hsel, runFetched_wait hfetch]
  · rw [selectedOrFetched_none hsel, runFetched_fault hfetch]

end Sys2Proof.Proofs
end

section
/-!
PROOFS. Every instruction and every event answers a next state (01 R17, 24 R371, R373): a word that cannot complete waits, raises or
stops its unit, and each of these is a state too.
-/
namespace Sys2Proof.Proofs
open Machine

/-- The outcome is a next state. -/
def IsNext (o : Out) : Prop := ∃ t, o = .next t

namespace IsNext

theorem next {t : State} : IsNext (.next t) := ⟨t, rfl⟩

theorem ite {c : Prop} [Decidable c] {o r : Out} (ho : IsNext o) (hr : IsNext r) : IsNext (if c then o else r) := by
  split
  · exact ho
  · exact hr

/-! ## Shared operations that go on with a meaning -/

section
variable {s : State} {f : State → Out} (hf : ∀ s, IsNext (f s))
include hf

theorem afterRelease : IsNext (s.afterRelease f) := by
  fun_cases State.afterRelease s f
  · exact hf _
  · exact next

theorem afterPackets : IsNext (s.afterPackets f) := ite next (hf s)

theorem quiesce : IsNext (s.quiesce f) := by
  fun_cases State.quiesce s f
  case case4 => exact hf _
  all_goals exact next

theorem onHandle {h : Word} : IsNext (s.onHandle h f) := ite next (hf _)

theorem spawnChecks {d a : RegNo} {e : BitVec 2} : IsNext (s.spawnChecks d a e f) :=
  afterPackets fun s => ite next (ite next (hf s))

end

theorem onVar {s : State} {p : Word} {f : Nat → Nat → Option SyncVar → State → Out}
    (hf : ∀ die off v s, IsNext (f die off v s)) : IsNext (s.onVar p f) := by
  refine afterPackets fun s => ?_
  split
  · exact next
  · exact ite (hf ..) next

theorem onObject {s : State} {p access : Word} {right : Option Nat} {kind : AccKind} {f : CState → State → Out}
    (hf : ∀ c s, IsNext (f c s)) : IsNext (s.onObject p access right kind f) := by
  refine afterPackets fun s => ?_
  split
  · exact next
  · exact hf ..

theorem onStream {s : State} {p : Word} {f : Stream → State → Out} (hf : ∀ t s, IsNext (f t s)) : IsNext (s.onStream p f) := by
  refine afterPackets fun s => ?_
  split
  · exact next
  · refine afterRelease fun s => ?_
    split
    · exact hf ..
    · exact next

theorem onVersion {s : State} {d : RegNo} {p b : Word} {f : Stream → Nat → State → Out} (hf : ∀ t n s, IsNext (f t n s)) :
    IsNext (s.onVersion d p b f) :=
  onStream fun _ _ => ite next (ite next (hf ..))

section
variable {s : State} {v : Word} {k : State → Word → Out} (hk : ∀ s old, IsNext (k s old))
include hk

theorem writeSplit : IsNext (s.writeSplit v k) := by
  fun_cases State.writeSplit s v k
  case case1 => exact hk ..
  all_goals exact next

theorem writeTinv : IsNext (s.writeTinv v k) := afterRelease fun _ => ite (hk ..) next

theorem armWatch {n : Fin 4} : IsNext (s.armWatch n v k) := by
  refine afterRelease fun s => ?_
  dsimp only
  split
  · exact next
  · exact next
  · exact hk ..

theorem disarmWatch {n : Fin 4} : IsNext (s.disarmWatch n v k) := afterRelease fun _ => hk ..

theorem writeCr {r : Cr} : IsNext (s.writeCr r v k) := by
  fun_cases State.writeCr s r v k
  · exact writeSplit hk
  · exact writeTinv hk
  · exact armWatch hk
  · exact disarmWatch hk
  all_goals
    split
    · exact hk ..
    · exact next

end

/-! ## Scalar words -/

theorem divOp {zero : Word → Bool} {f : Word → Word → Word} {d a b : RegNo} {s : State} : IsNext (divOp zero f d a b s) :=
  ite next next

theorem jumpTo {s : State} {t : Word} : IsNext (s.jumpTo t) := ite next next

theorem branch {c : Bool} {o : BitVec 14} {s : State} : IsNext (branch c o s) := ite jumpTo next

theorem link {d : RegNo} {t : Word} {s : State} : IsNext (link d t s) := ite next next

theorem hwLoop {a : RegNo} {l : BitVec 2} {o : BitVec 14} {s : State} : IsNext (execHwLoop a l o s) := ite jumpTo next

theorem padd {d a b : RegNo} {s : State} : IsNext (execPadd d a b s) := by
  fun_cases execPadd d a b s <;> exact next

section
variable {n : Nat} {d b : RegNo} {c : BitVec 4} {p r : BitVec 2} {o : BitVec 6} {s : State}

theorem loadWord {signed : Bool} : IsNext (loadWord n signed d b c p r o s) := by
  fun_cases Machine.loadWord n signed d b c p r o s <;> exact next

theorem storeWord : IsNext (storeWord n d b c p r o s) := by
  have hput {s : State} {ptr : Word} : IsNext (match s.storeBytes ptr (bytesOf n (s.reg d).toNat) n c.toNat p.toNat with
      | .wait s1 => .next s1
      | .fault cs t s1 => s1.raise cs t
      | .ok _ s1 => s1.fin) := by
    split <;> exact next
  fun_cases Machine.storeWord n d b c p r o s
  case case2 => exact hput
  case case5 => exact afterRelease fun _ => hput
  all_goals exact next

end

theorem pushOn {locs : List (Word × Nat × Loc)} {base : Word} {vals : List Word} :
    ∀ {f k : Nat} {s : State}, IsNext (s.pushOn locs base vals f k)
  | 0, _, _ => next
  | _ + 1, _, _ => ite next (ite next pushOn)

theorem pushm {f l : RegNo} {s : State} : IsNext (execPushm f l s) := by
  fun_cases execPushm f l s
  case case2 => exact pushOn
  case case7 => exact pushOn
  all_goals exact next

theorem popm {f l : RegNo} {s : State} : IsNext (execPopm f l s) := by
  fun_cases execPopm f l s <;> exact next

theorem fence {k : BitVec 2} {sc : BitVec 3} {m : BitVec 16} {s : State} : IsNext (execFence k sc m s) := by
  fun_cases execFence k sc m s
  · exact ite next next
  · exact next
  · exact ite next next

theorem tdld {t : TileNo} {b : RegNo} {c : BitVec 4} {o : BitVec 8} {s : State} : IsNext (execTdld t b c o s) := by
  fun_cases execTdld t b c o s <;> exact next

theorem tdst {t : TileNo} {b : RegNo} {c : BitVec 4} {o : BitVec 8} {s : State} : IsNext (execTdst t b c o s) := by
  fun_cases execTdst t b c o s <;> exact next

theorem atomicOp {n : Nat} {r : BitVec 2} {a : RegNo} {c : BitVec 4} {f : Nat → Option Nat} {out : Nat → State → State}
    {s : State} : IsNext (atomicOp n r a c f out s) := by
  have hbody {s : State} : IsNext (match s.atomicBytes (s.reg a) n c.toNat (fun old => (f (natOf old)).map (bytesOf n)) with
      | .wait s1 => s1.waits
      | .fault cs t s1 => s1.raise cs t
      | .ok old s1 => (out (natOf old) (s1.acquire (arScope r))).fin) := by
    split <;> exact next
  exact ite hbody (afterRelease fun _ => hbody)

theorem amo {n : Nat} {g : BitVec (8 * n) → BitVec (8 * n) → BitVec (8 * n)} {r : BitVec 2} {d a b : RegNo} {c : BitVec 4}
    {s : State} : IsNext (amo n g r d a b c s) := atomicOp

theorem casOp {n : Nat} {r : BitVec 2} {d a b : RegNo} {c : BitVec 4} {s : State} : IsNext (casOp n r d a b c s) := atomicOp

theorem cas2 {r : BitVec 2} {d : BitVec 5} {a : RegNo} {b : BitVec 5} {c : BitVec 4} {s : State} :
    IsNext (execCas2 r d a b c s) := by
  unfold execCas2
  extract_lets
  exact atomicOp

theorem amofadd {r : BitVec 2} {d a b : RegNo} {c : BitVec 4} {s : State} : IsNext (execAmofadd r d a b c s) := atomicOp

/-! ## Synchronisation words -/

section
variable {s : State} {tval : Word} {k : State → Park} {park : ObjRec → State → Option State}

theorem suspendPooled : IsNext (s.suspendPooled tval k park) := by
  refine afterPackets fun s => quiesce fun s => ?_
  split
  · exact next
  · exact next
  · dsimp only
    split <;> exact next

theorem waitWord {sat : Bool} {scope : Nat} : IsNext (s.waitWord sat scope tval k park) :=
  ite next (ite suspendPooled next)

end

theorem ctrinit {a b : RegNo} {s : State} : IsNext (execCtrinit a b s) := by
  refine onVar fun _ _ _ s => afterRelease fun s => ite next ?_
  split <;> exact next

theorem ctrsig {d a b : RegNo} {s : State} : IsNext (execCtrsig d a b s) := by
  refine onVar fun _ _ _ s => ?_
  split
  · exact afterRelease fun _ => next
  · exact next

theorem ctrrd {d a : RegNo} {s : State} : IsNext (execCtrrd d a s) := by
  refine onVar fun _ _ _ s => ?_
  split <;> exact next

theorem ctrwait {a : RegNo} {s : State} : IsNext (execCtrwait a s) := by
  unfold execCtrwait
  extract_lets
  refine onVar fun _ _ _ s => ?_
  split
  · exact waitWord
  · exact next

theorem barinit {a b : RegNo} {s : State} : IsNext (execBarinit a b s) := by
  refine onVar fun _ _ _ s => afterRelease fun s => ite next (ite next ?_)
  split <;> exact next

theorem barWaitFor {s : State} {p : Word} {die off phase now : Nat} : IsNext (s.barWaitFor p die off phase now) := waitWord

theorem bararv {d a : RegNo} {w : BitVec 1} {s : State} : IsNext (execBararv d a w s) := by
  unfold execBararv
  extract_lets
  refine onVar fun _ _ _ s => ?_
  split
  · split
    · exact barWaitFor
    · exact afterRelease fun _ => ite next barWaitFor
  · exact next

theorem barwait {a b : RegNo} {s : State} : IsNext (execBarwait a b s) := by
  unfold execBarwait
  extract_lets
  refine onVar fun _ _ _ s => ?_
  split
  · exact barWaitFor
  · exact next

theorem tlwait {sc a b : RegNo} {e : BitVec 2} {s : State} : IsNext (execTlwait sc a b e s) := by
  refine afterPackets fun s => ite (onHandle fun s => ?_) (ite next waitWord)
  split
  · exact next
  · exact ite next waitWord

theorem tlrd {d b : RegNo} {e : BitVec 2} {s : State} : IsNext (execTlrd d b e s) := by
  refine afterPackets fun s => ite (onHandle fun s => ?_) next
  split <;> exact next

theorem arinit {a b : RegNo} {s : State} : IsNext (execArinit a b s) := by
  refine afterPackets fun s => ?_
  split
  · exact next
  · refine ite next ?_
    split <;> exact next

theorem arwait {a b : RegNo} {s : State} : IsNext (execArwait a b s) := by
  refine afterPackets fun s => ?_
  split
  · exact next
  · refine ite next ?_
    split
    · exact next
    · exact waitWord

theorem spawn {d a : RegNo} {b : BitVec 5} {e : BitVec 2} {s : State} : IsNext (execSpawn d a b e s) :=
  spawnChecks fun _ => afterRelease fun _ => next

theorem spawnd {d a : RegNo} {b : BitVec 5} {e : BitVec 2} {s : State} : IsNext (execSpawnd d a b e s) := by
  refine spawnChecks fun s => ite ?_ (ite ?_ (ite ?_ next)) <;> split
  · exact next
  · exact afterRelease fun _ => next
  · exact next
  · exact afterRelease fun _ => next
  · exact next
  · exact next
  · exact ite (afterRelease fun _ => next) (afterRelease fun _ => next)
  · exact next

theorem yield {s : State} : IsNext (execYield s) := by
  refine afterPackets fun s => ite (quiesce fun s => ?_) next
  dsimp only
  split <;> exact next

theorem stepEnd {s : State} : IsNext s.stepEnd := afterPackets fun _ => ite next (afterRelease fun _ => next)

theorem chkopen {a : RegNo} {s : State} : IsNext (execChkopen a s) := by
  refine afterPackets fun s => ite next (ite next (afterRelease fun s => ?_))
  split <;> exact next

theorem chkclose {s : State} : IsNext (execChkclose s) := by
  refine afterPackets fun s => ?_
  split
  · exact ite next next
  · exact next

/-! ## Continuation words -/

theorem suspend {d a b : RegNo} {s : State} : IsNext (execSuspend d a b s) := by
  unfold execSuspend
  extract_lets
  refine afterPackets fun s => ite next (quiesce fun s => ?_)
  split <;> exact next

theorem resume {a : RegNo} {b : BitVec 5} {n : BitVec 1} {s : State} : IsNext (execResume a b n s) := by
  unfold execResume
  extract_lets
  exact onObject fun _ _ => ite next (ite next (ite (afterRelease fun _ => next) (ite next (afterRelease fun _ => ite next next))))

theorem endCopy {s : State} {src dest : Word} {version : Nat} : IsNext (s.endCopy src dest version) := by
  fun_cases State.endCopy s src dest version <;> exact next

theorem startCopy {s : State} {src dest access : Word} : IsNext (s.startCopy src dest access) := by
  refine onObject fun _ s => ?_
  dsimp only
  split
  · exact next
  · split
    · exact next
    · exact ite next (ite next (ite next (ite next next)))

theorem ccopy {d a b : RegNo} {s : State} : IsNext (execCcopy d a b s) := by
  fun_cases execCcopy d a b s
  · exact endCopy
  · exact startCopy

theorem cdiscard {a b : RegNo} {s : State} : IsNext (execCdiscard a b s) := by
  unfold execCdiscard
  extract_lets
  exact onObject fun _ _ => ite next next

theorem cquery {d a b : RegNo} {s : State} : IsNext (execCquery d a b s) := by
  unfold execCquery
  extract_lets
  refine onObject fun _ s => ?_
  split
  · exact next
  · split <;> exact next

theorem crights {a : RegNo} {b : BitVec 5} {s : State} : IsNext (execCrights a b s) := by
  unfold execCrights
  extract_lets
  exact ite (afterPackets fun _ => next) (onObject fun _ _ => ite next next)

/-! ## Engine words -/

theorem engineWord {s : State} {e : EngId} {chk : IssueFault} {c : Cmd} : IsNext (s.engineWord e chk c) := by
  fun_cases State.engineWord s e chk c <;> exact next

theorem pairWord {s : State} {chk : IssueFault} {c : Cmd} {w : W32} : IsNext (s.pairWord chk c w) := by
  fun_cases State.pairWord s chk c w <;> exact next

theorem copyWord {s : State} {f : BitVec 1} {chk : IssueFault} {c : Cmd} : IsNext (s.copyWord f chk c) := by
  fun_cases State.copyWord s f chk c
  case case1 => exact engineWord
  case case5 => exact pairWord
  all_goals exact next

theorem matWord {s : State} {i : Instr} : IsNext (s.matWord i) := ite next engineWord

theorem modesWord {s : State} {d a : TileNo} {b : RegNo} {m : BitVec 2} {fmt : Nat → Nat → List Nat → Bool} :
    IsNext (s.modesWord d a b m fmt) := engineWord

theorem unaryWord {s : State} {d a : TileNo} {r0 r1 : Word} {chk : Tile → Tile → IssueFault} :
    IsNext (s.unaryWord d a r0 r1 chk) := engineWord

theorem softmaxWord {s : State} {d a : TileNo} {b : RegNo} : IsNext (s.softmaxWord d a b) := engineWord

/-! ## Stream words -/

theorem curadvG {d a b : RegNo} {s : State} : IsNext (execCuradvG d a b s) := onVersion fun _ _ _ => ite next next

theorem curadvP {d a b : RegNo} {s : State} : IsNext (execCuradvP d a b s) := onVersion fun _ _ _ => ite next next

theorem fracc {d a b : RegNo} {s : State} : IsNext (execFracc d a b s) := by
  unfold execFracc
  extract_lets
  exact onStream fun _ _ => ite next (ite next (ite next (ite next next)))

theorem strunc {d a b : RegNo} {s : State} : IsNext (execStrunc d a b s) := by
  unfold execStrunc
  extract_lets
  refine onStream fun t s => ite next (ite next (ite next ?_))
  dsimp only
  split <;> exact next

theorem scommit {d a : RegNo} {b : BitVec 5} {s : State} : IsNext (execScommit d a b s) := by
  unfold execScommit
  extract_lets
  refine onVersion fun t p s => ite next (ite next ?_)
  dsimp only
  split
  · exact next
  · split <;> exact next

theorem ssnap {d a b : RegNo} {s : State} : IsNext (execSsnap d a b s) := by
  fun_cases execSsnap d a b s
  case case4 => exact onVersion fun _ _ _ => ite next (ite next (ite next next))
  all_goals exact next

theorem kvalloc {d a b : RegNo} {s : State} : IsNext (execKvalloc d a b s) := by
  unfold execKvalloc
  extract_lets
  refine onVersion fun t i s => ite next ?_
  split
  · exact next
  · refine ite next ?_
    split
    · exact next
    · split
      · exact next
      · split <;> exact next

theorem kvfree {d a b : RegNo} {s : State} : IsNext (execKvfree d a b s) := by
  refine onVersion fun t i s => ite next ?_
  split <;> exact next

theorem kvborrow {d a b : RegNo} {s : State} : IsNext (execKvborrow d a b s) := by
  unfold execKvborrow
  extract_lets
  refine onStream fun t s => ite ?_ (ite (ite next next) next)
  split <;> exact next

theorem slsend {d a b : RegNo} {s : State} : IsNext (execSlsend d a b s) := by
  unfold execSlsend
  extract_lets
  refine afterPackets fun s => onHandle fun s => ?_
  split
  · exact next
  · refine ite next ?_
    split
    · exact next
    · exact next
    · refine afterRelease fun s => ?_
      split
      · exact next
      · exact ite next next

theorem slcancel {d a b : RegNo} {s : State} : IsNext (execSlcancel d a b s) := by
  unfold execSlcancel
  extract_lets
  refine afterPackets fun s => onHandle fun s => ?_
  split
  · exact next
  · refine ite next (afterRelease fun s => ?_)
    dsimp only
    split <;> exact next

/-! ## System words -/

theorem trapRestartStep {s : State} : IsNext (execTrapRestartStep s) := ite next next

theorem trapRollBack {s : State} : IsNext (execTrapRollBack s) := ite next next

theorem trapKillContext {s : State} : IsNext (execTrapKillContext s) := by
  fun_cases execTrapKillContext s <;> exact next

theorem tret {s : State} : IsNext (execTret s) := ite next (ite next next)

theorem crr {d : RegNo} {n : BitVec 12} {s : State} : IsNext (execCrr d n s) := by
  fun_cases execCrr d n s <;> exact next

theorem crw {d : RegNo} {n : BitVec 12} {s : State} : IsNext (execCrw d n s) := by
  fun_cases execCrw d n s
  · exact next
  · exact writeCr fun _ _ => next

theorem crx {d : RegNo} {n : BitVec 12} {s : State} : IsNext (execCrx d n s) := by
  fun_cases execCrx d n s
  · exact next
  · exact writeCr fun _ _ => next

theorem dictld {a b : RegNo} {s : State} : IsNext (execDictld a b s) := by
  refine ite next (ite next (ite next (ite next (afterRelease fun s => ?_))))
  split <;> exact next

theorem ifence {s : State} : IsNext (execIfence s) := afterRelease fun _ => next

theorem dictionaryPair {j i : BitVec 10} {s : State} : IsNext (execDictionaryPair j i s) := ite next next

/-! ## Events of the part: each looks for what it is about, and leaves the state as it is where there is none -/

section
variable {s : State}

theorem splitTakesEffect {die : Nat} : IsNext (execSplitTakesEffect die s) := by
  fun_cases execSplitTakesEffect die s <;> exact next

theorem fetchLine {va : Word} : IsNext (execFetchLine va s) := by
  fun_cases execFetchLine va s <;> exact next

theorem scalarAccessPerform {rank index : Nat} : IsNext (execScalarAccessPerform rank index s) := by
  fun_cases execScalarAccessPerform rank index s <;> exact next

theorem scalarAccessReply {rank index : Nat} : IsNext (execScalarAccessReply rank index s) := by
  fun_cases execScalarAccessReply rank index s <;> exact next

theorem translationWalk {die : Nat} : IsNext (execTranslationWalk die s) := by
  fun_cases execTranslationWalk die s <;> exact next

theorem walkReadReturn {die index : Nat} : IsNext (execWalkReadReturn die index s) := by
  fun_cases execWalkReadReturn die index s <;> exact next

theorem lineTransfer {stack line : Nat} : IsNext (execLineTransfer stack line s) := by
  fun_cases execLineTransfer stack line s <;> exact next

theorem evacuationLineMove {stack line : Nat} : IsNext (execEvacuationLineMove stack line s) := by
  fun_cases execEvacuationLineMove stack line s <;> exact next

theorem engineCommandComplete {rank : Nat} {eng : EngId} {num : Nat} : IsNext (execEngineCommandComplete rank eng num s) := by
  fun_cases execEngineCommandComplete rank eng num s <;> exact next

theorem pushLand {index : Nat} : IsNext (execPushLand index s) := by
  fun_cases execPushLand index s <;> exact next

theorem promoteHeadgateStep {rank num : Nat} : IsNext (execPromoteHeadgateStep rank num s) := by
  fun_cases execPromoteHeadgateStep rank num s <;> exact next

theorem waitSatisfied {rank : Nat} : IsNext (execWaitSatisfied rank s) := by
  fun_cases execWaitSatisfied rank s <;> exact next

theorem spinLimitExpiry {rank : Nat} : IsNext (execSpinLimitExpiry rank s) := by
  fun_cases execSpinLimitExpiry rank s <;> exact next

theorem spawnPacketAccept {index : Nat} : IsNext (execSpawnPacketAccept index s) := by
  fun_cases execSpawnPacketAccept index s <;> exact next

theorem continuationStart {rank : Nat} : IsNext (execContinuationStart rank s) := by
  fun_cases execContinuationStart rank s <;> exact next

theorem sweepAdmission {sweep : Nat} : IsNext (execSweepAdmission sweep s) := by
  fun_cases execSweepAdmission sweep s <;> exact next

theorem sweepDieReport {die sweep : Nat} : IsNext (execSweepDieReport die sweep s) := by
  fun_cases execSweepDieReport die sweep s <;> exact next

theorem batchTick {index : Nat} : IsNext (execBatchTick index s) := by
  fun_cases execBatchTick index s <;> exact next

theorem snapshotCopyDone {index : Nat} : IsNext (execSnapshotCopyDone index s) := by
  fun_cases execSnapshotCopyDone index s <;> exact next

theorem blockArrival {index : Nat} : IsNext (execBlockArrival index s) := by
  fun_cases execBlockArrival index s <;> exact next

theorem blockLandingCheck {die channel : Nat} : IsNext (execBlockLandingCheck die channel s) := by
  fun_cases execBlockLandingCheck die channel s <;> exact next

theorem blockCommit {die channel : Nat} : IsNext (execBlockCommit die channel s) := by
  fun_cases execBlockCommit die channel s <;> exact next

theorem committedAckArrival {index : Nat} : IsNext (execCommittedAckArrival index s) := by
  fun_cases execCommittedAckArrival index s <;> exact next

theorem cancelProcess {die channel : Nat} : IsNext (execCancelProcess die channel s) := by
  fun_cases execCancelProcess die channel s <;> exact next

theorem cancelAckArrival {index : Nat} : IsNext (execCancelAckArrival index s) := by
  fun_cases execCancelAckArrival index s <;> exact next

theorem retransmitTimeout {die channel seq : Nat} : IsNext (execRetransmitTimeout die channel seq s) := by
  fun_cases execRetransmitTimeout die channel seq s <;> exact next

theorem packageLost {package : Nat} : IsNext (execPackageLost package s) := by
  fun_cases execPackageLost package s <;> exact next

theorem fabricRequestArrival {port source seq : Nat} {op : FabricOp} : IsNext (execFabricRequestArrival port source seq op s) := by
  fun_cases execFabricRequestArrival port source seq op s <;> exact next

theorem fabricRequestExpiry {port seq : Nat} : IsNext (execFabricRequestExpiry port seq s) := by
  fun_cases execFabricRequestExpiry port seq s <;> exact next

theorem keySlotFlushDone {slot : Nat} : IsNext (execKeySlotFlushDone slot s) := by
  fun_cases execKeySlotFlushDone slot s <;> exact next

theorem spgrantTakesEffect {die : Nat} : IsNext (execSpgrantTakesEffect die s) := by
  fun_cases execSpgrantTakesEffect die s <;> exact next

theorem fromQueue {q kind : Nat} {refusal : String} {f : Nat → List Byte → State → Option State} :
    IsNext (s.fromQueue q kind refusal f) := by
  fun_cases State.fromQueue s q kind refusal f <;> exact next

end

end IsNext

/-! ## Every arm of the dispatch -/

/-- Every instruction and every event answers a next state, from every state. -/
theorem isNext_exec (i : Instr) (s : State) : IsNext (exec i s) := by
  cases i with unfold exec
  -- Words that write one register
  | add | sub | andR | orR | xorR | andn | sll | srl | sra | ror | slt | sltu | minS | maxS | minu | maxu | addw | subw | sllw
  | srlw | sraw | clz | ctz | popc | sextb | sexth | sextw | zextw | mul | mulh | mulhu | mulw | addi | andi | ori | xori
  | slti | sltiu | slli | srli | srai | rori | lui | lim | lih | addpc | ptag | prank | pspace | poff => exact .next
  -- Words that may trap, or go elsewhere
  | div | divu | rem | remu | divw | divuw | remw | remuw => exact .divOp
  | padd => exact .padd
  | beq | bne | blt | bge | bltu | bgeu => exact .branch
  | jal | jalr => exact .link
  | hwLoop => exact .hwLoop
  -- Words of memory
  | ldb | ldh | ldw | ldd | ldsb | ldsh | ldsw => exact .loadWord
  | stb | sth | stw | std => exact .storeWord
  | pushm => exact .pushm | popm => exact .popm | fence => exact .fence | tdld => exact .tdld | tdst => exact .tdst
  | amoswapW | amoswapD | amoaddW | amoaddD | amoandW | amoandD | amoorW | amoorD | amoxorW | amoxorD | amominW | amominD
  | amomaxW | amomaxD | amominuW | amominuD | amomaxuW | amomaxuD => exact .amo
  | casW | casD => exact .casOp
  | cas2 => exact .cas2 | amofadd => exact .amofadd
  -- Words of the synchronisation engines, and continuations
  | ctrinit => exact .ctrinit | ctrsig => exact .ctrsig | ctrrd => exact .ctrrd | ctrwait => exact .ctrwait
  | barinit => exact .barinit | bararv => exact .bararv | barwait => exact .barwait | tlwait => exact .tlwait
  | tlrd => exact .tlrd | arinit => exact .arinit | arwait => exact .arwait | spawn => exact .spawn | spawnd => exact .spawnd
  | yield => exact .yield
  | stepend => exact .stepEnd
  | chkopen => exact .chkopen | chkclose => exact .chkclose | suspend => exact .suspend | resume => exact .resume
  | ccopy => exact .ccopy | cdiscard => exact .cdiscard | cquery => exact .cquery | crights => exact .crights
  -- Engine words
  | cpin | cptin | cpll | gather => exact .copyWord
  | cpout | cptout | scatter | idxld | fill | promote | subscr | slotret | vrng | vbcastScalar => exact .engineWord
  | mma | mmapLead | mmapFol | wbld | cbld | mvm | mzero => exact .matWord
  | vadd | vsub | vmul | vfma | vmin | vmax | vadds | vand | vor | vxor | vshl | vshr | vcmpeq | vcmplt | vcmple | vsel =>
    exact .modesWord
  | vabs | vneg | vscl | vmov | vbcast | vtrans | vexp | vexp2 | vlog2 | vrcp | vrsqrt | vsqrt | vtanh | vsigm | vsilu | vgelu
  | vcvt | vquant | vdquant | vrsum | vrmax | vrmin | vrot | vsample | vargmax => exact .unaryWord
  | vsmaxo | vsmaxf => exact .softmaxWord
  -- Stream words
  | curadvG => exact .curadvG | curadvP => exact .curadvP | fracc => exact .fracc | strunc => exact .strunc
  | scommit => exact .scommit | ssnap => exact .ssnap
  | kvalloc => exact .kvalloc | kvfree => exact .kvfree | kvborrow => exact .kvborrow | slsend => exact .slsend
  | slcancel => exact .slcancel
  -- System words
  | nop | trapCode | brk => exact .next
  | trapRestartStep => exact .trapRestartStep | trapRollBack => exact .trapRollBack | trapKillContext => exact .trapKillContext
  | trapEndUnit => exact .stepEnd
  | tret => exact .tret | crr => exact .crr | crw => exact .crw | crx => exact .crx | dictld => exact .dictld
  | ifence => exact .ifence | dictionaryPair => exact .dictionaryPair
  -- Writes of control registers as events
  | splitWrite => exact .writeSplit fun _ _ => .next
  | tinv => exact .writeTinv fun _ _ => .next
  | watchpointArm => exact .armWatch fun _ _ => .next
  | watchpointDisarm => exact .disarmWatch fun _ _ => .next
  -- Events that are one change of the state
  | engineCommandStart | cpeBeat | engineFaultTrap | pairMeet | pairCommit | pairAbandon | rampStep | syncEngineOperation
  | workDispatch | walkerExpand | stepRestart | coreOutOfService | groupStart | groupRestore | groupReserve
  | preemptionRequest | forcedSave | laneTest | cacheLineReplacement | sensorSample | epochEnd | marketResultsArrive
  | railSwitch | energyMeterExhausted | blockSend | sluiceStop | sluiceGo | fabricReplayTimeout | planeFailure
  | retrainFailure | trapRecordLand | contextKill | rollback | memrd | memwr | hostAtomic | qwrite | qbind | ctxset | ctxdrop
  | pooladd | spgrant | keyload | keyzap | mgmtrd | mgmtwr | pbudget | rampt | elogSelect | energySelect | sensclr
  | portLosesLink | powerOn | resetPin => exact .next
  -- Events that look for what they are about
  | launch | streamOpen | frame | playbackReport | streamClose | batchOpen | batchClose | killContext | saveContext
  | restoreContext => exact .fromQueue
  | splitTakesEffect => exact .splitTakesEffect | fetchLine => exact .fetchLine
  | scalarAccessPerform => exact .scalarAccessPerform | scalarAccessReply => exact .scalarAccessReply
  | translationWalk => exact .translationWalk | walkReadReturn => exact .walkReadReturn
  | lineTransfer => exact .lineTransfer | evacuationLineMove => exact .evacuationLineMove
  | engineCommandComplete => exact .engineCommandComplete | pushLand => exact .pushLand
  | promoteHeadgateStep => exact .promoteHeadgateStep | waitSatisfied => exact .waitSatisfied
  | spinLimitExpiry => exact .spinLimitExpiry | spawnPacketAccept => exact .spawnPacketAccept
  | continuationStart => exact .continuationStart | sweepAdmission => exact .sweepAdmission
  | sweepDieReport => exact .sweepDieReport
  | batchTick => exact .batchTick | snapshotCopyDone => exact .snapshotCopyDone
  | blockArrival => exact .blockArrival | blockLandingCheck => exact .blockLandingCheck | blockCommit => exact .blockCommit
  | committedAckArrival => exact .committedAckArrival | cancelProcess => exact .cancelProcess
  | cancelAckArrival => exact .cancelAckArrival | retransmitTimeout => exact .retransmitTimeout
  | packageLost => exact .packageLost | fabricRequestArrival => exact .fabricRequestArrival
  | fabricRequestExpiry => exact .fabricRequestExpiry
  | keySlotFlushDone => exact .keySlotFlushDone | spgrantTakesEffect => exact .spgrantTakesEffect

end Sys2Proof.Proofs
end

section
/-!
PROOFS. A step stops only at a halted part (25 R406): the package's own events, a unit's turn and a boot all answer a next state.
-/
namespace Sys2Proof.Proofs
open Machine

/-! ## Events the package does of itself -/

/-- Every event of a list answers a next state, from every state. -/
def AllNext (l : List Act) : Prop := ∀ e ∈ l, ∀ s, IsNext (e s)

namespace AllNext

theorem nil : AllNext [] := fun _ he => absurd he List.not_mem_nil

theorem cons {e : Act} {l : List Act} (he : ∀ s, IsNext (e s)) (hl : AllNext l) : AllNext (e :: l) :=
  List.forall_mem_cons.mpr ⟨he, hl⟩

theorem one {e : Act} (he : ∀ s, IsNext (e s)) : AllNext [e] := cons he nil

theorem append_iff {l r : List Act} : AllNext (l ++ r) ↔ AllNext l ∧ AllNext r := List.forall_mem_append

theorem append {l r : List Act} (hl : AllNext l) (hr : AllNext r) : AllNext (l ++ r) := append_iff.mpr ⟨hl, hr⟩

theorem ite {c : Prop} [Decidable c] {l r : List Act} (hl : AllNext l) (hr : AllNext r) : AllNext (if c then l else r) := by
  split
  · exact hl
  · exact hr

theorem map {α : Type} {l : List α} {f : α → Act} (hf : ∀ x s, IsNext (f x s)) : AllNext (l.map f) :=
  List.forall_mem_map.mpr fun x _ => hf x

theorem flatten {α : Type} {l : List α} {f : α → List Act} (hf : ∀ x, AllNext (f x)) : AllNext (l.map f).flatten := by
  intro e he
  obtain ⟨_, hmem, he⟩ := List.mem_flatten.mp he
  obtain ⟨x, -, rfl⟩ := List.mem_map.mp hmem
  exact hf x e he

theorem unitEvents {cur rank : Nat} {u : Core} : AllNext (unitEvents cur rank u) :=
  append (append (append
    (flatten fun i => cons (isNext_exec (.scalarAccessPerform rank i)) (one (isNext_exec (.scalarAccessReply rank i))))
    (ite (one (isNext_exec (.continuationStart rank))) nil))
    (ite nil (cons (isNext_exec (.waitSatisfied rank)) (one (isNext_exec (.spinLimitExpiry rank))))))
    (ite (one (isNext_exec (.forcedSave rank))) nil)

theorem dieEvents {die : Nat} {d : Die} : AllNext (dieEvents die d) :=
  append (append (append (append
    (ite nil (one (isNext_exec (.translationWalk die))))
    (map fun i => isNext_exec (.walkReadReturn die i)))
    (ite nil (one (isNext_exec (.syncEngineOperation die)))))
    (ite nil (one (isNext_exec (.splitTakesEffect die)))))
    (ite nil (one (isNext_exec (.spgrantTakesEffect die))))

theorem engineEvents {rank : Nat} {u : Core} : AllNext (engineEvents rank u) := by
  have hqueue {e : EngId} {q : List Cmd} : AllNext (q.map fun c => match c.st with
      | .queued => [execEngineCommandStart rank e c.num]
      | .running => [execCpeBeat rank c.num, execPromoteHeadgateStep rank c.num, execEngineCommandComplete rank e c.num]
      | _ => []).flatten := flatten fun c => by
    split
    · exact one (isNext_exec (.engineCommandStart rank e c.num))
    · exact cons (isNext_exec (.cpeBeat rank c.num)) (cons (isNext_exec (.promoteHeadgateStep rank c.num))
        (one (isNext_exec (.engineCommandComplete rank e c.num))))
    · exact nil
  exact append (append (append (append hqueue hqueue) hqueue)
    (map fun o => isNext_exec (.engineCommandComplete rank .cpe o.cmd.num)))
    (ite (cons (isNext_exec (.pairMeet rank)) (one (isNext_exec (.pairCommit rank)))) nil)

theorem schedEvents {die : Nat} {d : Die} : AllNext (schedEvents die d) :=
  append
    (flatten fun x => cons (isNext_exec (.walkerExpand die x.id)) (cons (isNext_exec (.sweepDieReport die x.id))
      (one (isNext_exec (.groupStart die x.id)))))
    (ite nil (append (append (append
      (map fun i => isNext_exec (.groupRestore die i))
      (map fun r => isNext_exec (.workDispatch r)))
      (map fun i => isNext_exec (.groupReserve die i)))
      (one (isNext_exec (.preemptionRequest die)))))

theorem sluiceEvents {pkg die : Nat} {d : Die} : AllNext (sluiceEvents pkg die d) :=
  append
    (flatten fun c => append
      (flatten fun r => cons (isNext_exec (.sluiceStop die (r.1 * 16 + c.1))) (one (isNext_exec (.sluiceGo die (r.1 * 16 + c.1)))))
      (one (isNext_exec (.blockSend die c.1))))
    (flatten fun r => cons (isNext_exec (.blockLandingCheck die (r.src * 16 + r.chan)))
      (cons (isNext_exec (.blockCommit die (r.src * 16 + r.chan))) (one (isNext_exec (.cancelProcess die (r.src * 16 + r.chan))))))

end AllNext

theorem isNext_packetEvent {q : Nat} {p : List Byte} : ∀ s, IsNext (packetEvent q p s) := by
  fun_cases packetEvent q p <;> exact fun _ => .fromQueue

/-- Each candidate of the fixed order (log 1) is an event of the dispatch, an admission or a turn of the ports. -/
theorem allNext_internalEvents (s : State) : AllNext s.internalEvents := by
  unfold State.internalEvents
  extract_lets us ds perUnit perDie
  have hunit {f : Nat → Core → List Act} (hf : ∀ r u, AllNext (f r u)) : AllNext (perUnit f) := .flatten fun u => hf u.1 u.2
  have hdie {f : Nat → Die → List Act} (hf : ∀ r d, AllNext (f r d)) : AllNext (perDie f) := .flatten fun d => hf d.1 d.2
  clear_value perUnit perDie
  simp only [AllNext.append_iff]
  and_intros
  · exact hunit fun _ _ => .unitEvents
  · exact hdie fun _ _ => .dieEvents
  · exact hunit fun _ _ => .engineEvents
  · exact .flatten fun d => .map fun high => isNext_exec (.rampStep d high)
  · exact .map fun c => isNext_exec (.trapRecordLand c.1)
  · exact .map fun i => isNext_exec (.spawnPacketAccept i)
  · exact .map fun i => isNext_exec (.pushLand i)
  · exact .map fun _ => isNext_packetEvent
  · exact .ite .nil (.one fun _ => .next)
  · exact .map fun w => isNext_exec (.sweepAdmission w.id)
  · exact hdie fun _ _ => .schedEvents
  · exact .map fun i => isNext_exec (.snapshotCopyDone i)
  · exact .map fun i => isNext_exec (.batchTick i)
  · exact .map fun k => isNext_exec (.keySlotFlushDone k.1)
  · exact hdie fun _ _ => .sluiceEvents
  · exact .flatten fun i => .cons (isNext_exec (.blockArrival i)) (.cons (isNext_exec (.committedAckArrival i))
      (.one (isNext_exec (.cancelAckArrival i))))
  · exact .flatten fun k => .flatten fun e => .cons (isNext_exec (.lineTransfer k.1 e.line))
      (.one (isNext_exec (.laneTest k.1 e.pch)))
  · exact .flatten fun d => .map fun c => isNext_exec (.railSwitch d.1 c.1)
  · exact hunit fun r _ => .ite (.one (isNext_exec (.pairAbandon r))) .nil

theorem isNext_internalEvent {s : State} {e : Act} (h : s.internalEvent = some e) (t : State) : IsNext (e t) := by
  unfold State.internalEvent at h
  exact allNext_internalEvents s e (List.mem_of_find?_eq_some h) t

/-! ## Turns -/

theorem isNext_settled {b : State} {o : Out} (h : IsNext o) : IsNext (settled b o) := by
  obtain ⟨t, rfl⟩ := h
  exact .next

theorem isNext_accept {s : State} {o : Out} (h : IsNext o) : IsNext (s.accept o) := by
  fun_cases State.accept s o
  case case1 => exact h
  all_goals exact .next

theorem isNext_runWord {late : Bool} {s : State} {w : WordHere} : IsNext (runWord late s w) := by
  fun_cases runWord late s w
  case case3 => exact isNext_exec ..
  all_goals exact .next

theorem isNext_runFetched {late : Bool} {s : State} : IsNext (runFetched late s) := by
  fun_cases runFetched late s
  case case4 => exact isNext_runWord
  all_goals exact .next

theorem isNext_unitTurn {late : Bool} {s : State} : IsNext (unitTurn late s) := by
  fun_cases unitTurn late s
  case case6 =>
    refine isNext_accept ?_
    split
    · exact isNext_runWord
    · exact isNext_runFetched
  all_goals exact .next

theorem isNext_takeTurn {late : Bool} {s : State} : IsNext (takeTurn late s) := isNext_settled isNext_unitTurn

theorem isNext_takeEvent {i : Instr} {s : State} : IsNext (takeEvent (exec i) s) := isNext_settled (isNext_exec i s)

theorem isNext_ownTurn {s : State} : IsNext (ownTurn s) := by
  fun_cases ownTurn s
  case case1 hevent => exact isNext_settled (isNext_internalEvent hevent _)
  all_goals exact isNext_takeTurn

theorem isNext_bootTurn {s : State} {b : Boot} : IsNext (bootTurn s b) := by
  fun_cases bootTurn s b
  case case1 => exact isNext_takeEvent
  all_goals exact .next

theorem isNext_turn {s : State} : IsNext (turn s) := by
  fun_cases turn s
  case case1 => exact isNext_takeEvent
  case case4 => exact isNext_ownTurn
  all_goals exact isNext_takeTurn

theorem isNext_step {s : State} (h : s.halted = false ∨ s.restarts = true) : IsNext (step s) := by
  fun_cases step s
  case case1 hstands => rcases h with h | h <;> simp [h] at hstands
  case case2 => exact isNext_bootTurn
  case case3 => exact isNext_turn

/-- Settles O29: every arm of the dispatch and every turn answers a next state, and only a halted part that nothing restarts has
no turn. -/
theorem stepsGoOn : Obligations.StepsGoOn := by
  refine ⟨isNext_exec, fun s h => isNext_step ?_, fun s hhalt hagenda => ?_⟩
  · rcases h with h | ⟨b, l, r, h⟩ | ⟨r, h⟩
    · exact .inl h
    · exact .inr (by rw [State.restarts, h])
    · exact .inr (by rw [State.restarts, h])
  · simp only [step, hhalt, State.restarts, hagenda, Bool.not_false, Bool.and_self, if_true]

end Sys2Proof.Proofs
end

section
/-!
PROOFS. A memory request of a port that meets a worn bus (12 R237, R238; 25 R399, R405): the access is part of the request's turn,
and so is the lane test at its end, whose events reach the host before the completion.
-/
namespace Sys2Proof.Proofs
open Machine Claims

/-! ## A message that its port takes -/

theorem partDone_host (s : State) : s.partDone.host = s.host := by
  unfold State.partDone
  split <;> rfl

theorem onPort_of_free {s t : State} {port : Nat} {m : HostReq} {f : State → Option State} (hfree : PortFree s port)
    (hdone : f s = some t) (hheld : t.held = false) : s.onPort port m f = .next t.partDone := by
  obtain ⟨hup, hboot, hstuck, -, hwaiting⟩ := hfree
  have hfirst : (s.host.waiting.any fun x => x.1 = port) = false := by simpa using hwaiting
  have htry : s.tryMsg f = (true, t.partDone) := by simp [State.tryMsg, hdone, hheld]
  simp [State.onPort, hup, hboot, hstuck, hfirst, htry]

section
variable {s s1 s2 : State} {port ctx n : Nat} {va : Word} {l : List HostPart} {bs : List Byte}

theorem msgMemrd_of_read (hpos : 0 < n) (hmax : n ≤ 4096) (hparts : s.hostParts port ctx va n .load = .ok l s1)
    (hread : s1.hostRead l = (some bs, s2)) : s.msgMemrd port ctx va n = some (s2.answer port "OK" 0 bs) := by
  have hsize : ¬(n = 0 ∨ 4096 < n) := by omega
  rw [State.msgMemrd, if_neg hsize, hparts]
  simp only [hread]

/-- What the host has been sent by the end of a MEMRD: what its read at the homes has sent, then its completion. -/
theorem memrd_out (hfree : PortFree s port) (hpos : 0 < n) (hmax : n ≤ 4096) (hparts : s.hostParts port ctx va n .load = .ok l s1)
    (hread : s1.hostRead l = (some bs, s2)) (hheld : s2.held = false) {t : State} (hexec : exec (.memrd port ctx va n) s = .next t) :
    t.host.out = s2.host.out ++ (s2.host.posted (reply port "OK" 0 bs)).toList := by
  have hdone : exec (.memrd port ctx va n) s = .next (s2.answer port "OK" 0 bs).partDone :=
    onPort_of_free hfree (msgMemrd_of_read hpos hmax hparts hread) hheld
  obtain rfl : (s2.answer port "OK" 0 bs).partDone = t := by simpa [hdone] using hexec
  rw [partDone_host]
  rfl

end

/-! ## The counterexample -/

/-- The part at READY, but lane 3 of pseudo-channel 0 of stack 0 is bad for good, and both spares of the pseudo-channel are in use. -/
def wornPart : State :=
  { State.reset with hbm := [(0, { badLanes := [{ pch := 0, lane := 3 }], swaps := [(0, 1, 0), (0, 2, 1)] })] }

/-- The byte at PA 0, in a line of that pseudo-channel. -/
def wornByte : HostPart := { pa := 0, attr := {}, len := 1 }

theorem portFree_wornPart : PortFree wornPart 0 := by
  unfold PortFree
  decide +kernel

theorem hostParts_wornPart : wornPart.hostParts 0 0 0#64 1 .load = .ok [wornByte] wornPart := rfl

/-- The read succeeds by erasure, and the lane test in it has retired the pseudo-channel, which the slice tells the host (12 R238). -/
theorem hostRead_wornPart : (wornPart.hostRead [wornByte]).1.isSome = true ∧ (wornPart.hostRead [wornByte]).2.held = false ∧
    (wornPart.hostRead [wornByte]).2.host.out = wornPart.host.out ++ [.event "CHANNEL_RETIRED" 0 "OK" [0, 0] 0] := by
  decide +kernel

theorem posted_wornPart (bs : List Byte) : wornPart.host.posted (reply 0 "OK" 0 bs) = some (reply 0 "OK" 0 bs) := rfl

/-- Refutes O22: a MEMRD that passes does not tell the host only its completion. Its read of one byte at PA 0 finds a third bad lane on
its pseudo-channel, both spares in use, so CHANNEL_RETIRED goes out before the completion with OK. -/
theorem not_hostMemory : ¬ Obligations.HostMemory := by
  intro h
  obtain ⟨-, hrequests⟩ := h wornPart 0 0 0#64
  obtain ⟨hmemrd, -⟩ := hrequests portFree_wornPart
  obtain ⟨-, -, hpasses⟩ := hmemrd 1 (by decide) (by decide)
  obtain ⟨hsome, hheld, hevent⟩ := hostRead_wornPart
  obtain ⟨bs, hbs⟩ := Option.isSome_iff_exists.mp hsome
  have hread : wornPart.hostRead [wornByte] = (some bs, (wornPart.hostRead [wornByte]).2) := Prod.ext hbs rfl
  obtain ⟨t, hexec, htold, -⟩ := hpasses _ _ bs _ hostParts_wornPart hread hheld
  have hout := memrd_out portFree_wornPart (by decide) (by decide) hostParts_wornPart hread hheld hexec
  rw [Told, hout, hevent, List.append_assoc, List.append_cancel_left_eq, List.filterMap_cons_some (posted_wornPart bs)] at htold
  cases htold

end Sys2Proof.Proofs
end

section
/-!
PROOFS. The issue of the vector words (09 R170–R188): operands that pass the rules of a word pass every check the model makes of
them, and a word whose checks pass places its command.
-/
namespace Sys2Proof.Proofs
open Machine Claims

/-! ## A command enters its queue -/

section
variable (u : Core) (c : Cmd)

theorem done_engine (x : EngId) : u.done.engine x = u.engine x := by
  cases x <;> simp [Core.engine]

theorem queueCmd_engine_same (e : EngId) : (u.queueCmd e c).engine e = (u.engine e).push c := by
  cases e <;> rfl

theorem queueCmd_engine_other {e x : EngId} (h : x ≠ e) : (u.queueCmd e c).engine x = u.engine x := by
  cases e <;> cases x <;> simp [Core.queueCmd, Core.modEngine, Core.setEngine, Core.engine] at h ⊢

end

theorem completes_queueCmd (s : State) (e : EngId) (c : Cmd) : Completes s (s.modCore fun u => u.queueCmd e c).done := by
  refine ⟨.of_mem rfl, goesOn_done s _ ?_ ?_ ?_ ?_, fun r => ?regs, ?stall⟩
  case regs => rw [State.reg_done]; simp [State.reg, Core.queueCmd, Core.modEngine]
  case stall => simp [State.done]
  all_goals simp [Core.queueCmd, Core.modEngine]

/-- 02 R34: an engine word whose checks pass, with room in the queue, issues the command it has made of its operands. -/
theorem engineWord_issues {s : State} {i : Instr} {e : EngId} {chk : IssueFault} {r0 r1 : Word} {d0 d1 d2 : BitVec 128}
    (hroom : Room s e) (hchk : chk = none)
    (hexec : exec i s = s.engineWord e chk { s.newCmd with r0 := r0, r1 := r1, d0 := d0, d1 := d1, d2 := d2 }) :
    Issues s i e r0 r1 d0 d1 d2 := by
  obtain ⟨hcore, hqueue⟩ := hroom
  have hfull : (s.core.engine e).full = false := by simpa [Engine.full] using hqueue
  let c : Cmd := { s.newCmd with r0 := r0, r1 := r1, d0 := d0, d1 := d1, d2 := d2 }
  have hplaced : (s.modCore fun u => u.queueCmd e c).done.core.engine e = (s.core.engine e).push c :=
    (done_engine _ e).trans (queueCmd_engine_same s.core c e)
  refine ⟨(s.modCore fun u => u.queueCmd e c).done, { c with num := (s.core.engine e).issued + 1 }, ?_, completes_queueCmd s e c, ?_, ?_,
    fun x hx => (done_engine _ x).trans (queueCmd_engine_other s.core c hx), rfl, rfl, rfl, rfl, rfl, rfl, rfl, rfl, rfl, rfl⟩
  · rw [hexec, hchk]
    simp only [State.engineWord, hcore, hfull, if_false, Bool.false_eq_true]
    rfl
  · rw [hplaced]; rfl
  · rw [hplaced]; rfl

/-! ## The checks at issue -/

@[simp] theorem firstFault_nil : firstFault [] = none := rfl

@[simp] theorem firstFault_cons_eq_none {x : IssueFault} {l : List IssueFault} :
    firstFault (x :: l) = none ↔ x = none ∧ firstFault l = none := by
  simp [firstFault]

@[simp] theorem failIf_eq_none {b : Bool} {cause : Nat} : failIf b cause = none ↔ b = false := by
  cases b <;> simp [failIf]

theorem fmtMult_eq (f : Nat) : fmtMult f = if f = 4 then 4 else if f = 5 ∨ f = 8 then 2 else if f = 9 then 8 else 1 := by
  unfold fmtMult
  split <;> simp_all

theorem noScale_of_mem : ∀ f ∈ ([2, 3, 4, 5, 6, 8, 9] : List Nat), noScale f = false := by decide

theorem and_rangesMeet_eq_false {c : Bool} {a n b m : Nat} (h : c = true → Apart a n b m) : (c && rangesMeet a n b m) = false := by
  simp only [rangesMeet, Bool.and_eq_false_imp, decide_eq_true_eq, decide_eq_false_iff_not, Nat.not_lt]
  intro hc hlt
  exact (h hc).resolve_right (by omega)

/-- 07 R131: a descriptor that fits a memory passes the check of the model in ordinary role. -/
theorem tile_fault_of_ok {size : Nat} {t : Tile} (h : TileOk size t) : t.fault size = none := by
  obtain ⟨hfmt, hmult, hscaled, hrows, hcols, hoff, hstride, hrb, hend, hscale, haw, hboth⟩ := h
  have hformat : ¬(13 ≤ t.fmt ∨ t.cols % fmtMult t.fmt ≠ 0 ∨ (t.sc && noScale t.fmt) = true) := by
    rw [fmtMult_eq]
    rintro (h | h | h)
    · omega
    · exact h hmult
    · obtain ⟨hsc, hno⟩ := Bool.and_eq_true_iff.mp h
      simp [noScale_of_mem _ (hscaled hsc)] at hno
  have hshape : ¬(t.rows = 0 ∨ t.cols = 0 ∨ t.off % 16 ≠ 0 ∨ t.stride % 16 ≠ 0 ∨ (1 < t.rows ∧ t.stride < t.rb) ∨ (false && t.aw) = true) := by
    simp only [Bool.false_and, Bool.false_eq_true, or_false]
    omega
  have hbounds : ¬(size < t.off + t.span ∨ (t.sc ∧ size < t.sco + t.scaleBytes) ∨ (t.aw ∧ size < t.awo + 16)) := by
    rintro (h | ⟨hsc, h⟩ | ⟨hw, h⟩)
    · omega
    · exact absurd (hscale hsc).1 (by omega)
    · exact absurd (haw hw).1 (by omega)
  have hapart : ((t.sc && rangesMeet t.off t.span t.sco t.scaleBytes) || (t.aw && rangesMeet t.off t.span t.awo 16)
      || (t.sc && t.aw && rangesMeet t.sco t.scaleBytes t.awo 16)) = false := by
    rw [and_rangesMeet_eq_false fun hsc => (hscale hsc).2, and_rangesMeet_eq_false fun hw => (haw hw).2,
      and_rangesMeet_eq_false fun h => hboth (Bool.and_eq_true_iff.mp h).1 (Bool.and_eq_true_iff.mp h).2]
    rfl
  rw [Tile.fault, if_neg hformat, if_neg hshape, if_neg hbounds, hapart]
  rfl

theorem tileFault_of_ordinary {s : State} {t : TileNo} (h : Ordinary s t) : s.tileFault (s.td t) = none := by
  have hfault : (tileOf (s.td t)).fault (localSize s.cur) = none := tile_fault_of_ok h
  simp [State.tileFault, hfault]

/-- A tile that passes 07 R131 and has no block scales (09 R172). -/
def PlainTile (s : State) (t : TileNo) : Prop := Ordinary s t ∧ (tileAt s t).sc = false

theorem tileFaults_of_ordinary {s : State} {l : List TileNo} (h : ∀ t ∈ l, Ordinary s t) : s.tileFaults (l.map s.td) = none := by
  induction l with
  | nil => rfl
  | cons t l ih =>
    obtain ⟨ht, hl⟩ := List.forall_mem_cons.mp h
    exact firstFault_cons_eq_none.mpr ⟨tileFault_of_ordinary ht, ih hl⟩

theorem tileFaults_of_plain {s : State} {l : List TileNo} (h : ∀ t ∈ l, PlainTile s t) : s.tileFaults (l.map s.td) = none :=
  tileFaults_of_ordinary fun t ht => (h t ht).1

theorem scaledFault_of_plain {s : State} {l : List TileNo} (h : ∀ t ∈ l, PlainTile s t) : scaledFault (l.map s.td) = none := by
  simpa [scaledFault, tileAt] using fun t ht => (h t ht).2

/-! ## Formats and shapes -/

@[simp] theorem isFloat_iff {f : Nat} : isFloat f = true ↔ FloatFmt f := by simp [isFloat, FloatFmt]

@[simp] theorem isInt_iff {f : Nat} : isInt f = true ↔ IntFmt f := by simp [isInt, IntFmt, or_assoc]

@[simp] theorem sameSize_iff {x y : Tile} : sameSize x y = true ↔ SameSize x y := by simp [sameSize, SameSize]

theorem isBlock_of_mem : ∀ f ∈ ([2, 3, 4, 5, 6, 8] : List Nat), isBlock f = true := by decide

theorem isByteWide_of_ne {f : Nat} (h4 : f ≠ 4) (h5 : f ≠ 5) (h8 : f ≠ 8) (h9 : f ≠ 9) : isByteWide f = true := by
  have hbits : 8 ≤ fmtBits f := by
    unfold fmtBits
    split <;> omega
  simp [isByteWide, fVQ2, h9, hbits]

/-- The number by which the statements name a class of formats (09 R175). -/
def ewClassNo : EwClass → Nat
  | .float => 0
  | .integer => 1
  | .both => 2
  | .bits => 3

theorem all_eq_headD {fs : List Nat} (h : ∀ f ∈ fs, ∀ g ∈ fs, f = g) : (fs.all fun f => f == fs.headD 0) = true := by
  cases fs with
  | nil => rfl
  | cons x xs => exact List.all_eq_true.mpr fun f hf => beq_iff_eq.mpr (h f hf x List.mem_cons_self)

/-- 09 R175: formats that fit a class pass its check. -/
theorem fits_of_classOk {k : EwClass} {fs : List Nat} (h : ClassOk (ewClassNo k) fs) : k.fits fs = true := by
  have hfloat : (∀ f ∈ fs, FloatFmt f) → fs.all isFloat = true := by simp
  have hint : ((∀ f ∈ fs, ∀ g ∈ fs, f = g) ∧ ∀ f ∈ fs, IntFmt f) → ((fs.all fun f => f == fs.headD 0) && fs.all isInt) = true :=
    fun ⟨hone, hall⟩ => by rw [all_eq_headD hone]; simpa using hall
  cases k with
  | float => exact hfloat h
  | integer => exact hint h
  | both => exact Bool.or_eq_true_iff.mpr (Or.imp hfloat hint h)
  | bits =>
    obtain ⟨hone, hall⟩ : (∀ f ∈ fs, ∀ g ∈ fs, f = g) ∧ ∀ f ∈ fs, FloatFmt f ∨ IntFmt f := h
    show ((fs.all fun f => f == fs.headD 0) && fs.all fun f => isFloat f || isInt f) = true
    rw [all_eq_headD hone]
    simpa using hall

/-! ## Words with modes (09 R172, Table 50) -/

section
variable {s : State} {d a : TileNo} {b : RegNo} {m : BitVec 2} {fmts : Nat → Nat → List Nat → Prop} {fmt : Nat → Nat → List Nat → Bool}

theorem opTile_getD : (s.opTile b m).getD 0#128 = if m = 3#2 then 0#128 else s.td (BitVec.ofNat 5 b.toNat) := by
  unfold State.opTile
  split <;> rfl

theorem modeShape_of {tb td : Tile} (h0 : m = 0#2 → SameSize tb td) (h1 : m = 1#2 → tb.rows = 1 ∧ tb.cols = td.cols)
    (h2 : m = 2#2 → tb.rows = td.rows ∧ tb.cols = 1) : modeShape m tb td = true := by
  unfold modeShape
  split
  · next e0 => exact sameSize_iff.mpr (h0 e0)
  · split
    · next e1 => simpa using h1 e1
    · split
      · next e2 => simpa using h2 e2
      · rfl

theorem modesFault_eq_none (h : ModesOk s d a b m fmts) (hfmt : ∀ fd fa fb, fmts fd fa fb → fmt fd fa fb = true) :
    s.modesFault (s.td d) (s.td a) (s.opTile b m) m fmt = none := by
  obtain ⟨hd, ha, hsd, hsa, hsize, hb, h0, h1, h2, hf⟩ := h
  have hformats := hfmt _ _ _ hf
  have hsame : sameSize (tileOf (s.td a)) (tileOf (s.td d)) = true := sameSize_iff.mpr hsize
  by_cases hm : m = 3#2
  · have hplain : ∀ t ∈ [d, a], PlainTile s t := by simp [PlainTile, *]
    rw [if_pos hm] at hformats
    rw [State.opTile, if_pos hm]
    simp only [State.modesFault, firstFault_cons_eq_none, failIf_eq_none, firstFault_nil, and_true, hsame]
    exact ⟨tileFaults_of_plain hplain, scaledFault_of_plain hplain, congrArg not hformats, rfl⟩
  · have hplain : ∀ t ∈ [d, a, BitVec.ofNat 5 b.toNat], PlainTile s t := by
      simp only [List.forall_mem_cons, PlainTile]
      exact ⟨⟨hd, hsd⟩, ⟨ha, hsa⟩, hb hm, nofun⟩
    rw [if_neg hm] at hformats
    rw [State.opTile, if_neg hm]
    simp only [State.modesFault, firstFault_cons_eq_none, failIf_eq_none, firstFault_nil, and_true, hsame]
    exact ⟨tileFaults_of_plain hplain, scaledFault_of_plain hplain, congrArg not hformats, congrArg not (modeShape_of h0 h1 h2)⟩

/-- A word with modes on tiles that pass issues with the scalar of mode 3, or the second tile of the other modes. -/
theorem modesWord_issues {i : Instr} (hroom : Room s .vec) (h : ModesOk s d a b m fmts)
    (hfmt : ∀ fd fa fb, fmts fd fa fb → fmt fd fa fb = true) (hexec : exec i s = s.modesWord d a b m fmt) :
    Issues s i .vec (if m = 3#2 then s.reg b else 0#64) 0#64 (s.td d) (s.td a) (if m = 3#2 then 0#128 else s.td (BitVec.ofNat 5 b.toNat)) := by
  rw [← opTile_getD]
  exact engineWord_issues hroom (modesFault_eq_none h hfmt) hexec

end

/-- Each word with modes checks its formats against the class of Table 51. -/
theorem exec_modeWords : ∀ x ∈ modeWords, ∃ k, x.1 = ewClassNo k ∧ ∀ d a b m s, exec (x.2 d a b m) s = s.modesWord d a b m (ewFormats k) := by
  simp only [modeWords, List.forall_mem_cons]
  exact ⟨⟨.both, rfl, fun _ _ _ _ _ => rfl⟩, ⟨.both, rfl, fun _ _ _ _ _ => rfl⟩, ⟨.both, rfl, fun _ _ _ _ _ => rfl⟩,
    ⟨.float, rfl, fun _ _ _ _ _ => rfl⟩, ⟨.both, rfl, fun _ _ _ _ _ => rfl⟩, ⟨.both, rfl, fun _ _ _ _ _ => rfl⟩,
    ⟨.integer, rfl, fun _ _ _ _ _ => rfl⟩, ⟨.bits, rfl, fun _ _ _ _ _ => rfl⟩, ⟨.bits, rfl, fun _ _ _ _ _ => rfl⟩,
    ⟨.bits, rfl, fun _ _ _ _ _ => rfl⟩, ⟨.integer, rfl, fun _ _ _ _ _ => rfl⟩, ⟨.integer, rfl, fun _ _ _ _ _ => rfl⟩, nofun⟩

theorem cmpFormats_of {fd fa : Nat} {fb : List Nat} (h : fd = 7 ∧ ClassOk 2 (fa :: fb)) : cmpFormats fd fa fb = true := by
  obtain ⟨rfl, hclass⟩ := h
  exact Bool.and_eq_true_iff.mpr ⟨rfl, fits_of_classOk (k := .both) hclass⟩

theorem selFormats_of {fd fa : Nat} {fb : List Nat} (h : fa = 7 ∧ fd ≠ 4 ∧ fd ≠ 5 ∧ fd ≠ 8 ∧ fd ≠ 9 ∧ ∀ f ∈ fb, f = fd) :
    selFormats fd fa fb = true := by
  obtain ⟨rfl, h4, h5, h8, h9, hsame⟩ := h
  simpa [selFormats, fUINT8, isByteWide_of_ne h4 h5 h8 h9] using hsame

/-! ## The checks of the words on D and A alone -/

section
variable {td ta : Tile}

theorem sameShape_of (hsize : SameSize td ta) (hfmt : td.fmt = ta.fmt) (hsc : td.sc = ta.sc) : sameShape td ta = true := by
  simp [sameShape, hsize.1, hsize.2, hfmt, hsc]

/-- VQUANT and VDQUANT (09 R180): a plain float tile beside a block-scaled one. -/
theorem quantFault_eq_none {plain block : Tile} (hsize : SameSize plain block) (hplain : plain.sc = false) (hfloat : FloatFmt plain.fmt)
    (hblock : block.sc = true) (hfmt : block.fmt ∈ ([2, 3, 4, 5, 6, 8] : List Nat)) : quantFault plain block = none := by
  simp [quantFault, hplain, isFloat_iff.mpr hfloat, hblock, isBlock_of_mem _ hfmt, sameSize_iff.mpr hsize]

section
variable (hd : td.sc = false) (ha : ta.sc = false)
include hd ha

theorem plainFault_eq_none {fmt shape : Bool} (hfmt : fmt = true) (hshape : shape = true) : plainFault fmt shape td ta = none := by
  simp [plainFault, hd, ha, hfmt, hshape]

theorem unaryEw_eq_none {k : EwClass} (hsize : SameSize ta td) (hclass : ClassOk (ewClassNo k) [td.fmt, ta.fmt]) : unaryEw k td ta = none :=
  plainFault_eq_none hd ha (fits_of_classOk hclass) (sameSize_iff.mpr hsize)

theorem bcastFault_eq_none {k : BitVec 2} (hfmt : td.fmt = ta.fmt) (h0 : k = 0#2 → td.cols = ta.cols) (h1 : k = 1#2 → td.rows = ta.rows) :
    bcastFault k.toNat td ta = none := by
  refine plainFault_eq_none hd ha (beq_iff_eq.mpr hfmt) ?_
  split
  · next e0 => exact beq_iff_eq.mpr (h0 (BitVec.eq_of_toNat_eq e0)).symm
  · split
    · next e1 => exact beq_iff_eq.mpr (h1 (BitVec.eq_of_toNat_eq e1)).symm
    · rfl

/-- VTRANS (09 R177): one format of byte width or more, and the shape turned. -/
theorem transFault_eq_none (hfmt : td.fmt = ta.fmt) (h4 : td.fmt ≠ 4) (h5 : td.fmt ≠ 5) (h8 : td.fmt ≠ 8) (h9 : td.fmt ≠ 9)
    (hrows : td.rows = ta.cols) (hcols : td.cols = ta.rows) :
    plainFault (td.fmt == ta.fmt && isByteWide td.fmt) (td.rows == ta.cols && td.cols == ta.rows) td ta = none :=
  plainFault_eq_none hd ha (by rw [isByteWide_of_ne h4 h5 h8 h9]; simpa using hfmt) (by simp [hrows, hcols])

theorem cvtFault_eq_none {o : BitVec 1} (hsize : SameSize ta td) (hd9 : td.fmt ≠ 9) (hd10 : td.fmt ≠ 10) (ha9 : ta.fmt ≠ 9) (ha10 : ta.fmt ≠ 10)
    (ho : o = 1#1 → td.fmt = 2 ∨ td.fmt = 3) : cvtFault (o == 1#1) td ta = none := by
  refine plainFault_eq_none hd ha ?_ (sameSize_iff.mpr hsize)
  have hovn : (!(o == 1#1) || td.fmt == fF8A || td.fmt == fF8B) = true := by
    by_cases h : o = 1#1
    · simpa [h, fF8A, fF8B] using ho h
    · simp [h]
  rw [hovn]
  simp [fVQ2, fSE8, hd9, hd10, ha9, ha10]

theorem reduceFault_eq_none (hfa : FloatFmt ta.fmt) (hfd : FloatFmt td.fmt) (hrows : td.rows = ta.rows) : reduceFault td ta = none :=
  plainFault_eq_none hd ha (by simpa using ⟨hfa, hfd⟩) (beq_iff_eq.mpr hrows.symm)

theorem indexFault_eq_none (hfa : FloatFmt ta.fmt) (hfd : td.fmt = 12) (hrows : td.rows = ta.rows) : indexFault td ta = none :=
  plainFault_eq_none hd ha (by simpa [fUINT32] using ⟨hfa, hfd⟩) (beq_iff_eq.mpr hrows.symm)

theorem rotFault_eq_none {s : State} {table pos : Word} (hfa : FloatFmt ta.fmt) (hfd : FloatFmt td.fmt) (hsize : SameSize ta td)
    (heven : ta.cols % 2 = 0) (htable : table.toNat < 2 ^ 24 ∧ table.toNat % 16 = 0 ∧ table.toNat + ta.cols / 2 * 4 ≤ localSize s.cur)
    (hpos : pos.toNat % 2 ^ 32 + (ta.rows - 1) * (pos.toNat / 2 ^ 32) ≤ 2 ^ 31 - 1) : s.rotFault table pos td ta = none := by
  simp only [State.rotFault, firstFault_cons_eq_none, firstFault_nil, failIf_eq_none, and_true, Bool.or_eq_false_iff, decide_eq_false_iff_not]
  exact ⟨plainFault_eq_none hd ha (by simpa using ⟨hfa, hfd⟩) (by simpa using ⟨hsize, heven⟩), by omega, by omega⟩

end
end

/-! ## Words on D and A alone, and the softmax words -/

section
variable {s : State} {i : Instr} {d a : TileNo}

theorem unaryWord_issues {r0 r1 : Word} {chk : Tile → Tile → IssueFault} (hroom : Room s .vec) (hd : Ordinary s d) (ha : Ordinary s a)
    (hchk : chk (tileAt s d) (tileAt s a) = none) (hexec : exec i s = s.unaryWord d a r0 r1 chk) :
    Issues s i .vec r0 r1 (s.td d) (s.td a) 0#128 := by
  refine engineWord_issues hroom ?_ hexec
  have htiles : s.tileFaults ([d, a].map s.td) = none := tileFaults_of_ordinary (by simp [hd, ha])
  exact firstFault_cons_eq_none.mpr ⟨htiles, firstFault_cons_eq_none.mpr ⟨hchk, rfl⟩⟩

/-- VSMAXO and VSMAXF (09 R183, R184): the state tile is FP32, with A's rows and three columns or more (log 121). -/
theorem softmaxWord_issues {b : RegNo} (hroom : Room s .vec) (hplain : ∀ t ∈ [d, a, BitVec.ofNat 5 b.toNat], PlainTile s t)
    (hfmt : FloatFmt (tileAt s d).fmt ∧ FloatFmt (tileAt s a).fmt ∧ (tileAt s (BitVec.ofNat 5 b.toNat)).fmt = 0)
    (hsize : SameSize (tileAt s a) (tileAt s d))
    (hstate : (tileAt s (BitVec.ofNat 5 b.toNat)).rows = (tileAt s a).rows ∧ 3 ≤ (tileAt s (BitVec.ofNat 5 b.toNat)).cols)
    (hexec : exec i s = s.softmaxWord d a b) :
    Issues s i .vec 0#64 0#64 (s.td d) (s.td a) (s.td (BitVec.ofNat 5 b.toNat)) := by
  refine engineWord_issues hroom ?_ hexec
  simp only [firstFault_cons_eq_none, failIf_eq_none, firstFault_nil, and_true]
  exact ⟨tileFaults_of_plain hplain, scaledFault_of_plain hplain, by simpa [fFP32, and_assoc, tileAt] using hfmt,
    by simpa [and_assoc, tileAt] using ⟨hsize, hstate⟩⟩

end

/-- Each element-wise word on one tile checks its formats against the class of Table 51. -/
theorem exec_unaryWords : ∀ x ∈ unaryWords, ∃ k, x.1 = ewClassNo k ∧ ∀ d a s, exec (x.2 d a) s = s.unaryWord d a 0#64 0#64 (unaryEw k) := by
  simp only [unaryWords, List.forall_mem_cons]
  exact ⟨⟨.both, rfl, fun _ _ _ => rfl⟩, ⟨.both, rfl, fun _ _ _ => rfl⟩, ⟨.float, rfl, fun _ _ _ => rfl⟩, ⟨.float, rfl, fun _ _ _ => rfl⟩,
    ⟨.float, rfl, fun _ _ _ => rfl⟩, ⟨.float, rfl, fun _ _ _ => rfl⟩, ⟨.float, rfl, fun _ _ _ => rfl⟩, ⟨.float, rfl, fun _ _ _ => rfl⟩,
    ⟨.float, rfl, fun _ _ _ => rfl⟩, ⟨.float, rfl, fun _ _ _ => rfl⟩, ⟨.float, rfl, fun _ _ _ => rfl⟩, ⟨.float, rfl, fun _ _ _ => rfl⟩, nofun⟩

theorem elementwiseIssue : ElementwiseIssue := by
  intro s d a b m hroom nb scalar second td ta moded single
  refine ⟨fun x hx h => ?_, fun h => ?_, fun h => ?_, fun x hx hd ha hsd hsa hsize hclass => ?_, fun hd ha hsd hsa hsize hfd hfa => ?_⟩
  · obtain ⟨k, hk, hexec⟩ := exec_modeWords x hx
    refine modesWord_issues hroom h (fun _ _ _ hclass => ?_) (hexec d a b m s)
    exact fits_of_classOk (hk ▸ hclass)
  · exact ⟨modesWord_issues hroom h (fun _ _ _ => cmpFormats_of) rfl, modesWord_issues hroom h (fun _ _ _ => cmpFormats_of) rfl,
      modesWord_issues hroom h (fun _ _ _ => cmpFormats_of) rfl⟩
  · exact modesWord_issues hroom h (fun _ _ _ => selFormats_of) rfl
  · obtain ⟨k, hk, hexec⟩ := exec_unaryWords x hx
    exact unaryWord_issues hroom hd ha (unaryEw_eq_none hsd hsa hsize (hk ▸ hclass)) (hexec d a s)
  · have hfloat : ClassOk (ewClassNo .float) [td.fmt, ta.fmt] := List.forall_mem_cons.mpr ⟨hfd, List.forall_mem_singleton.mpr hfa⟩
    exact unaryWord_issues (chk := unaryEw .float) hroom hd ha (unaryEw_eq_none hsd hsa hsize hfloat) rfl

/-! ## The other vector words -/

theorem pairReg_eq (p : BitVec 5) : pairReg p = pairLo p := by rw [pairReg, pairLo, Nat.mul_comm]

theorem nextReg_pairReg (p : BitVec 5) : nextReg (pairReg p) = pairHi p := by
  rw [pairReg, pairHi, nextReg, Nat.mul_comm, BitVec.ofNat_add]

section
variable (s : State) (d a : TileNo) (p : BitVec 5)

theorem exec_vrng : exec (.vrng d p) s =
    s.engineWord .vec (firstFault [s.tileFault (s.td d), failIf ((tileAt s d).sc ||
        !((tileAt s d).fmt == fUINT32 || (tileAt s d).fmt == fFP32 || (tileAt s d).fmt == fBF16)) cFORMAT])
      { s.newCmd with r0 := s.reg (pairLo p), r1 := s.reg (pairHi p), d0 := s.td d } := by
  rw [← nextReg_pairReg, ← pairReg_eq]
  rfl

theorem exec_vsample : exec (.vsample d a p) s = s.unaryWord d a (s.reg (pairLo p)) (s.reg (pairHi p)) indexFault := by
  rw [← nextReg_pairReg, ← pairReg_eq]
  rfl

theorem exec_vrot (o : BitVec 1) : exec (.vrot d a p o) s =
    s.unaryWord d a (s.reg (pairLo p)) (s.reg (pairHi p)) (s.rotFault (s.reg (pairLo p)) (s.reg (pairHi p))) := by
  rw [← nextReg_pairReg, ← pairReg_eq]
  rfl

end

section
variable {s : State} {d : TileNo} (hroom : Room s .vec) (hd : Ordinary s d) (hsd : (tileAt s d).sc = false)
include hroom hd hsd

theorem vbcastScalar_issues (b : RegNo) : Issues s (.vbcastScalar d b) .vec (s.reg b) 0#64 (s.td d) 0#128 0#128 := by
  have hplain : ∀ t ∈ [d], PlainTile s t := by simp [PlainTile, hd, hsd]
  refine engineWord_issues (chk := firstFault [s.tileFault (s.td d), scaledFault [s.td d]]) hroom ?_ rfl
  simp only [firstFault_cons_eq_none, firstFault_nil, and_true]
  exact ⟨tileFault_of_ordinary hd, scaledFault_of_plain hplain⟩

theorem vrng_issues (p : BitVec 5) (hfmt : (tileAt s d).fmt = 12 ∨ (tileAt s d).fmt = 0 ∨ (tileAt s d).fmt = 1) :
    Issues s (.vrng d p) .vec (s.reg (pairLo p)) (s.reg (pairHi p)) (s.td d) 0#128 0#128 := by
  refine engineWord_issues hroom ?_ (exec_vrng s d p)
  simp only [firstFault_cons_eq_none, failIf_eq_none, firstFault_nil, and_true, hsd, Bool.false_or]
  exact ⟨tileFault_of_ordinary hd, by rcases hfmt with h | h | h <;> rw [h] <;> rfl⟩

end

theorem vectorIssue : VectorIssue := by
  intro s d a b p k o hroom td ta nb tb q r single
  refine ⟨fun hd => ⟨fun hsd => vbcastScalar_issues hroom hd hsd b, fun hsd => vrng_issues hroom hd hsd p⟩, fun hd ha => ?_⟩
  have issues {i : Instr} {chk : Tile → Tile → IssueFault} (hchk : chk td ta = none) (hexec : exec i s = s.unaryWord d a 0#64 0#64 chk) :
      single i := unaryWord_issues hroom hd ha hchk hexec
  refine ⟨fun hsize hfmt hsc => ?vmov, fun hsize hsd hfd hsa hfa => ?vdquant, fun hsize hsa hfa hsd hfd => ?vquant, fun hsd hsa => ?_⟩
  case vmov =>
    refine issues (chk := fun x y => failIf (!sameShape x y) cTILE) ?_ rfl
    simp [sameShape_of hsize hfmt hsc]
  case vdquant => exact issues (chk := quantFault) (quantFault_eq_none hsize hsd hfd hsa hfa) rfl
  case vquant => exact issues (chk := fun x y => quantFault y x) (quantFault_eq_none ⟨hsize.1.symm, hsize.2.symm⟩ hsa hfa hsd hfd) rfl
  refine ⟨fun hfmt h0 h1 => ?vbcast, fun hfmt h4 h5 h8 h9 hrows hcols => ?vtrans, fun hsize hd9 hd10 ha9 ha10 ho => ?vcvt,
    fun hfa hrows => ⟨fun hfd => ?reduce, fun hfd => ?index⟩,
    fun hfa hfd hsize => ⟨fun hb hsb hfb hrows hcols => ?softmax, fun heven hoff halign hend hpos => ?vrot⟩⟩
  case vbcast => exact issues (chk := bcastFault k.toNat) (bcastFault_eq_none hsd hsa hfmt h0 h1) rfl
  case vtrans =>
    exact issues (chk := fun x y => plainFault (x.fmt == y.fmt && isByteWide x.fmt) (x.rows == y.cols && x.cols == y.rows) x y)
      (transFault_eq_none hsd hsa hfmt h4 h5 h8 h9 hrows hcols) rfl
  case vcvt => exact issues (chk := cvtFault (o == 1#1)) (cvtFault_eq_none hsd hsa hsize hd9 hd10 ha9 ha10 ho) rfl
  case reduce =>
    have hpass := reduceFault_eq_none hsd hsa hfa hfd hrows
    exact ⟨issues hpass rfl, issues hpass rfl, issues hpass rfl⟩
  case index =>
    have hpass := indexFault_eq_none hsd hsa hfa hfd hrows
    exact ⟨issues hpass rfl, unaryWord_issues hroom hd ha hpass (exec_vsample s d a p)⟩
  case softmax =>
    have hplain : ∀ t ∈ [d, a, nb], PlainTile s t := by simp only [List.forall_mem_cons]; exact ⟨⟨hd, hsd⟩, ⟨ha, hsa⟩, ⟨hb, hsb⟩, nofun⟩
    have issue {i : Instr} := softmaxWord_issues (i := i) hroom hplain ⟨hfd, hfa, hfb⟩ hsize ⟨hrows, hcols⟩
    exact ⟨issue rfl, issue rfl⟩
  case vrot =>
    exact unaryWord_issues hroom hd ha (rotFault_eq_none hsd hsa hfa hfd hsize heven ⟨hoff, halign, hend⟩ hpos) (exec_vrot s d a p o)

/-- Settles O49: each word's operands pass the checks of its kind (the modes, the formats of its class, the shape it asks for), and
an engine word whose checks pass issues its command. -/
theorem vectorIssues : Obligations.VectorIssues := ⟨elementwiseIssue, vectorIssue⟩

end Sys2Proof.Proofs
end
